-- ==== Sys2Proof/Word.lean ====
section
/-! DEFINITION. The widths of the machine: bytes, 32-bit words, 64-bit values and the 32-bit lane mask. -/

namespace Sys2Proof

/-- One byte of memory (R3). -/
abbrev Byte := BitVec 8
/-- One 32-bit register value, or one instruction word (R16, R65). -/
abbrev Word := BitVec 32
/-- One 64-bit value: an address, a register pair (R65). -/
abbrev DWord := BitVec 64
/-- One bit per lane of a warp (R42). -/
abbrev Mask := BitVec 32
/-- The six flags of `MODE`[13:8] in order: IV, DZ, OF, UF, NX, IO (R72). -/
abbrev Flags := BitVec 6

end Sys2Proof
end

