-- ==== Sys2Proof/Syntax.lean ====
section
/-! DEFINITION. The instructions: one constructor for each row of the opcode table. A constructor of a word row takes
the fields the table gives the row, in the word's order (R21, R32); the last 78 are the events that have no encoding. -/

namespace Sys2Proof

/-- One row of the opcode table each; the rule that gives the row its meaning stands before it. -/
inductive Instr
  /-- R107. IADD -/
  | iadd (c h : BitVec 1) (d a b : BitVec 7)
  /-- R107. ISUB -/
  | isub (c h : BitVec 1) (d a b : BitVec 7)
  /-- R107. IMUL -/
  | imul (c h : BitVec 1) (d a b : BitVec 7)
  /-- R107. IMULHI_S -/
  | imulhiS (c h : BitVec 1) (d a b : BitVec 7)
  /-- R107. IMULHI_N -/
  | imulhiN (c h : BitVec 1) (d a b : BitVec 7)
  /-- R107. IMAD -/
  | imad (c h : BitVec 1) (d a b : BitVec 7)
  /-- R108. IADDS_S -/
  | iaddsS (c h : BitVec 1) (d a b : BitVec 7)
  /-- R108. IADDS_N -/
  | iaddsN (c h : BitVec 1) (d a b : BitVec 7)
  /-- R108. ISUBS_S -/
  | isubsS (c h : BitVec 1) (d a b : BitVec 7)
  /-- R108. ISUBS_N -/
  | isubsN (c h : BitVec 1) (d a b : BitVec 7)
  /-- R107. IMIN_S -/
  | iminS (c h : BitVec 1) (d a b : BitVec 7)
  /-- R107. IMIN_N -/
  | iminN (c h : BitVec 1) (d a b : BitVec 7)
  /-- R107. IMAX_S -/
  | imaxS (c h : BitVec 1) (d a b : BitVec 7)
  /-- R107. IMAX_N -/
  | imaxN (c h : BitVec 1) (d a b : BitVec 7)
  /-- R107. AND -/
  | vand (c h : BitVec 1) (d a b : BitVec 7)
  /-- R107. OR -/
  | vor (c h : BitVec 1) (d a b : BitVec 7)
  /-- R107. XOR -/
  | vxor (c h : BitVec 1) (d a b : BitVec 7)
  /-- R107. ANDN -/
  | andn (c h : BitVec 1) (d a b : BitVec 7)
  /-- R109. SHL -/
  | shl (c h : BitVec 1) (d a b : BitVec 7)
  /-- R109. SHR -/
  | shr (c h : BitVec 1) (d a b : BitVec 7)
  /-- R109. SAR -/
  | sar (c h : BitVec 1) (d a b : BitVec 7)
  /-- R109. ROT -/
  | rot (c h : BitVec 1) (d a b : BitVec 7)
  /-- R110. BFE -/
  | bfe (c h : BitVec 1) (d a b : BitVec 7)
  /-- R110. BFI -/
  | bfi (c h : BitVec 1) (d a b : BitVec 7)
  /-- R111. BITOP_POPC -/
  | bitopPopc (c h : BitVec 1) (d a : BitVec 7)
  /-- R111. BITOP_CLZ -/
  | bitopClz (c h : BitVec 1) (d a : BitVec 7)
  /-- R111. BITOP_CTZ -/
  | bitopCtz (c h : BitVec 1) (d a : BitVec 7)
  /-- R111. BITOP_BREV -/
  | bitopBrev (c h : BitVec 1) (d a : BitVec 7)
  /-- R111. BITOP_NOT -/
  | bitopNot (c h : BitVec 1) (d a : BitVec 7)
  /-- R106. ICMP -/
  | icmp (c h : BitVec 1) (k : BitVec 4) (a b : BitVec 7)
  /-- R112. SEL -/
  | sel (c h : BitVec 1) (d a b : BitVec 7)
  /-- R107. MOV -/
  | mov (c h : BitVec 1) (d a : BitVec 7)
  /-- R113. PRMT -/
  | prmt (c h : BitVec 1) (d a b : BitVec 7)
  /-- R114. IADD64 -/
  | iadd64 (c h : BitVec 1) (d a b : BitVec 7)
  /-- R114. ISUB64 -/
  | isub64 (c h : BitVec 1) (d a b : BitVec 7)
  /-- R114. LEA -/
  | lea (c h : BitVec 1) (d a b : BitVec 7)
  /-- R118. FADD -/
  | fadd (c h : BitVec 1) (d a b : BitVec 7)
  /-- R118. FSUB -/
  | fsub (c h : BitVec 1) (d a b : BitVec 7)
  /-- R118. FMUL -/
  | fmul (c h : BitVec 1) (d a b : BitVec 7)
  /-- R118. FFMA -/
  | ffma (c h : BitVec 1) (d a b : BitVec 7)
  /-- R118. FFMS -/
  | ffms (c h : BitVec 1) (d a b : BitVec 7)
  /-- R118. FNMA -/
  | fnma (c h : BitVec 1) (d a b : BitVec 7)
  /-- R119. FMIN -/
  | fmin (c h : BitVec 1) (d a b : BitVec 7)
  /-- R119. FMINN -/
  | fminn (c h : BitVec 1) (d a b : BitVec 7)
  /-- R119. FMAX -/
  | fmax (c h : BitVec 1) (d a b : BitVec 7)
  /-- R119. FMAXN -/
  | fmaxn (c h : BitVec 1) (d a b : BitVec 7)
  /-- R105. FCMP -/
  | fcmp (c h : BitVec 1) (k : BitVec 4) (a b : BitVec 7)
  /-- R120. FCLASS -/
  | fclass (c h : BitVec 1) (d a : BitVec 7)
  /-- R120. FCPSGN -/
  | fcpsgn (c h : BitVec 1) (d a b : BitVec 7)
  /-- R121. FRND -/
  | frnd (c h : BitVec 1) (d a : BitVec 7)
  /-- R121. FFRACT -/
  | ffract (c h : BitVec 1) (d a : BitVec 7)
  /-- R121. FSAT -/
  | fsat (c h : BitVec 1) (d a : BitVec 7)
  /-- R122. FLERP -/
  | flerp (c h : BitVec 1) (d a b : BitVec 7)
  /-- R122. FMED3 -/
  | fmed3 (c h : BitVec 1) (d a b : BitVec 7)
  /-- R123. HADD2 -/
  | hadd2 (c h : BitVec 1) (d a b : BitVec 7)
  /-- R123. HMUL2 -/
  | hmul2 (c h : BitVec 1) (d a b : BitVec 7)
  /-- R123. HFMA2 -/
  | hfma2 (c h : BitVec 1) (d a b : BitVec 7)
  /-- R123. BADD2 -/
  | badd2 (c h : BitVec 1) (d a b : BitVec 7)
  /-- R123. BMUL2 -/
  | bmul2 (c h : BitVec 1) (d a b : BitVec 7)
  /-- R123. BFMA2 -/
  | bfma2 (c h : BitVec 1) (d a b : BitVec 7)
  /-- R124. FDOT2H -/
  | fdot2h (c h : BitVec 1) (d a b : BitVec 7)
  /-- R124. FDOT2B -/
  | fdot2b (c h : BitVec 1) (d a b : BitVec 7)
  /-- R115. IADDI -/
  | iaddi (c : BitVec 1) (d a : BitVec 7) (i : BitVec 8)
  /-- R115. IMULI -/
  | imuli (c : BitVec 1) (d a : BitVec 7) (i : BitVec 8)
  /-- R115. ANDI -/
  | andi (c : BitVec 1) (d a : BitVec 7) (i : BitVec 8)
  /-- R115. ORI -/
  | ori (c : BitVec 1) (d a : BitVec 7) (i : BitVec 8)
  /-- R115. XORI -/
  | xori (c : BitVec 1) (d a : BitVec 7) (i : BitVec 8)
  /-- R115. SHLI -/
  | shli (c : BitVec 1) (d a : BitVec 7) (i : BitVec 8)
  /-- R115. SHRI -/
  | shri (c : BitVec 1) (d a : BitVec 7) (i : BitVec 8)
  /-- R115. SARI -/
  | sari (c : BitVec 1) (d a : BitVec 7) (i : BitVec 8)
  /-- R115. ICMPI -/
  | icmpi (c : BitVec 1) (k : BitVec 4) (a : BitVec 7) (i : BitVec 8)
  /-- R115. MOVI -/
  | movi (c : BitVec 1) (d : BitVec 7) (i : BitVec 8)
  /-- R115. LANEIDX -/
  | laneidx (c : BitVec 1) (d a : BitVec 7) (i : BitVec 8)
  /-- R116. FMULI -/
  | fmuli (c : BitVec 1) (d a : BitVec 7) (i : BitVec 8)
  /-- R116. FADDI -/
  | faddi (c : BitVec 1) (d a : BitVec 7) (i : BitVec 8)
  /-- R115. IMINI_S -/
  | iminiS (c : BitVec 1) (d a : BitVec 7) (i : BitVec 8)
  /-- R115. IMAXI_S -/
  | imaxiS (c : BitVec 1) (d a : BitVec 7) (i : BitVec 8)
  /-- R127. WADD -/
  | wadd (c : BitVec 1) (d a : BitVec 8) (b : BitVec 6)
  /-- R127. WSUB -/
  | wsub (c : BitVec 1) (d a : BitVec 8) (b : BitVec 6)
  /-- R127. WMUL -/
  | wmul (c : BitVec 1) (d a : BitVec 8) (b : BitVec 6)
  /-- R127. WAND -/
  | wand (c : BitVec 1) (d a : BitVec 8) (b : BitVec 6)
  /-- R127. WOR -/
  | wor (c : BitVec 1) (d a : BitVec 8) (b : BitVec 6)
  /-- R127. WXOR -/
  | wxor (c : BitVec 1) (d a : BitVec 8) (b : BitVec 6)
  /-- R127. WSHL -/
  | wshl (c : BitVec 1) (d a : BitVec 8) (b : BitVec 6)
  /-- R127. WSHR -/
  | wshr (c : BitVec 1) (d a : BitVec 8) (b : BitVec 6)
  /-- R127. WSAR -/
  | wsar (c : BitVec 1) (d a : BitVec 8) (b : BitVec 6)
  /-- R127. WCMP -/
  | wcmp (c : BitVec 1) (k : BitVec 4) (a : BitVec 8) (b : BitVec 6)
  /-- R127. WSEL -/
  | wsel (c : BitVec 1) (d a : BitVec 8) (b : BitVec 6)
  /-- R127. WMOV -/
  | wmov (c : BitVec 1) (d a : BitVec 8)
  /-- R128. WLI -/
  | wli (c : BitVec 1) (d : BitVec 8) (i : BitVec 14)
  /-- R128. WLIH -/
  | wlih (c : BitVec 1) (d : BitVec 8) (i : BitVec 14)
  /-- R130. WADD64 -/
  | wadd64 (c : BitVec 1) (d a : BitVec 8) (b : BitVec 6)
  /-- R129. WTOV -/
  | wtov (c : BitVec 1) (d : BitVec 7) (a : BitVec 8)
  /-- R129. VTOW -/
  | vtow (c : BitVec 1) (d : BitVec 8) (a : BitVec 7) (b : BitVec 6)
  /-- R127. WADDI -/
  | waddi (c : BitVec 1) (d a : BitVec 8) (i : BitVec 6)
  /-- R127. WMIN -/
  | wmin (c : BitVec 1) (d a : BitVec 8) (b : BitVec 6)
  /-- R127. WMAX -/
  | wmax (c : BitVec 1) (d a : BitVec 8) (b : BitVec 6)
  /-- R141. SHFL_IDX -/
  | shflIdx (c h : BitVec 1) (d a b : BitVec 7)
  /-- R141. SHFL_UP -/
  | shflUp (c h : BitVec 1) (d a b : BitVec 7)
  /-- R141. SHFL_DN -/
  | shflDn (c h : BitVec 1) (d a b : BitVec 7)
  /-- R141. SHFL_XOR -/
  | shflXor (c h : BitVec 1) (d a b : BitVec 7)
  /-- R142. VOTE_ANY -/
  | voteAny (c h : BitVec 1) (d a : BitVec 7)
  /-- R142. VOTE_ALL -/
  | voteAll (c h : BitVec 1) (d a : BitVec 7)
  /-- R142. BALLOT -/
  | ballot (c h : BitVec 1) (d : BitVec 3) (a : BitVec 7)
  /-- R142. MATCH -/
  | matchLanes (c h : BitVec 1) (d a : BitVec 7)
  /-- R143. RED_ADD -/
  | redAdd (c h : BitVec 1) (d a b : BitVec 7)
  /-- R143. RED_MIN_S -/
  | redMinS (c h : BitVec 1) (d a b : BitVec 7)
  /-- R143. RED_MIN_N -/
  | redMinN (c h : BitVec 1) (d a b : BitVec 7)
  /-- R143. RED_MAX_S -/
  | redMaxS (c h : BitVec 1) (d a b : BitVec 7)
  /-- R143. RED_MAX_N -/
  | redMaxN (c h : BitVec 1) (d a b : BitVec 7)
  /-- R143. RED_AND -/
  | redAnd (c h : BitVec 1) (d a b : BitVec 7)
  /-- R143. RED_OR -/
  | redOr (c h : BitVec 1) (d a b : BitVec 7)
  /-- R144. RED_FADD -/
  | redFadd (c h : BitVec 1) (d a b : BitVec 7)
  /-- R143. SCAN_ADD -/
  | scanAdd (c h : BitVec 1) (d a b : BitVec 7)
  /-- R144. SCAN_FADD -/
  | scanFadd (c h : BitVec 1) (d a b : BitVec 7)
  /-- R145. MAND -/
  | mand (c h : BitVec 1) (d a b : BitVec 3)
  /-- R145. MOR -/
  | mor (c h : BitVec 1) (d a b : BitVec 3)
  /-- R145. MXOR -/
  | mxor (c h : BitVec 1) (d a b : BitVec 3)
  /-- R145. MANDN -/
  | mandn (c h : BitVec 1) (d a b : BitVec 3)
  /-- R145. MMOV -/
  | mmov (c h : BitVec 1) (d a : BitVec 3)
  /-- R146. MPOPC -/
  | mpopc (c h : BitVec 1) (d : BitVec 7) (a : BitVec 3)
  /-- R146. MPOPC_RANK -/
  | mpopcRank (c h : BitVec 1) (d : BitVec 7) (a : BitVec 3)
  /-- R146. MFIRST -/
  | mfirst (c h : BitVec 1) (d : BitVec 7) (a : BitVec 3)
  /-- R146. MTOV -/
  | mtov (c h : BitVec 1) (d : BitVec 7) (a : BitVec 3)
  /-- R146. VTOM -/
  | vtom (c h : BitVec 1) (d : BitVec 3) (a : BitVec 7) (b : BitVec 5)
  /-- R147. ELECT -/
  | elect (c h : BitVec 1) (d : BitVec 3)
  /-- R147. ISSUEM -/
  | issuem (c h : BitVec 1) (d : BitVec 3)
  /-- R150. BRA -/
  | bra (c : BitVec 1) (o : BitVec 18)
  /-- R150. BRC -/
  | brc (c n : BitVec 1) (k : BitVec 3) (o : BitVec 18)
  /-- R150. BRW -/
  | brw (c n : BitVec 1) (o : BitVec 18)
  /-- R151. CALL -/
  | call (c : BitVec 1) (o : BitVec 18)
  /-- R151. BRI -/
  | bri (c h : BitVec 1) (a : BitVec 7)
  /-- R151. CALLI -/
  | calli (c h : BitVec 1) (d a : BitVec 7)
  /-- R151. RET -/
  | ret (c h : BitVec 1) (a : BitVec 7)
  /-- R152. SPLIT -/
  | split (c h : BitVec 1) (d : BitVec 3)
  /-- R51. JOIN -/
  | join (c h : BitVec 1) (d : BitVec 3)
  /-- R153. EXIT -/
  | exit (c h : BitVec 1)
  /-- R154. END -/
  | endAll (c h : BitVec 1)
  /-- R150. LOOPW -/
  | loopw (c : BitVec 1) (w : BitVec 4) (o : BitVec 18)
  /-- R161. LD_B8 -/
  | ldB8 (c : BitVec 1) (l : BitVec 4) (d v : BitVec 7) (w : BitVec 4)
  /-- R161. LD_S8 -/
  | ldS8 (c : BitVec 1) (l : BitVec 4) (d v : BitVec 7) (w : BitVec 4)
  /-- R161. LD_B16 -/
  | ldB16 (c : BitVec 1) (l : BitVec 4) (d v : BitVec 7) (w : BitVec 4)
  /-- R161. LD_S16 -/
  | ldS16 (c : BitVec 1) (l : BitVec 4) (d v : BitVec 7) (w : BitVec 4)
  /-- R161. LD_B32 -/
  | ldB32 (c : BitVec 1) (l : BitVec 4) (d v : BitVec 7) (w : BitVec 4)
  /-- R161. LD_B64 -/
  | ldB64 (c : BitVec 1) (l : BitVec 4) (d v : BitVec 7) (w : BitVec 4)
  /-- R161. LD_B128 -/
  | ldB128 (c : BitVec 1) (l : BitVec 4) (d v : BitVec 7) (w : BitVec 4)
  /-- R161. ST_B8 -/
  | stB8 (c : BitVec 1) (l : BitVec 4) (d v : BitVec 7) (w : BitVec 4)
  /-- R161. ST_B16 -/
  | stB16 (c : BitVec 1) (l : BitVec 4) (d v : BitVec 7) (w : BitVec 4)
  /-- R161. ST_B32 -/
  | stB32 (c : BitVec 1) (l : BitVec 4) (d v : BitVec 7) (w : BitVec 4)
  /-- R161. ST_B64 -/
  | stB64 (c : BitVec 1) (l : BitVec 4) (d v : BitVec 7) (w : BitVec 4)
  /-- R161. ST_B128 -/
  | stB128 (c : BitVec 1) (l : BitVec 4) (d v : BitVec 7) (w : BitVec 4)
  /-- R161. LDS_B32 -/
  | ldsB32 (c : BitVec 1) (l : BitVec 4) (d v : BitVec 7) (w : BitVec 4)
  /-- R161. LDS_B64 -/
  | ldsB64 (c : BitVec 1) (l : BitVec 4) (d v : BitVec 7) (w : BitVec 4)
  /-- R161. LDS_B128 -/
  | ldsB128 (c : BitVec 1) (l : BitVec 4) (d v : BitVec 7) (w : BitVec 4)
  /-- R161. STS_B32 -/
  | stsB32 (c : BitVec 1) (l : BitVec 4) (d v : BitVec 7) (w : BitVec 4)
  /-- R161. STS_B64 -/
  | stsB64 (c : BitVec 1) (l : BitVec 4) (d v : BitVec 7) (w : BitVec 4)
  /-- R161. STS_B128 -/
  | stsB128 (c : BitVec 1) (l : BitVec 4) (d v : BitVec 7) (w : BitVec 4)
  /-- R165. LDW -/
  | ldw (c : BitVec 1) (l : BitVec 4) (d v : BitVec 7) (w : BitVec 4)
  /-- R166. PREF -/
  | pref (c : BitVec 1) (l : BitVec 4) (d : BitVec 1) (v : BitVec 7) (w : BitVec 4)
  /-- R168. ATOM_ADD32 -/
  | atomAdd32 (c : BitVec 1) (l : BitVec 4) (d v : BitVec 7) (w : BitVec 4)
  /-- R168. ATOM_ADD64 -/
  | atomAdd64 (c : BitVec 1) (l : BitVec 4) (d v : BitVec 7) (w : BitVec 4)
  /-- R168. ATOM_SUB32 -/
  | atomSub32 (c : BitVec 1) (l : BitVec 4) (d v : BitVec 7) (w : BitVec 4)
  /-- R168. ATOM_SUB64 -/
  | atomSub64 (c : BitVec 1) (l : BitVec 4) (d v : BitVec 7) (w : BitVec 4)
  /-- R168. ATOM_MIN_S32 -/
  | atomMinS32 (c : BitVec 1) (l : BitVec 4) (d v : BitVec 7) (w : BitVec 4)
  /-- R168. ATOM_MIN_S64 -/
  | atomMinS64 (c : BitVec 1) (l : BitVec 4) (d v : BitVec 7) (w : BitVec 4)
  /-- R168. ATOM_MIN_N32 -/
  | atomMinN32 (c : BitVec 1) (l : BitVec 4) (d v : BitVec 7) (w : BitVec 4)
  /-- R168. ATOM_MIN_N64 -/
  | atomMinN64 (c : BitVec 1) (l : BitVec 4) (d v : BitVec 7) (w : BitVec 4)
  /-- R168. ATOM_MAX_S32 -/
  | atomMaxS32 (c : BitVec 1) (l : BitVec 4) (d v : BitVec 7) (w : BitVec 4)
  /-- R168. ATOM_MAX_S64 -/
  | atomMaxS64 (c : BitVec 1) (l : BitVec 4) (d v : BitVec 7) (w : BitVec 4)
  /-- R168. ATOM_MAX_N32 -/
  | atomMaxN32 (c : BitVec 1) (l : BitVec 4) (d v : BitVec 7) (w : BitVec 4)
  /-- R168. ATOM_MAX_N64 -/
  | atomMaxN64 (c : BitVec 1) (l : BitVec 4) (d v : BitVec 7) (w : BitVec 4)
  /-- R168. ATOM_AND32 -/
  | atomAnd32 (c : BitVec 1) (l : BitVec 4) (d v : BitVec 7) (w : BitVec 4)
  /-- R168. ATOM_AND64 -/
  | atomAnd64 (c : BitVec 1) (l : BitVec 4) (d v : BitVec 7) (w : BitVec 4)
  /-- R168. ATOM_OR32 -/
  | atomOr32 (c : BitVec 1) (l : BitVec 4) (d v : BitVec 7) (w : BitVec 4)
  /-- R168. ATOM_OR64 -/
  | atomOr64 (c : BitVec 1) (l : BitVec 4) (d v : BitVec 7) (w : BitVec 4)
  /-- R168. ATOM_XOR32 -/
  | atomXor32 (c : BitVec 1) (l : BitVec 4) (d v : BitVec 7) (w : BitVec 4)
  /-- R168. ATOM_XOR64 -/
  | atomXor64 (c : BitVec 1) (l : BitVec 4) (d v : BitVec 7) (w : BitVec 4)
  /-- R168. ATOM_EXCH32 -/
  | atomExch32 (c : BitVec 1) (l : BitVec 4) (d v : BitVec 7) (w : BitVec 4)
  /-- R168. ATOM_EXCH64 -/
  | atomExch64 (c : BitVec 1) (l : BitVec 4) (d v : BitVec 7) (w : BitVec 4)
  /-- R169. ATOM_CAS32 -/
  | atomCas32 (c : BitVec 1) (l : BitVec 4) (d v : BitVec 7) (w : BitVec 4)
  /-- R169. ATOM_CAS64 -/
  | atomCas64 (c : BitVec 1) (l : BitVec 4) (d v : BitVec 7) (w : BitVec 4)
  /-- R168. ATOM_INC32 -/
  | atomInc32 (c : BitVec 1) (l : BitVec 4) (d v : BitVec 7) (w : BitVec 4)
  /-- R168. ATOM_INC64 -/
  | atomInc64 (c : BitVec 1) (l : BitVec 4) (d v : BitVec 7) (w : BitVec 4)
  /-- R168. ATOM_DEC32 -/
  | atomDec32 (c : BitVec 1) (l : BitVec 4) (d v : BitVec 7) (w : BitVec 4)
  /-- R168. ATOM_DEC64 -/
  | atomDec64 (c : BitVec 1) (l : BitVec 4) (d v : BitVec 7) (w : BitVec 4)
  /-- R171. ATOM_FADD_F32 -/
  | atomFaddF32 (c : BitVec 1) (l : BitVec 4) (d v : BitVec 7) (w : BitVec 4)
  /-- R171. ATOM_FADD2_BF16 -/
  | atomFadd2Bf16 (c : BitVec 1) (l : BitVec 4) (d v : BitVec 7) (w : BitVec 4)
  /-- R183. MMA -/
  | mma (c : BitVec 1) (l : BitVec 4) (s : BitVec 3) (g x : BitVec 5) (y : BitVec 6)
  /-- R183. MMAN -/
  | mman (c : BitVec 1) (l : BitVec 4) (s : BitVec 3) (g x : BitVec 5) (y : BitVec 6)
  /-- R186. MMAS -/
  | mmas (c : BitVec 1) (l : BitVec 4) (g x : BitVec 5) (y : BitVec 6)
  /-- R184. MMAZ -/
  | mmaz (c : BitVec 1) (l : BitVec 4) (s : BitVec 3) (g x : BitVec 5) (y : BitVec 6)
  /-- R190. ACLR -/
  | aclr (c : BitVec 1) (l : BitVec 4) (s : BitVec 1) (g : BitVec 5)
  /-- R191. AANC -/
  | aanc (c : BitVec 1) (l : BitVec 4) (s : BitVec 1) (g : BitVec 5) (x : BitVec 11)
  /-- R193. ARES -/
  | ares (c : BitVec 1) (l : BitVec 4) (s : BitVec 1) (g : BitVec 5) (f : BitVec 4) (y : BitVec 6)
  /-- R194. ACMP -/
  | acmp (c : BitVec 1) (l : BitVec 4) (k : BitVec 2) (s : BitVec 1) (g x : BitVec 5) (y : BitVec 6)
  /-- R196. ADRAIN_RAW -/
  | adrainRaw (c : BitVec 1) (l : BitVec 4) (s : BitVec 1) (g x : BitVec 5)
  /-- R196. ADRAIN_VALUE -/
  | adrainValue (c : BitVec 1) (l : BitVec 4) (s : BitVec 1) (g x : BitVec 5) (f : BitVec 4)
  /-- R197. ADRAIN_ADD -/
  | adrainAdd (c : BitVec 1) (l : BitVec 4) (s : BitVec 1) (g x : BitVec 5)
  /-- R198. ADRAIN_VALUE_ADD -/
  | adrainValueAdd (c : BitVec 1) (l : BitVec 4) (s : BitVec 1) (g x : BitVec 5) (f : BitVec 4)
  /-- R200. ALOAD_RAW -/
  | aloadRaw (c : BitVec 1) (l : BitVec 4) (s : BitVec 1) (g x : BitVec 5)
  /-- R200. ALOAD_VALUE -/
  | aloadValue (c : BitVec 1) (l : BitVec 4) (s : BitVec 1) (g x : BitVec 5) (f : BitVec 4)
  /-- R189. SCLD -/
  | scld (c : BitVec 1) (l : BitVec 4) (s : BitVec 3) (e : BitVec 10) (y : BitVec 6)
  /-- R180. MFMT -/
  | mfmt (c : BitVec 1) (l : BitVec 4) (i : BitVec 10)
  /-- R201. TMMA -/
  | tmma (c : BitVec 1) (l : BitVec 4) (t : BitVec 2) (y : BitVec 6)
  /-- R204. TWAIT -/
  | twait (c : BitVec 1) (l : BitVec 4) (t : BitVec 2)
  /-- R204. TWAIT_OC -/
  | twaitOc (c : BitVec 1) (l : BitVec 4) (t : BitVec 2)
  /-- R190. ACANON -/
  | acanon (c : BitVec 1) (l : BitVec 4) (s : BitVec 1) (g : BitVec 5)
  /-- R190. AMOV -/
  | amov (c : BitVec 1) (l : BitVec 4) (s : BitVec 2) (g x : BitVec 5)
  /-- R208. EDGE -/
  | edge (c : BitVec 1) (l : BitVec 4) (g x : BitVec 5) (y : BitVec 6)
  /-- R209. BARY -/
  | bary (c : BitVec 1) (l : BitVec 4) (x : BitVec 5) (y : BitVec 6)
  /-- R210. COVPK -/
  | covpk (c : BitVec 1) (l : BitVec 4) (g x : BitVec 5) (y : BitVec 6)
  /-- R213. TEXG -/
  | texg (c : BitVec 1) (l g : BitVec 4) (x : BitVec 5) (y : BitVec 6)
  /-- R214. FILT -/
  | filt (c : BitVec 1) (l : BitVec 4) (s : BitVec 3) (g x : BitVec 5) (y : BitVec 6)
  /-- R216. BLND -/
  | blnd (c : BitVec 1) (l : BitVec 4) (g x : BitVec 5) (y : BitVec 6)
  /-- R217. CPACK -/
  | cpack (c : BitVec 1) (l : BitVec 4) (g x : BitVec 5) (y : BitVec 4)
  /-- R218. CUNPK -/
  | cunpk (c : BitVec 1) (l : BitVec 4) (x : BitVec 5) (y : BitVec 4)
  /-- R220. MESHEMIT -/
  | meshemit (c : BitVec 1) (l : BitVec 4) (s : BitVec 1) (g : BitVec 5)
  /-- R221. BINNEXT -/
  | binnext (c : BitVec 1) (l : BitVec 4) (g : BitVec 5) (y : BitVec 6)
  /-- R225. BARARR -/
  | bararr (c : BitVec 1) (e : BitVec 3) (b : BitVec 7) (z : BitVec 5)
  /-- R225. BARWAIT -/
  | barwait (c : BitVec 1) (e : BitVec 3) (b : BitVec 7) (z : BitVec 5)
  /-- R225. BARSYNC -/
  | barsync (c : BitVec 1) (e : BitVec 3) (b : BitVec 7) (z : BitVec 5)
  /-- R225. BAREXP -/
  | barexp (c : BitVec 1) (e : BitVec 3) (a b : BitVec 7) (z : BitVec 5)
  /-- R228. ORDENTER -/
  | ordenter (c : BitVec 1) (a b : BitVec 7) (z : BitVec 5)
  /-- R229. ORDLEAVE -/
  | ordleave (c : BitVec 1) (a : BitVec 7) (z : BitVec 5)
  /-- R229. ORDSKIP -/
  | ordskip (c : BitVec 1) (a b : BitVec 7) (z : BitVec 5)
  /-- R229. ORDTEST -/
  | ordtest (c : BitVec 1) (a b : BitVec 7) (z : BitVec 5)
  /-- R230. SEQNEXT -/
  | seqnext (c : BitVec 1) (a : BitVec 7) (z : BitVec 5)
  /-- R231. PUT -/
  | put (c : BitVec 1) (e : BitVec 3) (a : BitVec 7) (z : BitVec 5)
  /-- R232. PUTW -/
  | putw (c : BitVec 1) (e : BitVec 3) (a b : BitVec 7) (z : BitVec 5)
  /-- R234. CWAIT -/
  | cwait (c : BitVec 1) (e : BitVec 3) (a : BitVec 7) (z : BitVec 5)
  /-- R298. FENCE_ACQ -/
  | fenceAcq (c : BitVec 1) (e : BitVec 3)
  /-- R298. FENCE_REL -/
  | fenceRel (c : BitVec 1) (e : BitVec 3)
  /-- R298. FENCE_AR -/
  | fenceAr (c : BitVec 1) (e : BitVec 3)
  /-- R298. FENCE_SC -/
  | fenceSc (c : BitVec 1) (e : BitVec 3)
  /-- R299. SCWAIT -/
  | scwait (c : BitVec 1)
  /-- R237. QACQ -/
  | qacq (c : BitVec 1) (l d : BitVec 4) (q : BitVec 3)
  /-- R237. QREL -/
  | qrel (c : BitVec 1) (l a : BitVec 4) (q : BitVec 3)
  /-- R238. QPACQ -/
  | qpacq (c : BitVec 1) (l d : BitVec 4) (q : BitVec 3)
  /-- R238. QPCOMMIT -/
  | qpcommit (c : BitVec 1) (l a : BitVec 4) (q : BitVec 3)
  /-- R240. TCOPY -/
  | tcopy (c : BitVec 1) (l d : BitVec 4)
  /-- R240. TSTORE -/
  | tstore (c : BitVec 1) (l d : BitVec 4)
  /-- R242. APSTART -/
  | apstart (c : BitVec 1) (l : BitVec 4) (p : BitVec 2) (a : BitVec 4)
  /-- R242. APSTOP -/
  | apstop (c : BitVec 1) (l : BitVec 4) (p : BitVec 2)
  /-- R243. XLI -/
  | xli (c : BitVec 1) (d : BitVec 4) (i : BitVec 10)
  /-- R243. XLIH -/
  | xlih (c : BitVec 1) (d : BitVec 4) (i : BitVec 10)
  /-- R243. XADD -/
  | xadd (c : BitVec 1) (d a : BitVec 4) (i : BitVec 10)
  /-- R243. XMAD -/
  | xmad (c : BitVec 1) (d a : BitVec 4) (i : BitVec 10)
  /-- R243. XLOOP -/
  | xloop (c : BitVec 1) (k : BitVec 2) (o : BitVec 10)
  /-- R243. XLOOP_SET -/
  | xloopSet (c : BitVec 1) (k : BitVec 2) (a : BitVec 4)
  /-- R243. XFETCH -/
  | xfetch (c : BitVec 1) (a : BitVec 4) (g : BitVec 7) (q : BitVec 3)
  /-- R243. XSTORE -/
  | xstore (c : BitVec 1) (a : BitVec 4) (g : BitVec 7) (q : BitVec 3)
  /-- R243. XSIG_FILL -/
  | xsigFill (c : BitVec 1) (q : BitVec 3)
  /-- R243. XSIG_FREE -/
  | xsigFree (c : BitVec 1) (q : BitVec 3)
  /-- R243. XEND -/
  | xend (c : BitVec 1)
  /-- R245. NOP -/
  | nop (c : BitVec 1)
  /-- R244. SYSRD -/
  | sysrd (c : BitVec 1) (p : BitVec 8) (m : BitVec 14)
  /-- R244. SYSWR -/
  | syswr (c : BitVec 1) (p : BitVec 8) (m : BitVec 14)
  /-- R246. TRAP -/
  | trap (c : BitVec 1) (m : BitVec 14)
  /-- R409. TRAPRET -/
  | trapret (c : BitVec 1) (p : BitVec 2)
  /-- R412. FRSAVE -/
  | frsave (c : BitVec 1) (p : BitVec 4)
  /-- R412. FRLOAD -/
  | frload (c : BitVec 1) (p : BitVec 4)
  /-- R247. REGION -/
  | region (c : BitVec 1) (p : BitVec 8) (m : BitVec 9)
  /-- R260. REGGROW_TRY -/
  | reggrowTry (c : BitVec 1) (m : BitVec 14)
  /-- R260. REGGROW_WAIT -/
  | reggrowWait (c : BitVec 1) (m : BitVec 14)
  /-- R260. REGSHRINK -/
  | regshrink (c : BitVec 1) (m : BitVec 14)
  /-- R248. VFREE -/
  | vfree (c : BitVec 1) (p m : BitVec 7)
  /-- R245. QUERY -/
  | query (c : BitVec 1) (p : BitVec 8) (m : BitVec 14)
  /-- R367. LAUNCH -/
  | launch (c : BitVec 1) (p : BitVec 8) (m : BitVec 14)
  /-- R429. BKPT -/
  | bkpt (c : BitVec 1) (m : BitVec 14)
  /-- R249. WAITEV -/
  | waitev (c : BitVec 1) (m : BitVec 6)
  /-- R245. PERFRD -/
  | perfrd (c : BitVec 1) (p : BitVec 8) (m : BitVec 14)
  /-- R245. RNGSEED -/
  | rngseed (c : BitVec 1) (p : BitVec 7)
  /-- R245. MODESET_WRITE -/
  | modesetWrite (c : BitVec 1) (m : BitVec 14)
  /-- R245. MODESET_OR -/
  | modesetOr (c : BitVec 1) (m : BitVec 14)
  /-- R245. MODESET_ANDN -/
  | modesetAndn (c : BitVec 1) (m : BitVec 14)
  /-- R245. MODESET_TEN -/
  | modesetTen (c : BitVec 1) (m : BitVec 6)
  /-- R246. TINFO -/
  | tinfo (c : BitVec 1) (p : BitVec 7) (m : BitVec 4)
  /-- R132. CVTF -/
  | cvtf (c : BitVec 1) (l s : BitVec 4) (d a : BitVec 7)
  /-- R133. CVTFI -/
  | cvtfi (c : BitVec 1) (l s : BitVec 4) (d a : BitVec 7)
  /-- R133. CVTIF -/
  | cvtif (c : BitVec 1) (l s : BitVec 4) (d a : BitVec 7)
  /-- R134. PACK2 -/
  | pack2 (c : BitVec 1) (l s : BitVec 4) (d a : BitVec 7)
  /-- R134. PACK4 -/
  | pack4 (c : BitVec 1) (l s : BitVec 4) (d a : BitVec 7)
  /-- R135. UNPK -/
  | unpk (c : BitVec 1) (l s : BitVec 4) (d a : BitVec 7)
  /-- R136. RCP -/
  | rcp (c : BitVec 1) (l s : BitVec 4) (d a : BitVec 7)
  /-- R136. RSQ -/
  | rsq (c : BitVec 1) (l s : BitVec 4) (d a : BitVec 7)
  /-- R136. SQRT -/
  | sqrt (c : BitVec 1) (l s : BitVec 4) (d a : BitVec 7)
  /-- R136. EXP2 -/
  | exp2 (c : BitVec 1) (l s : BitVec 4) (d a : BitVec 7)
  /-- R136. LOG2 -/
  | log2 (c : BitVec 1) (l s : BitVec 4) (d a : BitVec 7)
  /-- R136. SINP -/
  | sinp (c : BitVec 1) (l s : BitVec 4) (d a : BitVec 7)
  /-- R136. COSP -/
  | cosp (c : BitVec 1) (l s : BitVec 4) (d a : BitVec 7)
  /-- R136. TANH -/
  | tanh (c : BitVec 1) (l s : BitVec 4) (d a : BitVec 7)
  /-- R137. RNG -/
  | rng (c : BitVec 1) (l s : BitVec 4) (d : BitVec 7)
  /-- R26. PFX -/
  | pfx (m : BitVec 1) (k r : BitVec 3) (z : BitVec 1) (q : BitVec 7) (w : BitVec 1) (x : BitVec 11)
  /-- R35. ILLEGAL_INSTRUCTION -/
  | illegalInstruction
  /-- R17. INSTRUCTION_FETCH_FAULT -/
  | instructionFetchFault
  /-- R51. REJOIN_RELEASE -/
  | rejoinRelease (w k : Nat)
  /-- R57. LONG_LATENCY_COMPLETION -/
  | longLatencyCompletion (f : Nat)
  /-- R299. STORE_ACKNOWLEDGEMENT -/
  | storeAcknowledgement (f : Nat)
  /-- R172. HOME_ATOMIC -/
  | homeAtomic (f : Nat)
  /-- R197. HOME_RAW_MERGE -/
  | homeRawMerge (f : Nat)
  /-- R198. HOME_VALUE_ADD -/
  | homeValueAdd (f : Nat)
  /-- R405. TRAP_ENTRY -/
  | trapEntry (w : Nat)
  /-- R260. REGGROW_WAIT_GRANT -/
  | reggrowWaitGrant (w : Nat)
  /-- R261. REGGROW_EVICTION -/
  | reggrowEviction (core : Nat)
  /-- R262. EVICTED_WARP_READMISSION -/
  | evictedWarpReadmission (w : Nat)
  /-- R155. WARP_END -/
  | warpEnd (w : Nat)
  /-- R313. BARRIER_RELEASE -/
  | barrierRelease (kind owner bar : Nat)
  /-- R474. PEER_BARRIER_MESSAGE -/
  | peerBarrierMessage (port bar phase : Nat)
  /-- R228. ORD_REQUEST_AT_HOME -/
  | ordRequestAtHome (f : Nat)
  /-- R229. ORD_LEAVE_AT_HOME -/
  | ordLeaveAtHome (f : Nat)
  /-- R324. ORD_GRANT -/
  | ordGrant (f : Nat)
  /-- R326. QUIET_INTERVAL_END -/
  | quietIntervalEnd (slice : Nat)
  /-- R233. PUT_ARRIVAL -/
  | putArrival (f : Nat)
  /-- R267. RING_RECONFIGURE -/
  | ringReconfigure (wg ring : Nat)
  /-- R268. COPY_SLOT_ACQUIRE -/
  | copySlotAcquire (f : Nat)
  /-- R241. COPY_BYTES_LAND -/
  | copyBytesLand (f : Nat)
  /-- R271. FLINT_REQUEST_RESUME -/
  | flintRequestResume (core slot : Nat)
  /-- R203. TMMA_KSTEP -/
  | tmmaKstep (wg tag : Nat)
  /-- R378. CLASSIFY_MESHLET -/
  | classifyMeshlet (launch : Nat)
  /-- R383. SHALE_BATCH_HANDOUT -/
  | shaleBatchHandout (w : Nat)
  /-- R371. STAGE_START -/
  | stageStart (launch stage : Nat)
  /-- R371. STAGE_COMPLETION -/
  | stageCompletion (launch stage : Nat)
  /-- R344. QUEUE_DOORBELL -/
  | queueDoorbell (q : Nat) (v : BitVec 32)
  /-- R352. RUN -/
  | run (q : Nat)
  /-- R368. EVENT -/
  | event (q : Nat)
  /-- R369. DOMALLOC -/
  | domalloc (q : Nat)
  /-- R369. DOMFREE -/
  | domfree (q : Nat)
  /-- R370. ABORT -/
  | abort (q : Nat)
  /-- R342. QCTL_WRITE -/
  | qctlWrite (q : Nat) (v : BitVec 32)
  /-- R400. RESIDENCY_WALK -/
  | residencyWalk (launch : Nat)
  /-- R355. GANG_PLACEMENT -/
  | gangPlacement (launch : Nat)
  /-- R360. PREEMPTION -/
  | preemption (launch : Nat)
  /-- R417. DRAIN_APPROACH_EXPIRY -/
  | drainApproachExpiry (w : Nat)
  /-- R416. SAVE_BLOCK_STORE -/
  | saveBlockStore (launch gang : Nat)
  /-- R354. SLICE_EXPIRY -/
  | sliceExpiry (launch gang : Nat)
  /-- R353. FENCE_WAIT_POLL -/
  | fenceWaitPoll (launch : Nat)
  /-- R362. LAUNCH_COMPLETION -/
  | launchCompletion (launch : Nat)
  /-- R363. GANG_INDEX_MIRROR -/
  | gangIndexMirror (launch : Nat)
  /-- R367. LAUNCH_NODE_COPY_DONE -/
  | launchNodeCopyDone (f : Nat)
  /-- R467. DIE_FAILURE -/
  | dieFailure (die : Nat)
  /-- R364. DIE_FAILURE_GRACE_END -/
  | dieFailureGraceEnd (launch : Nat)
  /-- R396. IQ_DOORBELL -/
  | iqDoorbell (v : BitVec 32)
  /-- R398. INVAL -/
  | inval
  /-- R401. RETRY -/
  | retry
  /-- R401. REFUSE -/
  | refuse
  /-- R397. SYNC -/
  | sync
  /-- R399. INVAL_COMPLETION -/
  | invalCompletion
  /-- R396. IQCTL_WRITE -/
  | iqctlWrite (v : BitVec 32)
  /-- R389. ATCTL_WRITE -/
  | atctlWrite (v : BitVec 32)
  /-- R322. ORDOVFCTL_WRITE -/
  | ordovfctlWrite (v : BitVec 32)
  /-- R483. PWRCAP_WRITE -/
  | pwrcapWrite (v : BitVec 32)
  /-- R478. CXL_CLEAR_ISOLATION -/
  | cxlClearIsolation (port : Nat)
  /-- R5. REGISTER_WRITE -/
  | registerWrite (off : Nat) (v : BitVec 32)
  /-- R470. SYSTEM_AGENT_ACCESS -/
  | systemAgentAccess (agent addr : Nat) (data : List (BitVec 8))
  /-- R458. FLIT_RECEIVE -/
  | flitReceive (unit outcome : Nat)
  /-- R460. STORAGE_ERROR -/
  | storageError (unit place grade : Nat)
  /-- R461. ERROR_WINDOW_END -/
  | errorWindowEnd (unit : Nat)
  /-- R466. ACCESS_TIMEOUT -/
  | accessTimeout (f : Nat)
  /-- R478. CXL_READ_TIMEOUT -/
  | cxlReadTimeout (port : Nat)
  /-- R473. PEER_PORT_DOWN -/
  | peerPortDown (port : Nat)
  /-- R472. LINK_UP -/
  | linkUp (port caps : Nat)
  /-- R480. COLD_RESET -/
  | coldReset
  /-- R480. GNEISS_IMAGE_LOAD -/
  | gneissImageLoad (img : List (BitVec 8))
  /-- R480. SERVICE_FIRMWARE_LOAD -/
  | serviceFirmwareLoad (img : List (BitVec 8))
  /-- R482. ATTESTATION_REQUEST -/
  | attestationRequest (nonce : List (BitVec 8))
  /-- R483. THERMAL_TRIP -/
  | thermalTrip
  /-- R429. DEBUG_RESUME -/
  | debugResume (w : Nat)
  /-- R33. FLINT_ILLEGAL_INSTRUCTION -/
  | flintIllegalInstruction (core slot : Nat)
  /-- R270. FLINT_CODE_FETCH_FAULT -/
  | flintCodeFetchFault (core slot : Nat)
  /-- R401. RQCTL_WRITE -/
  | rqctlWrite (v : BitVec 32)
  /-- R468. ELCTL_WRITE -/
  | elctlWrite (v : BitVec 32)
  deriving DecidableEq, Repr

end Sys2Proof
end

