-- ==== Sys2Proof/Decode.lean ====
section
/-! DEFINITION. The decoder and the encoder, from the formats and the opcode map (R16, R21, R32, R34).
A word is rejected by name: a class or an operation that is not assigned, or a reserved bit that is not zero.
The decoder is marked noncomputable only because compiled Lean code has no room for a value of the 246th and later
constructors of one inductive; the kernel evaluates it. -/

namespace Sys2Proof

/-- Why a word names no instruction (R34). -/
inductive DecodeError
  /-- CLASS 0xF, or an operation value that R32 does not list -/
  | unassigned
  /-- a bit that the entry of the instruction requires to have another value (R23) -/
  | reservedBits
  deriving DecidableEq, Repr

/-- Bits `lo` to `lo + n - 1` of a word. -/
abbrev fld (w : BitVec 32) (lo n : Nat) : BitVec n := w.extractLsb' lo n

/-- Class 0x0 (R32). -/
def decodeClass0 (w : BitVec 32) : Except DecodeError Instr :=
  match (fld w 22 5).toNat with
  | 0 =>
    .ok (.iadd (fld w 31 1) (fld w 21 1) (fld w 14 7) (fld w 7 7) (fld w 0 7))
  | 1 =>
    .ok (.isub (fld w 31 1) (fld w 21 1) (fld w 14 7) (fld w 7 7) (fld w 0 7))
  | 2 =>
    .ok (.imul (fld w 31 1) (fld w 21 1) (fld w 14 7) (fld w 7 7) (fld w 0 7))
  | 3 =>
    .ok (.imulhiS (fld w 31 1) (fld w 21 1) (fld w 14 7) (fld w 7 7) (fld w 0 7))
  | 4 =>
    .ok (.imulhiN (fld w 31 1) (fld w 21 1) (fld w 14 7) (fld w 7 7) (fld w 0 7))
  | 5 =>
    .ok (.imad (fld w 31 1) (fld w 21 1) (fld w 14 7) (fld w 7 7) (fld w 0 7))
  | 6 =>
    .ok (.iaddsS (fld w 31 1) (fld w 21 1) (fld w 14 7) (fld w 7 7) (fld w 0 7))
  | 7 =>
    .ok (.iaddsN (fld w 31 1) (fld w 21 1) (fld w 14 7) (fld w 7 7) (fld w 0 7))
  | 8 =>
    .ok (.isubsS (fld w 31 1) (fld w 21 1) (fld w 14 7) (fld w 7 7) (fld w 0 7))
  | 9 =>
    .ok (.isubsN (fld w 31 1) (fld w 21 1) (fld w 14 7) (fld w 7 7) (fld w 0 7))
  | 10 =>
    .ok (.iminS (fld w 31 1) (fld w 21 1) (fld w 14 7) (fld w 7 7) (fld w 0 7))
  | 11 =>
    .ok (.iminN (fld w 31 1) (fld w 21 1) (fld w 14 7) (fld w 7 7) (fld w 0 7))
  | 12 =>
    .ok (.imaxS (fld w 31 1) (fld w 21 1) (fld w 14 7) (fld w 7 7) (fld w 0 7))
  | 13 =>
    .ok (.imaxN (fld w 31 1) (fld w 21 1) (fld w 14 7) (fld w 7 7) (fld w 0 7))
  | 14 =>
    .ok (.vand (fld w 31 1) (fld w 21 1) (fld w 14 7) (fld w 7 7) (fld w 0 7))
  | 15 =>
    .ok (.vor (fld w 31 1) (fld w 21 1) (fld w 14 7) (fld w 7 7) (fld w 0 7))
  | 16 =>
    .ok (.vxor (fld w 31 1) (fld w 21 1) (fld w 14 7) (fld w 7 7) (fld w 0 7))
  | 17 =>
    .ok (.andn (fld w 31 1) (fld w 21 1) (fld w 14 7) (fld w 7 7) (fld w 0 7))
  | 18 =>
    .ok (.shl (fld w 31 1) (fld w 21 1) (fld w 14 7) (fld w 7 7) (fld w 0 7))
  | 19 =>
    .ok (.shr (fld w 31 1) (fld w 21 1) (fld w 14 7) (fld w 7 7) (fld w 0 7))
  | 20 =>
    .ok (.sar (fld w 31 1) (fld w 21 1) (fld w 14 7) (fld w 7 7) (fld w 0 7))
  | 21 =>
    .ok (.rot (fld w 31 1) (fld w 21 1) (fld w 14 7) (fld w 7 7) (fld w 0 7))
  | 22 =>
    .ok (.bfe (fld w 31 1) (fld w 21 1) (fld w 14 7) (fld w 7 7) (fld w 0 7))
  | 23 =>
    .ok (.bfi (fld w 31 1) (fld w 21 1) (fld w 14 7) (fld w 7 7) (fld w 0 7))
  | 24 =>
    if fld w 0 7 = 0 then .ok (.bitopPopc (fld w 31 1) (fld w 21 1) (fld w 14 7) (fld w 7 7))
    else if fld w 0 7 = 1 then .ok (.bitopClz (fld w 31 1) (fld w 21 1) (fld w 14 7) (fld w 7 7))
    else if fld w 0 7 = 2 then .ok (.bitopCtz (fld w 31 1) (fld w 21 1) (fld w 14 7) (fld w 7 7))
    else if fld w 0 7 = 3 then .ok (.bitopBrev (fld w 31 1) (fld w 21 1) (fld w 14 7) (fld w 7 7))
    else if fld w 0 7 = 4 then .ok (.bitopNot (fld w 31 1) (fld w 21 1) (fld w 14 7) (fld w 7 7))
    else .error .reservedBits
  | 25 =>
    if fld w 18 3 = 0 then .ok (.icmp (fld w 31 1) (fld w 21 1) (fld w 14 4) (fld w 7 7) (fld w 0 7))
    else .error .reservedBits
  | 26 =>
    .ok (.sel (fld w 31 1) (fld w 21 1) (fld w 14 7) (fld w 7 7) (fld w 0 7))
  | 27 =>
    if fld w 0 7 = 0 then .ok (.mov (fld w 31 1) (fld w 21 1) (fld w 14 7) (fld w 7 7))
    else .error .reservedBits
  | 28 =>
    .ok (.prmt (fld w 31 1) (fld w 21 1) (fld w 14 7) (fld w 7 7) (fld w 0 7))
  | 29 =>
    .ok (.iadd64 (fld w 31 1) (fld w 21 1) (fld w 14 7) (fld w 7 7) (fld w 0 7))
  | 30 =>
    .ok (.isub64 (fld w 31 1) (fld w 21 1) (fld w 14 7) (fld w 7 7) (fld w 0 7))
  | 31 =>
    .ok (.lea (fld w 31 1) (fld w 21 1) (fld w 14 7) (fld w 7 7) (fld w 0 7))
  | _ => .error .unassigned

/-- Class 0x1 (R32). -/
def decodeClass1 (w : BitVec 32) : Except DecodeError Instr :=
  match (fld w 22 5).toNat with
  | 0 =>
    .ok (.fadd (fld w 31 1) (fld w 21 1) (fld w 14 7) (fld w 7 7) (fld w 0 7))
  | 1 =>
    .ok (.fsub (fld w 31 1) (fld w 21 1) (fld w 14 7) (fld w 7 7) (fld w 0 7))
  | 2 =>
    .ok (.fmul (fld w 31 1) (fld w 21 1) (fld w 14 7) (fld w 7 7) (fld w 0 7))
  | 3 =>
    .ok (.ffma (fld w 31 1) (fld w 21 1) (fld w 14 7) (fld w 7 7) (fld w 0 7))
  | 4 =>
    .ok (.ffms (fld w 31 1) (fld w 21 1) (fld w 14 7) (fld w 7 7) (fld w 0 7))
  | 5 =>
    .ok (.fnma (fld w 31 1) (fld w 21 1) (fld w 14 7) (fld w 7 7) (fld w 0 7))
  | 6 =>
    .ok (.fmin (fld w 31 1) (fld w 21 1) (fld w 14 7) (fld w 7 7) (fld w 0 7))
  | 7 =>
    .ok (.fminn (fld w 31 1) (fld w 21 1) (fld w 14 7) (fld w 7 7) (fld w 0 7))
  | 8 =>
    .ok (.fmax (fld w 31 1) (fld w 21 1) (fld w 14 7) (fld w 7 7) (fld w 0 7))
  | 9 =>
    .ok (.fmaxn (fld w 31 1) (fld w 21 1) (fld w 14 7) (fld w 7 7) (fld w 0 7))
  | 10 =>
    if fld w 18 3 = 0 then .ok (.fcmp (fld w 31 1) (fld w 21 1) (fld w 14 4) (fld w 7 7) (fld w 0 7))
    else .error .reservedBits
  | 11 =>
    if fld w 0 7 = 0 then .ok (.fclass (fld w 31 1) (fld w 21 1) (fld w 14 7) (fld w 7 7))
    else .error .reservedBits
  | 12 =>
    .ok (.fcpsgn (fld w 31 1) (fld w 21 1) (fld w 14 7) (fld w 7 7) (fld w 0 7))
  | 13 =>
    if fld w 0 7 = 0 then .ok (.frnd (fld w 31 1) (fld w 21 1) (fld w 14 7) (fld w 7 7))
    else .error .reservedBits
  | 14 =>
    if fld w 0 7 = 0 then .ok (.ffract (fld w 31 1) (fld w 21 1) (fld w 14 7) (fld w 7 7))
    else .error .reservedBits
  | 15 =>
    if fld w 0 7 = 0 then .ok (.fsat (fld w 31 1) (fld w 21 1) (fld w 14 7) (fld w 7 7))
    else .error .reservedBits
  | 16 =>
    .ok (.flerp (fld w 31 1) (fld w 21 1) (fld w 14 7) (fld w 7 7) (fld w 0 7))
  | 17 =>
    .ok (.fmed3 (fld w 31 1) (fld w 21 1) (fld w 14 7) (fld w 7 7) (fld w 0 7))
  | 18 =>
    .ok (.hadd2 (fld w 31 1) (fld w 21 1) (fld w 14 7) (fld w 7 7) (fld w 0 7))
  | 19 =>
    .ok (.hmul2 (fld w 31 1) (fld w 21 1) (fld w 14 7) (fld w 7 7) (fld w 0 7))
  | 20 =>
    .ok (.hfma2 (fld w 31 1) (fld w 21 1) (fld w 14 7) (fld w 7 7) (fld w 0 7))
  | 21 =>
    .ok (.badd2 (fld w 31 1) (fld w 21 1) (fld w 14 7) (fld w 7 7) (fld w 0 7))
  | 22 =>
    .ok (.bmul2 (fld w 31 1) (fld w 21 1) (fld w 14 7) (fld w 7 7) (fld w 0 7))
  | 23 =>
    .ok (.bfma2 (fld w 31 1) (fld w 21 1) (fld w 14 7) (fld w 7 7) (fld w 0 7))
  | 24 =>
    .ok (.fdot2h (fld w 31 1) (fld w 21 1) (fld w 14 7) (fld w 7 7) (fld w 0 7))
  | 25 =>
    .ok (.fdot2b (fld w 31 1) (fld w 21 1) (fld w 14 7) (fld w 7 7) (fld w 0 7))
  | _ => .error .unassigned

/-- Class 0x2 (R32). -/
def decodeClass2 (w : BitVec 32) : Except DecodeError Instr :=
  match (fld w 22 5).toNat with
  | 0 =>
    .ok (.iaddi (fld w 31 1) (fld w 15 7) (fld w 8 7) (fld w 0 8))
  | 1 =>
    .ok (.imuli (fld w 31 1) (fld w 15 7) (fld w 8 7) (fld w 0 8))
  | 2 =>
    .ok (.andi (fld w 31 1) (fld w 15 7) (fld w 8 7) (fld w 0 8))
  | 3 =>
    .ok (.ori (fld w 31 1) (fld w 15 7) (fld w 8 7) (fld w 0 8))
  | 4 =>
    .ok (.xori (fld w 31 1) (fld w 15 7) (fld w 8 7) (fld w 0 8))
  | 5 =>
    .ok (.shli (fld w 31 1) (fld w 15 7) (fld w 8 7) (fld w 0 8))
  | 6 =>
    .ok (.shri (fld w 31 1) (fld w 15 7) (fld w 8 7) (fld w 0 8))
  | 7 =>
    .ok (.sari (fld w 31 1) (fld w 15 7) (fld w 8 7) (fld w 0 8))
  | 8 =>
    if fld w 19 3 = 0 then .ok (.icmpi (fld w 31 1) (fld w 15 4) (fld w 8 7) (fld w 0 8))
    else .error .reservedBits
  | 9 =>
    if fld w 8 7 = 0 then .ok (.movi (fld w 31 1) (fld w 15 7) (fld w 0 8))
    else .error .reservedBits
  | 10 =>
    .ok (.laneidx (fld w 31 1) (fld w 15 7) (fld w 8 7) (fld w 0 8))
  | 11 =>
    .ok (.fmuli (fld w 31 1) (fld w 15 7) (fld w 8 7) (fld w 0 8))
  | 12 =>
    .ok (.faddi (fld w 31 1) (fld w 15 7) (fld w 8 7) (fld w 0 8))
  | 13 =>
    .ok (.iminiS (fld w 31 1) (fld w 15 7) (fld w 8 7) (fld w 0 8))
  | 14 =>
    .ok (.imaxiS (fld w 31 1) (fld w 15 7) (fld w 8 7) (fld w 0 8))
  | _ => .error .unassigned

/-- Class 0x3 (R32). -/
def decodeClass3 (w : BitVec 32) : Except DecodeError Instr :=
  match (fld w 22 5).toNat with
  | 0 =>
    .ok (.wadd (fld w 31 1) (fld w 14 8) (fld w 6 8) (fld w 0 6))
  | 1 =>
    .ok (.wsub (fld w 31 1) (fld w 14 8) (fld w 6 8) (fld w 0 6))
  | 2 =>
    .ok (.wmul (fld w 31 1) (fld w 14 8) (fld w 6 8) (fld w 0 6))
  | 3 =>
    .ok (.wand (fld w 31 1) (fld w 14 8) (fld w 6 8) (fld w 0 6))
  | 4 =>
    .ok (.wor (fld w 31 1) (fld w 14 8) (fld w 6 8) (fld w 0 6))
  | 5 =>
    .ok (.wxor (fld w 31 1) (fld w 14 8) (fld w 6 8) (fld w 0 6))
  | 6 =>
    .ok (.wshl (fld w 31 1) (fld w 14 8) (fld w 6 8) (fld w 0 6))
  | 7 =>
    .ok (.wshr (fld w 31 1) (fld w 14 8) (fld w 6 8) (fld w 0 6))
  | 8 =>
    .ok (.wsar (fld w 31 1) (fld w 14 8) (fld w 6 8) (fld w 0 6))
  | 9 =>
    if fld w 18 4 = 0 then .ok (.wcmp (fld w 31 1) (fld w 14 4) (fld w 6 8) (fld w 0 6))
    else .error .reservedBits
  | 10 =>
    .ok (.wsel (fld w 31 1) (fld w 14 8) (fld w 6 8) (fld w 0 6))
  | 11 =>
    if fld w 0 6 = 0 then .ok (.wmov (fld w 31 1) (fld w 14 8) (fld w 6 8))
    else .error .reservedBits
  | 12 =>
    .ok (.wli (fld w 31 1) (fld w 14 8) (fld w 0 14))
  | 13 =>
    .ok (.wlih (fld w 31 1) (fld w 14 8) (fld w 0 14))
  | 14 =>
    .ok (.wadd64 (fld w 31 1) (fld w 14 8) (fld w 6 8) (fld w 0 6))
  | 15 =>
    if fld w 21 1 = 0 ∧ fld w 0 6 = 0 then .ok (.wtov (fld w 31 1) (fld w 14 7) (fld w 6 8))
    else .error .reservedBits
  | 16 =>
    if fld w 13 1 = 0 then .ok (.vtow (fld w 31 1) (fld w 14 8) (fld w 6 7) (fld w 0 6))
    else .error .reservedBits
  | 17 =>
    .ok (.waddi (fld w 31 1) (fld w 14 8) (fld w 6 8) (fld w 0 6))
  | 18 =>
    .ok (.wmin (fld w 31 1) (fld w 14 8) (fld w 6 8) (fld w 0 6))
  | 19 =>
    .ok (.wmax (fld w 31 1) (fld w 14 8) (fld w 6 8) (fld w 0 6))
  | _ => .error .unassigned

/-- Class 0x4 (R32). -/
def decodeClass4 (w : BitVec 32) : Except DecodeError Instr :=
  match (fld w 22 5).toNat with
  | 0 =>
    .ok (.shflIdx (fld w 31 1) (fld w 21 1) (fld w 14 7) (fld w 7 7) (fld w 0 7))
  | 1 =>
    .ok (.shflUp (fld w 31 1) (fld w 21 1) (fld w 14 7) (fld w 7 7) (fld w 0 7))
  | 2 =>
    .ok (.shflDn (fld w 31 1) (fld w 21 1) (fld w 14 7) (fld w 7 7) (fld w 0 7))
  | 3 =>
    .ok (.shflXor (fld w 31 1) (fld w 21 1) (fld w 14 7) (fld w 7 7) (fld w 0 7))
  | 4 =>
    if fld w 0 7 = 0 then .ok (.voteAny (fld w 31 1) (fld w 21 1) (fld w 14 7) (fld w 7 7))
    else .error .reservedBits
  | 5 =>
    if fld w 0 7 = 0 then .ok (.voteAll (fld w 31 1) (fld w 21 1) (fld w 14 7) (fld w 7 7))
    else .error .reservedBits
  | 6 =>
    if fld w 17 4 = 0 ∧ fld w 0 7 = 0 then .ok (.ballot (fld w 31 1) (fld w 21 1) (fld w 14 3) (fld w 7 7))
    else .error .reservedBits
  | 7 =>
    if fld w 0 7 = 0 then .ok (.matchLanes (fld w 31 1) (fld w 21 1) (fld w 14 7) (fld w 7 7))
    else .error .reservedBits
  | 8 =>
    .ok (.redAdd (fld w 31 1) (fld w 21 1) (fld w 14 7) (fld w 7 7) (fld w 0 7))
  | 9 =>
    .ok (.redMinS (fld w 31 1) (fld w 21 1) (fld w 14 7) (fld w 7 7) (fld w 0 7))
  | 10 =>
    .ok (.redMinN (fld w 31 1) (fld w 21 1) (fld w 14 7) (fld w 7 7) (fld w 0 7))
  | 11 =>
    .ok (.redMaxS (fld w 31 1) (fld w 21 1) (fld w 14 7) (fld w 7 7) (fld w 0 7))
  | 12 =>
    .ok (.redMaxN (fld w 31 1) (fld w 21 1) (fld w 14 7) (fld w 7 7) (fld w 0 7))
  | 13 =>
    .ok (.redAnd (fld w 31 1) (fld w 21 1) (fld w 14 7) (fld w 7 7) (fld w 0 7))
  | 14 =>
    .ok (.redOr (fld w 31 1) (fld w 21 1) (fld w 14 7) (fld w 7 7) (fld w 0 7))
  | 15 =>
    .ok (.redFadd (fld w 31 1) (fld w 21 1) (fld w 14 7) (fld w 7 7) (fld w 0 7))
  | 16 =>
    .ok (.scanAdd (fld w 31 1) (fld w 21 1) (fld w 14 7) (fld w 7 7) (fld w 0 7))
  | 17 =>
    .ok (.scanFadd (fld w 31 1) (fld w 21 1) (fld w 14 7) (fld w 7 7) (fld w 0 7))
  | 18 =>
    if fld w 17 4 = 0 ∧ fld w 10 4 = 0 ∧ fld w 3 4 = 0 then .ok (.mand (fld w 31 1) (fld w 21 1) (fld w 14 3) (fld w 7 3) (fld w 0 3))
    else .error .reservedBits
  | 19 =>
    if fld w 17 4 = 0 ∧ fld w 10 4 = 0 ∧ fld w 3 4 = 0 then .ok (.mor (fld w 31 1) (fld w 21 1) (fld w 14 3) (fld w 7 3) (fld w 0 3))
    else .error .reservedBits
  | 20 =>
    if fld w 17 4 = 0 ∧ fld w 10 4 = 0 ∧ fld w 3 4 = 0 then .ok (.mxor (fld w 31 1) (fld w 21 1) (fld w 14 3) (fld w 7 3) (fld w 0 3))
    else .error .reservedBits
  | 21 =>
    if fld w 17 4 = 0 ∧ fld w 10 4 = 0 ∧ fld w 3 4 = 0 then .ok (.mandn (fld w 31 1) (fld w 21 1) (fld w 14 3) (fld w 7 3) (fld w 0 3))
    else .error .reservedBits
  | 22 =>
    if fld w 17 4 = 0 ∧ fld w 10 4 = 0 ∧ fld w 0 7 = 0 then .ok (.mmov (fld w 31 1) (fld w 21 1) (fld w 14 3) (fld w 7 3))
    else .error .reservedBits
  | 23 =>
    if fld w 10 4 = 0 ∧ fld w 0 7 = 0 then .ok (.mpopc (fld w 31 1) (fld w 21 1) (fld w 14 7) (fld w 7 3))
    else if fld w 10 4 = 0 ∧ fld w 0 7 = 1 then .ok (.mpopcRank (fld w 31 1) (fld w 21 1) (fld w 14 7) (fld w 7 3))
    else .error .reservedBits
  | 24 =>
    if fld w 10 4 = 0 ∧ fld w 0 7 = 0 then .ok (.mfirst (fld w 31 1) (fld w 21 1) (fld w 14 7) (fld w 7 3))
    else .error .reservedBits
  | 25 =>
    if fld w 10 4 = 0 ∧ fld w 0 7 = 0 then .ok (.mtov (fld w 31 1) (fld w 21 1) (fld w 14 7) (fld w 7 3))
    else .error .reservedBits
  | 26 =>
    if fld w 17 4 = 0 ∧ fld w 5 2 = 0 then .ok (.vtom (fld w 31 1) (fld w 21 1) (fld w 14 3) (fld w 7 7) (fld w 0 5))
    else .error .reservedBits
  | 27 =>
    if fld w 17 4 = 0 ∧ fld w 0 14 = 0 then .ok (.elect (fld w 31 1) (fld w 21 1) (fld w 14 3))
    else .error .reservedBits
  | 28 =>
    if fld w 17 4 = 0 ∧ fld w 0 14 = 0 then .ok (.issuem (fld w 31 1) (fld w 21 1) (fld w 14 3))
    else .error .reservedBits
  | _ => .error .unassigned

/-- Class 0x5 (R32). -/
def decodeClass5 (w : BitVec 32) : Except DecodeError Instr :=
  match (fld w 22 5).toNat with
  | 0 =>
    if fld w 18 4 = 0 then .ok (.bra (fld w 31 1) (fld w 0 18))
    else .error .reservedBits
  | 1 =>
    .ok (.brc (fld w 31 1) (fld w 21 1) (fld w 18 3) (fld w 0 18))
  | 2 =>
    if fld w 18 3 = 0 then .ok (.brw (fld w 31 1) (fld w 21 1) (fld w 0 18))
    else .error .reservedBits
  | 3 =>
    if fld w 18 4 = 0 then .ok (.call (fld w 31 1) (fld w 0 18))
    else .error .reservedBits
  | 4 =>
    if fld w 14 7 = 0 ∧ fld w 0 7 = 0 then .ok (.bri (fld w 31 1) (fld w 21 1) (fld w 7 7))
    else .error .reservedBits
  | 5 =>
    if fld w 0 7 = 0 then .ok (.calli (fld w 31 1) (fld w 21 1) (fld w 14 7) (fld w 7 7))
    else .error .reservedBits
  | 6 =>
    if fld w 14 7 = 0 ∧ fld w 0 7 = 0 then .ok (.ret (fld w 31 1) (fld w 21 1) (fld w 7 7))
    else .error .reservedBits
  | 7 =>
    if fld w 17 4 = 0 ∧ fld w 0 14 = 0 then .ok (.split (fld w 31 1) (fld w 21 1) (fld w 14 3))
    else .error .reservedBits
  | 8 =>
    if fld w 17 4 = 0 ∧ fld w 0 14 = 0 then .ok (.join (fld w 31 1) (fld w 21 1) (fld w 14 3))
    else .error .reservedBits
  | 9 =>
    if fld w 0 21 = 0 then .ok (.exit (fld w 31 1) (fld w 21 1))
    else .error .reservedBits
  | 10 =>
    if fld w 0 21 = 0 then .ok (.endAll (fld w 31 1) (fld w 21 1))
    else .error .reservedBits
  | 11 =>
    .ok (.loopw (fld w 31 1) (fld w 18 4) (fld w 0 18))
  | _ => .error .unassigned

/-- Class 0x6 (R32). -/
def decodeClass6 (w : BitVec 32) : Except DecodeError Instr :=
  match (fld w 22 5).toNat with
  | 0 =>
    .ok (.ldB8 (fld w 31 1) (fld w 18 4) (fld w 11 7) (fld w 4 7) (fld w 0 4))
  | 1 =>
    .ok (.ldS8 (fld w 31 1) (fld w 18 4) (fld w 11 7) (fld w 4 7) (fld w 0 4))
  | 2 =>
    .ok (.ldB16 (fld w 31 1) (fld w 18 4) (fld w 11 7) (fld w 4 7) (fld w 0 4))
  | 3 =>
    .ok (.ldS16 (fld w 31 1) (fld w 18 4) (fld w 11 7) (fld w 4 7) (fld w 0 4))
  | 4 =>
    .ok (.ldB32 (fld w 31 1) (fld w 18 4) (fld w 11 7) (fld w 4 7) (fld w 0 4))
  | 5 =>
    .ok (.ldB64 (fld w 31 1) (fld w 18 4) (fld w 11 7) (fld w 4 7) (fld w 0 4))
  | 6 =>
    .ok (.ldB128 (fld w 31 1) (fld w 18 4) (fld w 11 7) (fld w 4 7) (fld w 0 4))
  | 7 =>
    .ok (.stB8 (fld w 31 1) (fld w 18 4) (fld w 11 7) (fld w 4 7) (fld w 0 4))
  | 8 =>
    .ok (.stB16 (fld w 31 1) (fld w 18 4) (fld w 11 7) (fld w 4 7) (fld w 0 4))
  | 9 =>
    .ok (.stB32 (fld w 31 1) (fld w 18 4) (fld w 11 7) (fld w 4 7) (fld w 0 4))
  | 10 =>
    .ok (.stB64 (fld w 31 1) (fld w 18 4) (fld w 11 7) (fld w 4 7) (fld w 0 4))
  | 11 =>
    .ok (.stB128 (fld w 31 1) (fld w 18 4) (fld w 11 7) (fld w 4 7) (fld w 0 4))
  | 12 =>
    .ok (.ldsB32 (fld w 31 1) (fld w 18 4) (fld w 11 7) (fld w 4 7) (fld w 0 4))
  | 13 =>
    .ok (.ldsB64 (fld w 31 1) (fld w 18 4) (fld w 11 7) (fld w 4 7) (fld w 0 4))
  | 14 =>
    .ok (.ldsB128 (fld w 31 1) (fld w 18 4) (fld w 11 7) (fld w 4 7) (fld w 0 4))
  | 15 =>
    .ok (.stsB32 (fld w 31 1) (fld w 18 4) (fld w 11 7) (fld w 4 7) (fld w 0 4))
  | 16 =>
    .ok (.stsB64 (fld w 31 1) (fld w 18 4) (fld w 11 7) (fld w 4 7) (fld w 0 4))
  | 17 =>
    .ok (.stsB128 (fld w 31 1) (fld w 18 4) (fld w 11 7) (fld w 4 7) (fld w 0 4))
  | 18 =>
    .ok (.ldw (fld w 31 1) (fld w 18 4) (fld w 11 7) (fld w 4 7) (fld w 0 4))
  | 19 =>
    if fld w 12 6 = 0 then .ok (.pref (fld w 31 1) (fld w 18 4) (fld w 11 1) (fld w 4 7) (fld w 0 4))
    else .error .reservedBits
  | _ => .error .unassigned

/-- Class 0x7 (R32). -/
def decodeClass7 (w : BitVec 32) : Except DecodeError Instr :=
  match (fld w 22 5).toNat with
  | 0 =>
    .ok (.atomAdd32 (fld w 31 1) (fld w 18 4) (fld w 11 7) (fld w 4 7) (fld w 0 4))
  | 16 =>
    .ok (.atomAdd64 (fld w 31 1) (fld w 18 4) (fld w 11 7) (fld w 4 7) (fld w 0 4))
  | 1 =>
    .ok (.atomSub32 (fld w 31 1) (fld w 18 4) (fld w 11 7) (fld w 4 7) (fld w 0 4))
  | 17 =>
    .ok (.atomSub64 (fld w 31 1) (fld w 18 4) (fld w 11 7) (fld w 4 7) (fld w 0 4))
  | 2 =>
    .ok (.atomMinS32 (fld w 31 1) (fld w 18 4) (fld w 11 7) (fld w 4 7) (fld w 0 4))
  | 18 =>
    .ok (.atomMinS64 (fld w 31 1) (fld w 18 4) (fld w 11 7) (fld w 4 7) (fld w 0 4))
  | 3 =>
    .ok (.atomMinN32 (fld w 31 1) (fld w 18 4) (fld w 11 7) (fld w 4 7) (fld w 0 4))
  | 19 =>
    .ok (.atomMinN64 (fld w 31 1) (fld w 18 4) (fld w 11 7) (fld w 4 7) (fld w 0 4))
  | 4 =>
    .ok (.atomMaxS32 (fld w 31 1) (fld w 18 4) (fld w 11 7) (fld w 4 7) (fld w 0 4))
  | 20 =>
    .ok (.atomMaxS64 (fld w 31 1) (fld w 18 4) (fld w 11 7) (fld w 4 7) (fld w 0 4))
  | 5 =>
    .ok (.atomMaxN32 (fld w 31 1) (fld w 18 4) (fld w 11 7) (fld w 4 7) (fld w 0 4))
  | 21 =>
    .ok (.atomMaxN64 (fld w 31 1) (fld w 18 4) (fld w 11 7) (fld w 4 7) (fld w 0 4))
  | 6 =>
    .ok (.atomAnd32 (fld w 31 1) (fld w 18 4) (fld w 11 7) (fld w 4 7) (fld w 0 4))
  | 22 =>
    .ok (.atomAnd64 (fld w 31 1) (fld w 18 4) (fld w 11 7) (fld w 4 7) (fld w 0 4))
  | 7 =>
    .ok (.atomOr32 (fld w 31 1) (fld w 18 4) (fld w 11 7) (fld w 4 7) (fld w 0 4))
  | 23 =>
    .ok (.atomOr64 (fld w 31 1) (fld w 18 4) (fld w 11 7) (fld w 4 7) (fld w 0 4))
  | 8 =>
    .ok (.atomXor32 (fld w 31 1) (fld w 18 4) (fld w 11 7) (fld w 4 7) (fld w 0 4))
  | 24 =>
    .ok (.atomXor64 (fld w 31 1) (fld w 18 4) (fld w 11 7) (fld w 4 7) (fld w 0 4))
  | 9 =>
    .ok (.atomExch32 (fld w 31 1) (fld w 18 4) (fld w 11 7) (fld w 4 7) (fld w 0 4))
  | 25 =>
    .ok (.atomExch64 (fld w 31 1) (fld w 18 4) (fld w 11 7) (fld w 4 7) (fld w 0 4))
  | 10 =>
    .ok (.atomCas32 (fld w 31 1) (fld w 18 4) (fld w 11 7) (fld w 4 7) (fld w 0 4))
  | 26 =>
    .ok (.atomCas64 (fld w 31 1) (fld w 18 4) (fld w 11 7) (fld w 4 7) (fld w 0 4))
  | 11 =>
    .ok (.atomInc32 (fld w 31 1) (fld w 18 4) (fld w 11 7) (fld w 4 7) (fld w 0 4))
  | 27 =>
    .ok (.atomInc64 (fld w 31 1) (fld w 18 4) (fld w 11 7) (fld w 4 7) (fld w 0 4))
  | 12 =>
    .ok (.atomDec32 (fld w 31 1) (fld w 18 4) (fld w 11 7) (fld w 4 7) (fld w 0 4))
  | 28 =>
    .ok (.atomDec64 (fld w 31 1) (fld w 18 4) (fld w 11 7) (fld w 4 7) (fld w 0 4))
  | 13 =>
    .ok (.atomFaddF32 (fld w 31 1) (fld w 18 4) (fld w 11 7) (fld w 4 7) (fld w 0 4))
  | 14 =>
    .ok (.atomFadd2Bf16 (fld w 31 1) (fld w 18 4) (fld w 11 7) (fld w 4 7) (fld w 0 4))
  | _ => .error .unassigned

/-- Class 0x8 (R32). -/
def decodeClass8 (w : BitVec 32) : Except DecodeError Instr :=
  match (fld w 23 4).toNat with
  | 0 =>
    .ok (.mma (fld w 31 1) (fld w 19 4) (fld w 16 3) (fld w 11 5) (fld w 6 5) (fld w 0 6))
  | 1 =>
    .ok (.mman (fld w 31 1) (fld w 19 4) (fld w 16 3) (fld w 11 5) (fld w 6 5) (fld w 0 6))
  | 2 =>
    if fld w 16 3 = 0 then .ok (.mmas (fld w 31 1) (fld w 19 4) (fld w 11 5) (fld w 6 5) (fld w 0 6))
    else .error .reservedBits
  | 3 =>
    .ok (.mmaz (fld w 31 1) (fld w 19 4) (fld w 16 3) (fld w 11 5) (fld w 6 5) (fld w 0 6))
  | 4 =>
    if fld w 17 2 = 0 ∧ fld w 0 11 = 0 then .ok (.aclr (fld w 31 1) (fld w 19 4) (fld w 16 1) (fld w 11 5))
    else .error .reservedBits
  | 5 =>
    if fld w 17 2 = 0 then .ok (.aanc (fld w 31 1) (fld w 19 4) (fld w 16 1) (fld w 11 5) (fld w 0 11))
    else .error .reservedBits
  | 6 =>
    if fld w 17 2 = 0 ∧ fld w 10 1 = 0 then .ok (.ares (fld w 31 1) (fld w 19 4) (fld w 16 1) (fld w 11 5) (fld w 6 4) (fld w 0 6))
    else .error .reservedBits
  | 7 =>
    .ok (.acmp (fld w 31 1) (fld w 19 4) (fld w 17 2) (fld w 16 1) (fld w 11 5) (fld w 6 5) (fld w 0 6))
  | 8 =>
    if fld w 17 2 = 0 ∧ fld w 0 6 = 0 then .ok (.adrainRaw (fld w 31 1) (fld w 19 4) (fld w 16 1) (fld w 11 5) (fld w 6 5))
    else if fld w 17 2 = 1 ∧ fld w 4 2 = 0 then .ok (.adrainValue (fld w 31 1) (fld w 19 4) (fld w 16 1) (fld w 11 5) (fld w 6 5) (fld w 0 4))
    else if fld w 17 2 = 2 ∧ fld w 0 6 = 0 then .ok (.adrainAdd (fld w 31 1) (fld w 19 4) (fld w 16 1) (fld w 11 5) (fld w 6 5))
    else if fld w 17 2 = 3 ∧ fld w 4 2 = 0 then .ok (.adrainValueAdd (fld w 31 1) (fld w 19 4) (fld w 16 1) (fld w 11 5) (fld w 6 5) (fld w 0 4))
    else .error .reservedBits
  | 9 =>
    if fld w 17 2 = 0 ∧ fld w 0 6 = 0 then .ok (.aloadRaw (fld w 31 1) (fld w 19 4) (fld w 16 1) (fld w 11 5) (fld w 6 5))
    else if fld w 17 2 = 1 ∧ fld w 4 2 = 0 then .ok (.aloadValue (fld w 31 1) (fld w 19 4) (fld w 16 1) (fld w 11 5) (fld w 6 5) (fld w 0 4))
    else .error .reservedBits
  | 10 =>
    .ok (.scld (fld w 31 1) (fld w 19 4) (fld w 16 3) (fld w 6 10) (fld w 0 6))
  | 11 =>
    if fld w 10 9 = 0 then .ok (.mfmt (fld w 31 1) (fld w 19 4) (fld w 0 10))
    else .error .reservedBits
  | 12 =>
    if fld w 13 6 = 0 ∧ fld w 6 5 = 0 then .ok (.tmma (fld w 31 1) (fld w 19 4) (fld w 11 2) (fld w 0 6))
    else .error .reservedBits
  | 13 =>
    if fld w 13 6 = 0 ∧ fld w 0 11 = 0 then .ok (.twait (fld w 31 1) (fld w 19 4) (fld w 11 2))
    else if fld w 13 6 = 8 ∧ fld w 0 11 = 0 then .ok (.twaitOc (fld w 31 1) (fld w 19 4) (fld w 11 2))
    else .error .reservedBits
  | 14 =>
    if fld w 17 2 = 0 ∧ fld w 0 11 = 0 then .ok (.acanon (fld w 31 1) (fld w 19 4) (fld w 16 1) (fld w 11 5))
    else .error .reservedBits
  | 15 =>
    if fld w 18 1 = 0 ∧ fld w 0 6 = 0 then .ok (.amov (fld w 31 1) (fld w 19 4) (fld w 16 2) (fld w 11 5) (fld w 6 5))
    else .error .reservedBits
  | _ => .error .unassigned

/-- Class 0x9 (R32). -/
def decodeClass9 (w : BitVec 32) : Except DecodeError Instr :=
  match (fld w 23 4).toNat with
  | 0 =>
    if fld w 16 3 = 0 then .ok (.edge (fld w 31 1) (fld w 19 4) (fld w 11 5) (fld w 6 5) (fld w 0 6))
    else .error .reservedBits
  | 1 =>
    if fld w 11 8 = 0 then .ok (.bary (fld w 31 1) (fld w 19 4) (fld w 6 5) (fld w 0 6))
    else .error .reservedBits
  | 2 =>
    if fld w 16 3 = 0 then .ok (.covpk (fld w 31 1) (fld w 19 4) (fld w 11 5) (fld w 6 5) (fld w 0 6))
    else .error .reservedBits
  | 3 =>
    if fld w 15 4 = 0 then .ok (.texg (fld w 31 1) (fld w 19 4) (fld w 11 4) (fld w 6 5) (fld w 0 6))
    else .error .reservedBits
  | 4 =>
    .ok (.filt (fld w 31 1) (fld w 19 4) (fld w 16 3) (fld w 11 5) (fld w 6 5) (fld w 0 6))
  | 5 =>
    if fld w 16 3 = 0 then .ok (.blnd (fld w 31 1) (fld w 19 4) (fld w 11 5) (fld w 6 5) (fld w 0 6))
    else .error .reservedBits
  | 6 =>
    if fld w 16 3 = 0 ∧ fld w 4 2 = 0 then .ok (.cpack (fld w 31 1) (fld w 19 4) (fld w 11 5) (fld w 6 5) (fld w 0 4))
    else .error .reservedBits
  | 7 =>
    if fld w 11 8 = 0 ∧ fld w 4 2 = 0 then .ok (.cunpk (fld w 31 1) (fld w 19 4) (fld w 6 5) (fld w 0 4))
    else .error .reservedBits
  | 8 =>
    if fld w 17 2 = 0 ∧ fld w 0 11 = 0 then .ok (.meshemit (fld w 31 1) (fld w 19 4) (fld w 16 1) (fld w 11 5))
    else .error .reservedBits
  | 9 =>
    if fld w 16 3 = 0 ∧ fld w 6 5 = 0 then .ok (.binnext (fld w 31 1) (fld w 19 4) (fld w 11 5) (fld w 0 6))
    else .error .reservedBits
  | _ => .error .unassigned

/-- Class 0xA (R32). -/
def decodeClassA (w : BitVec 32) : Except DecodeError Instr :=
  match (fld w 22 5).toNat with
  | 0 =>
    if fld w 12 7 = 0 then .ok (.bararr (fld w 31 1) (fld w 19 3) (fld w 5 7) (fld w 0 5))
    else .error .reservedBits
  | 1 =>
    if fld w 12 7 = 0 then .ok (.barwait (fld w 31 1) (fld w 19 3) (fld w 5 7) (fld w 0 5))
    else .error .reservedBits
  | 2 =>
    if fld w 12 7 = 0 then .ok (.barsync (fld w 31 1) (fld w 19 3) (fld w 5 7) (fld w 0 5))
    else .error .reservedBits
  | 3 =>
    .ok (.barexp (fld w 31 1) (fld w 19 3) (fld w 12 7) (fld w 5 7) (fld w 0 5))
  | 4 =>
    if fld w 19 3 = 0 then .ok (.ordenter (fld w 31 1) (fld w 12 7) (fld w 5 7) (fld w 0 5))
    else .error .reservedBits
  | 5 =>
    if fld w 19 3 = 0 ∧ fld w 5 7 = 0 then .ok (.ordleave (fld w 31 1) (fld w 12 7) (fld w 0 5))
    else .error .reservedBits
  | 6 =>
    if fld w 19 3 = 0 then .ok (.ordskip (fld w 31 1) (fld w 12 7) (fld w 5 7) (fld w 0 5))
    else .error .reservedBits
  | 7 =>
    if fld w 19 3 = 0 then .ok (.ordtest (fld w 31 1) (fld w 12 7) (fld w 5 7) (fld w 0 5))
    else .error .reservedBits
  | 8 =>
    if fld w 19 3 = 0 ∧ fld w 5 7 = 0 then .ok (.seqnext (fld w 31 1) (fld w 12 7) (fld w 0 5))
    else .error .reservedBits
  | 9 =>
    if fld w 5 7 = 0 then .ok (.put (fld w 31 1) (fld w 19 3) (fld w 12 7) (fld w 0 5))
    else .error .reservedBits
  | 10 =>
    .ok (.putw (fld w 31 1) (fld w 19 3) (fld w 12 7) (fld w 5 7) (fld w 0 5))
  | 11 =>
    if fld w 5 7 = 0 then .ok (.cwait (fld w 31 1) (fld w 19 3) (fld w 12 7) (fld w 0 5))
    else .error .reservedBits
  | 12 =>
    if fld w 0 19 = 1 then .ok (.fenceAcq (fld w 31 1) (fld w 19 3))
    else if fld w 0 19 = 2 then .ok (.fenceRel (fld w 31 1) (fld w 19 3))
    else if fld w 0 19 = 3 then .ok (.fenceAr (fld w 31 1) (fld w 19 3))
    else if fld w 0 19 = 7 then .ok (.fenceSc (fld w 31 1) (fld w 19 3))
    else .error .reservedBits
  | 13 =>
    if fld w 0 22 = 0 then .ok (.scwait (fld w 31 1))
    else .error .reservedBits
  | _ => .error .unassigned

/-- Class 0xB (R32). -/
noncomputable def decodeClassB (w : BitVec 32) : Except DecodeError Instr :=
  match (fld w 22 5).toNat with
  | 0 =>
    if fld w 3 11 = 0 then .ok (.qacq (fld w 31 1) (fld w 18 4) (fld w 14 4) (fld w 0 3))
    else .error .reservedBits
  | 1 =>
    if fld w 14 4 = 0 ∧ fld w 3 7 = 0 then .ok (.qrel (fld w 31 1) (fld w 18 4) (fld w 10 4) (fld w 0 3))
    else .error .reservedBits
  | 2 =>
    if fld w 3 11 = 0 then .ok (.qpacq (fld w 31 1) (fld w 18 4) (fld w 14 4) (fld w 0 3))
    else .error .reservedBits
  | 3 =>
    if fld w 14 4 = 0 ∧ fld w 3 7 = 0 then .ok (.qpcommit (fld w 31 1) (fld w 18 4) (fld w 10 4) (fld w 0 3))
    else .error .reservedBits
  | 4 =>
    if fld w 0 14 = 0 then .ok (.tcopy (fld w 31 1) (fld w 18 4) (fld w 14 4))
    else .error .reservedBits
  | 5 =>
    if fld w 0 14 = 0 then .ok (.tstore (fld w 31 1) (fld w 18 4) (fld w 14 4))
    else .error .reservedBits
  | 6 =>
    if fld w 16 2 = 0 ∧ fld w 0 10 = 0 then .ok (.apstart (fld w 31 1) (fld w 18 4) (fld w 14 2) (fld w 10 4))
    else .error .reservedBits
  | 7 =>
    if fld w 16 2 = 0 ∧ fld w 0 14 = 0 then .ok (.apstop (fld w 31 1) (fld w 18 4) (fld w 14 2))
    else .error .reservedBits
  | 8 =>
    if fld w 18 4 = 0 ∧ fld w 10 4 = 0 then .ok (.xli (fld w 31 1) (fld w 14 4) (fld w 0 10))
    else .error .reservedBits
  | 9 =>
    if fld w 18 4 = 0 ∧ fld w 10 4 = 0 then .ok (.xlih (fld w 31 1) (fld w 14 4) (fld w 0 10))
    else .error .reservedBits
  | 10 =>
    if fld w 18 4 = 0 then .ok (.xadd (fld w 31 1) (fld w 14 4) (fld w 10 4) (fld w 0 10))
    else .error .reservedBits
  | 11 =>
    if fld w 18 4 = 0 then .ok (.xmad (fld w 31 1) (fld w 14 4) (fld w 10 4) (fld w 0 10))
    else .error .reservedBits
  | 12 =>
    if fld w 16 6 = 0 ∧ fld w 10 4 = 0 then .ok (.xloop (fld w 31 1) (fld w 14 2) (fld w 0 10))
    else if fld w 16 6 = 1 ∧ fld w 0 10 = 0 then .ok (.xloopSet (fld w 31 1) (fld w 14 2) (fld w 10 4))
    else .error .reservedBits
  | 13 =>
    if fld w 14 8 = 0 then .ok (.xfetch (fld w 31 1) (fld w 10 4) (fld w 3 7) (fld w 0 3))
    else .error .reservedBits
  | 14 =>
    if fld w 14 8 = 0 then .ok (.xstore (fld w 31 1) (fld w 10 4) (fld w 3 7) (fld w 0 3))
    else .error .reservedBits
  | 15 =>
    if fld w 3 19 = 0 then .ok (.xsigFill (fld w 31 1) (fld w 0 3))
    else if fld w 3 19 = 1 then .ok (.xsigFree (fld w 31 1) (fld w 0 3))
    else .error .reservedBits
  | 16 =>
    if fld w 0 22 = 0 then .ok (.xend (fld w 31 1))
    else .error .reservedBits
  | _ => .error .unassigned

/-- Class 0xC (R32). -/
noncomputable def decodeClassC (w : BitVec 32) : Except DecodeError Instr :=
  match (fld w 22 5).toNat with
  | 0 =>
    if fld w 0 22 = 0 then .ok (.nop (fld w 31 1))
    else .error .reservedBits
  | 1 =>
    .ok (.sysrd (fld w 31 1) (fld w 14 8) (fld w 0 14))
  | 2 =>
    .ok (.syswr (fld w 31 1) (fld w 14 8) (fld w 0 14))
  | 3 =>
    if fld w 14 8 = 0 then .ok (.trap (fld w 31 1) (fld w 0 14))
    else .error .reservedBits
  | 4 =>
    if fld w 16 6 = 0 ∧ fld w 0 14 = 0 then .ok (.trapret (fld w 31 1) (fld w 14 2))
    else .error .reservedBits
  | 5 =>
    if fld w 18 4 = 0 ∧ fld w 0 14 = 0 then .ok (.frsave (fld w 31 1) (fld w 14 4))
    else .error .reservedBits
  | 6 =>
    if fld w 18 4 = 0 ∧ fld w 0 14 = 0 then .ok (.frload (fld w 31 1) (fld w 14 4))
    else .error .reservedBits
  | 7 =>
    if fld w 9 5 = 0 then .ok (.region (fld w 31 1) (fld w 14 8) (fld w 0 9))
    else .error .reservedBits
  | 8 =>
    if fld w 14 8 = 0 then .ok (.reggrowTry (fld w 31 1) (fld w 0 14))
    else if fld w 14 8 = 1 then .ok (.reggrowWait (fld w 31 1) (fld w 0 14))
    else .error .reservedBits
  | 9 =>
    if fld w 14 8 = 0 then .ok (.regshrink (fld w 31 1) (fld w 0 14))
    else .error .reservedBits
  | 10 =>
    if fld w 21 1 = 0 ∧ fld w 7 7 = 0 then .ok (.vfree (fld w 31 1) (fld w 14 7) (fld w 0 7))
    else .error .reservedBits
  | 11 =>
    .ok (.query (fld w 31 1) (fld w 14 8) (fld w 0 14))
  | 12 =>
    .ok (.launch (fld w 31 1) (fld w 14 8) (fld w 0 14))
  | 13 =>
    if fld w 14 8 = 0 then .ok (.bkpt (fld w 31 1) (fld w 0 14))
    else .error .reservedBits
  | 14 =>
    if fld w 6 16 = 0 then .ok (.waitev (fld w 31 1) (fld w 0 6))
    else .error .reservedBits
  | 15 =>
    .ok (.perfrd (fld w 31 1) (fld w 14 8) (fld w 0 14))
  | 16 =>
    if fld w 21 1 = 0 ∧ fld w 0 14 = 0 then .ok (.rngseed (fld w 31 1) (fld w 14 7))
    else .error .reservedBits
  | 17 =>
    if fld w 14 8 = 0 then .ok (.modesetWrite (fld w 31 1) (fld w 0 14))
    else if fld w 14 8 = 1 then .ok (.modesetOr (fld w 31 1) (fld w 0 14))
    else if fld w 14 8 = 2 then .ok (.modesetAndn (fld w 31 1) (fld w 0 14))
    else if fld w 6 16 = 768 then .ok (.modesetTen (fld w 31 1) (fld w 0 6))
    else .error .reservedBits
  | 18 =>
    if fld w 21 1 = 0 ∧ fld w 4 10 = 0 then .ok (.tinfo (fld w 31 1) (fld w 14 7) (fld w 0 4))
    else .error .reservedBits
  | _ => .error .unassigned

/-- Class 0xD (R32). -/
noncomputable def decodeClassD (w : BitVec 32) : Except DecodeError Instr :=
  match (fld w 22 5).toNat with
  | 0 =>
    .ok (.cvtf (fld w 31 1) (fld w 18 4) (fld w 14 4) (fld w 7 7) (fld w 0 7))
  | 1 =>
    .ok (.cvtfi (fld w 31 1) (fld w 18 4) (fld w 14 4) (fld w 7 7) (fld w 0 7))
  | 2 =>
    .ok (.cvtif (fld w 31 1) (fld w 18 4) (fld w 14 4) (fld w 7 7) (fld w 0 7))
  | 3 =>
    .ok (.pack2 (fld w 31 1) (fld w 18 4) (fld w 14 4) (fld w 7 7) (fld w 0 7))
  | 4 =>
    .ok (.pack4 (fld w 31 1) (fld w 18 4) (fld w 14 4) (fld w 7 7) (fld w 0 7))
  | 5 =>
    .ok (.unpk (fld w 31 1) (fld w 18 4) (fld w 14 4) (fld w 7 7) (fld w 0 7))
  | 6 =>
    .ok (.rcp (fld w 31 1) (fld w 18 4) (fld w 14 4) (fld w 7 7) (fld w 0 7))
  | 7 =>
    .ok (.rsq (fld w 31 1) (fld w 18 4) (fld w 14 4) (fld w 7 7) (fld w 0 7))
  | 8 =>
    .ok (.sqrt (fld w 31 1) (fld w 18 4) (fld w 14 4) (fld w 7 7) (fld w 0 7))
  | 9 =>
    .ok (.exp2 (fld w 31 1) (fld w 18 4) (fld w 14 4) (fld w 7 7) (fld w 0 7))
  | 10 =>
    .ok (.log2 (fld w 31 1) (fld w 18 4) (fld w 14 4) (fld w 7 7) (fld w 0 7))
  | 11 =>
    .ok (.sinp (fld w 31 1) (fld w 18 4) (fld w 14 4) (fld w 7 7) (fld w 0 7))
  | 12 =>
    .ok (.cosp (fld w 31 1) (fld w 18 4) (fld w 14 4) (fld w 7 7) (fld w 0 7))
  | 13 =>
    .ok (.tanh (fld w 31 1) (fld w 18 4) (fld w 14 4) (fld w 7 7) (fld w 0 7))
  | 14 =>
    if fld w 0 7 = 0 then .ok (.rng (fld w 31 1) (fld w 18 4) (fld w 14 4) (fld w 7 7))
    else .error .reservedBits
  | _ => .error .unassigned

/-- Class 0xE (R24, R32): the C bit of a prefix is 0. -/
noncomputable def decodeClassE (w : BitVec 32) : Except DecodeError Instr :=
  if fld w 31 1 = 0 then
    .ok (.pfx (fld w 26 1) (fld w 23 3) (fld w 20 3) (fld w 19 1) (fld w 12 7) (fld w 11 1) (fld w 0 11))
  else .error .reservedBits

/-- The decoder: total on every 32-bit word (R32, R34). -/
noncomputable def decode (w : BitVec 32) : Except DecodeError Instr :=
  match (fld w 27 4).toNat with
  | 0 => decodeClass0 w
  | 1 => decodeClass1 w
  | 2 => decodeClass2 w
  | 3 => decodeClass3 w
  | 4 => decodeClass4 w
  | 5 => decodeClass5 w
  | 6 => decodeClass6 w
  | 7 => decodeClass7 w
  | 8 => decodeClass8 w
  | 9 => decodeClass9 w
  | 10 => decodeClassA w
  | 11 => decodeClassB w
  | 12 => decodeClassC w
  | 13 => decodeClassD w
  | 14 => decodeClassE w
  | _ => .error .unassigned

/-- The word of an instruction; the events have none (R21, R32). -/
def encode : Instr → Option (BitVec 32)
  | .iadd c h d a b => some (c ++ 0#9 ++ h ++ d ++ a ++ b)
  | .isub c h d a b => some (c ++ 1#9 ++ h ++ d ++ a ++ b)
  | .imul c h d a b => some (c ++ 2#9 ++ h ++ d ++ a ++ b)
  | .imulhiS c h d a b => some (c ++ 3#9 ++ h ++ d ++ a ++ b)
  | .imulhiN c h d a b => some (c ++ 4#9 ++ h ++ d ++ a ++ b)
  | .imad c h d a b => some (c ++ 5#9 ++ h ++ d ++ a ++ b)
  | .iaddsS c h d a b => some (c ++ 6#9 ++ h ++ d ++ a ++ b)
  | .iaddsN c h d a b => some (c ++ 7#9 ++ h ++ d ++ a ++ b)
  | .isubsS c h d a b => some (c ++ 8#9 ++ h ++ d ++ a ++ b)
  | .isubsN c h d a b => some (c ++ 9#9 ++ h ++ d ++ a ++ b)
  | .iminS c h d a b => some (c ++ 10#9 ++ h ++ d ++ a ++ b)
  | .iminN c h d a b => some (c ++ 11#9 ++ h ++ d ++ a ++ b)
  | .imaxS c h d a b => some (c ++ 12#9 ++ h ++ d ++ a ++ b)
  | .imaxN c h d a b => some (c ++ 13#9 ++ h ++ d ++ a ++ b)
  | .vand c h d a b => some (c ++ 14#9 ++ h ++ d ++ a ++ b)
  | .vor c h d a b => some (c ++ 15#9 ++ h ++ d ++ a ++ b)
  | .vxor c h d a b => some (c ++ 16#9 ++ h ++ d ++ a ++ b)
  | .andn c h d a b => some (c ++ 17#9 ++ h ++ d ++ a ++ b)
  | .shl c h d a b => some (c ++ 18#9 ++ h ++ d ++ a ++ b)
  | .shr c h d a b => some (c ++ 19#9 ++ h ++ d ++ a ++ b)
  | .sar c h d a b => some (c ++ 20#9 ++ h ++ d ++ a ++ b)
  | .rot c h d a b => some (c ++ 21#9 ++ h ++ d ++ a ++ b)
  | .bfe c h d a b => some (c ++ 22#9 ++ h ++ d ++ a ++ b)
  | .bfi c h d a b => some (c ++ 23#9 ++ h ++ d ++ a ++ b)
  | .bitopPopc c h d a => some (c ++ 24#9 ++ h ++ d ++ a ++ 0#7)
  | .bitopClz c h d a => some (c ++ 24#9 ++ h ++ d ++ a ++ 1#7)
  | .bitopCtz c h d a => some (c ++ 24#9 ++ h ++ d ++ a ++ 2#7)
  | .bitopBrev c h d a => some (c ++ 24#9 ++ h ++ d ++ a ++ 3#7)
  | .bitopNot c h d a => some (c ++ 24#9 ++ h ++ d ++ a ++ 4#7)
  | .icmp c h k a b => some (c ++ 25#9 ++ h ++ 0#3 ++ k ++ a ++ b)
  | .sel c h d a b => some (c ++ 26#9 ++ h ++ d ++ a ++ b)
  | .mov c h d a => some (c ++ 27#9 ++ h ++ d ++ a ++ 0#7)
  | .prmt c h d a b => some (c ++ 28#9 ++ h ++ d ++ a ++ b)
  | .iadd64 c h d a b => some (c ++ 29#9 ++ h ++ d ++ a ++ b)
  | .isub64 c h d a b => some (c ++ 30#9 ++ h ++ d ++ a ++ b)
  | .lea c h d a b => some (c ++ 31#9 ++ h ++ d ++ a ++ b)
  | .fadd c h d a b => some (c ++ 32#9 ++ h ++ d ++ a ++ b)
  | .fsub c h d a b => some (c ++ 33#9 ++ h ++ d ++ a ++ b)
  | .fmul c h d a b => some (c ++ 34#9 ++ h ++ d ++ a ++ b)
  | .ffma c h d a b => some (c ++ 35#9 ++ h ++ d ++ a ++ b)
  | .ffms c h d a b => some (c ++ 36#9 ++ h ++ d ++ a ++ b)
  | .fnma c h d a b => some (c ++ 37#9 ++ h ++ d ++ a ++ b)
  | .fmin c h d a b => some (c ++ 38#9 ++ h ++ d ++ a ++ b)
  | .fminn c h d a b => some (c ++ 39#9 ++ h ++ d ++ a ++ b)
  | .fmax c h d a b => some (c ++ 40#9 ++ h ++ d ++ a ++ b)
  | .fmaxn c h d a b => some (c ++ 41#9 ++ h ++ d ++ a ++ b)
  | .fcmp c h k a b => some (c ++ 42#9 ++ h ++ 0#3 ++ k ++ a ++ b)
  | .fclass c h d a => some (c ++ 43#9 ++ h ++ d ++ a ++ 0#7)
  | .fcpsgn c h d a b => some (c ++ 44#9 ++ h ++ d ++ a ++ b)
  | .frnd c h d a => some (c ++ 45#9 ++ h ++ d ++ a ++ 0#7)
  | .ffract c h d a => some (c ++ 46#9 ++ h ++ d ++ a ++ 0#7)
  | .fsat c h d a => some (c ++ 47#9 ++ h ++ d ++ a ++ 0#7)
  | .flerp c h d a b => some (c ++ 48#9 ++ h ++ d ++ a ++ b)
  | .fmed3 c h d a b => some (c ++ 49#9 ++ h ++ d ++ a ++ b)
  | .hadd2 c h d a b => some (c ++ 50#9 ++ h ++ d ++ a ++ b)
  | .hmul2 c h d a b => some (c ++ 51#9 ++ h ++ d ++ a ++ b)
  | .hfma2 c h d a b => some (c ++ 52#9 ++ h ++ d ++ a ++ b)
  | .badd2 c h d a b => some (c ++ 53#9 ++ h ++ d ++ a ++ b)
  | .bmul2 c h d a b => some (c ++ 54#9 ++ h ++ d ++ a ++ b)
  | .bfma2 c h d a b => some (c ++ 55#9 ++ h ++ d ++ a ++ b)
  | .fdot2h c h d a b => some (c ++ 56#9 ++ h ++ d ++ a ++ b)
  | .fdot2b c h d a b => some (c ++ 57#9 ++ h ++ d ++ a ++ b)
  | .iaddi c d a i => some (c ++ 64#9 ++ d ++ a ++ i)
  | .imuli c d a i => some (c ++ 65#9 ++ d ++ a ++ i)
  | .andi c d a i => some (c ++ 66#9 ++ d ++ a ++ i)
  | .ori c d a i => some (c ++ 67#9 ++ d ++ a ++ i)
  | .xori c d a i => some (c ++ 68#9 ++ d ++ a ++ i)
  | .shli c d a i => some (c ++ 69#9 ++ d ++ a ++ i)
  | .shri c d a i => some (c ++ 70#9 ++ d ++ a ++ i)
  | .sari c d a i => some (c ++ 71#9 ++ d ++ a ++ i)
  | .icmpi c k a i => some (c ++ 576#12 ++ k ++ a ++ i)
  | .movi c d i => some (c ++ 73#9 ++ d ++ 0#7 ++ i)
  | .laneidx c d a i => some (c ++ 74#9 ++ d ++ a ++ i)
  | .fmuli c d a i => some (c ++ 75#9 ++ d ++ a ++ i)
  | .faddi c d a i => some (c ++ 76#9 ++ d ++ a ++ i)
  | .iminiS c d a i => some (c ++ 77#9 ++ d ++ a ++ i)
  | .imaxiS c d a i => some (c ++ 78#9 ++ d ++ a ++ i)
  | .wadd c d a b => some (c ++ 96#9 ++ d ++ a ++ b)
  | .wsub c d a b => some (c ++ 97#9 ++ d ++ a ++ b)
  | .wmul c d a b => some (c ++ 98#9 ++ d ++ a ++ b)
  | .wand c d a b => some (c ++ 99#9 ++ d ++ a ++ b)
  | .wor c d a b => some (c ++ 100#9 ++ d ++ a ++ b)
  | .wxor c d a b => some (c ++ 101#9 ++ d ++ a ++ b)
  | .wshl c d a b => some (c ++ 102#9 ++ d ++ a ++ b)
  | .wshr c d a b => some (c ++ 103#9 ++ d ++ a ++ b)
  | .wsar c d a b => some (c ++ 104#9 ++ d ++ a ++ b)
  | .wcmp c k a b => some (c ++ 1680#13 ++ k ++ a ++ b)
  | .wsel c d a b => some (c ++ 106#9 ++ d ++ a ++ b)
  | .wmov c d a => some (c ++ 107#9 ++ d ++ a ++ 0#6)
  | .wli c d i => some (c ++ 108#9 ++ d ++ i)
  | .wlih c d i => some (c ++ 109#9 ++ d ++ i)
  | .wadd64 c d a b => some (c ++ 110#9 ++ d ++ a ++ b)
  | .wtov c d a => some (c ++ 222#10 ++ d ++ a ++ 0#6)
  | .vtow c d a b => some (c ++ 112#9 ++ d ++ 0#1 ++ a ++ b)
  | .waddi c d a i => some (c ++ 113#9 ++ d ++ a ++ i)
  | .wmin c d a b => some (c ++ 114#9 ++ d ++ a ++ b)
  | .wmax c d a b => some (c ++ 115#9 ++ d ++ a ++ b)
  | .shflIdx c h d a b => some (c ++ 128#9 ++ h ++ d ++ a ++ b)
  | .shflUp c h d a b => some (c ++ 129#9 ++ h ++ d ++ a ++ b)
  | .shflDn c h d a b => some (c ++ 130#9 ++ h ++ d ++ a ++ b)
  | .shflXor c h d a b => some (c ++ 131#9 ++ h ++ d ++ a ++ b)
  | .voteAny c h d a => some (c ++ 132#9 ++ h ++ d ++ a ++ 0#7)
  | .voteAll c h d a => some (c ++ 133#9 ++ h ++ d ++ a ++ 0#7)
  | .ballot c h d a => some (c ++ 134#9 ++ h ++ 0#4 ++ d ++ a ++ 0#7)
  | .matchLanes c h d a => some (c ++ 135#9 ++ h ++ d ++ a ++ 0#7)
  | .redAdd c h d a b => some (c ++ 136#9 ++ h ++ d ++ a ++ b)
  | .redMinS c h d a b => some (c ++ 137#9 ++ h ++ d ++ a ++ b)
  | .redMinN c h d a b => some (c ++ 138#9 ++ h ++ d ++ a ++ b)
  | .redMaxS c h d a b => some (c ++ 139#9 ++ h ++ d ++ a ++ b)
  | .redMaxN c h d a b => some (c ++ 140#9 ++ h ++ d ++ a ++ b)
  | .redAnd c h d a b => some (c ++ 141#9 ++ h ++ d ++ a ++ b)
  | .redOr c h d a b => some (c ++ 142#9 ++ h ++ d ++ a ++ b)
  | .redFadd c h d a b => some (c ++ 143#9 ++ h ++ d ++ a ++ b)
  | .scanAdd c h d a b => some (c ++ 144#9 ++ h ++ d ++ a ++ b)
  | .scanFadd c h d a b => some (c ++ 145#9 ++ h ++ d ++ a ++ b)
  | .mand c h d a b => some (c ++ 146#9 ++ h ++ 0#4 ++ d ++ 0#4 ++ a ++ 0#4 ++ b)
  | .mor c h d a b => some (c ++ 147#9 ++ h ++ 0#4 ++ d ++ 0#4 ++ a ++ 0#4 ++ b)
  | .mxor c h d a b => some (c ++ 148#9 ++ h ++ 0#4 ++ d ++ 0#4 ++ a ++ 0#4 ++ b)
  | .mandn c h d a b => some (c ++ 149#9 ++ h ++ 0#4 ++ d ++ 0#4 ++ a ++ 0#4 ++ b)
  | .mmov c h d a => some (c ++ 150#9 ++ h ++ 0#4 ++ d ++ 0#4 ++ a ++ 0#7)
  | .mpopc c h d a => some (c ++ 151#9 ++ h ++ d ++ 0#4 ++ a ++ 0#7)
  | .mpopcRank c h d a => some (c ++ 151#9 ++ h ++ d ++ 0#4 ++ a ++ 1#7)
  | .mfirst c h d a => some (c ++ 152#9 ++ h ++ d ++ 0#4 ++ a ++ 0#7)
  | .mtov c h d a => some (c ++ 153#9 ++ h ++ d ++ 0#4 ++ a ++ 0#7)
  | .vtom c h d a b => some (c ++ 154#9 ++ h ++ 0#4 ++ d ++ a ++ 0#2 ++ b)
  | .elect c h d => some (c ++ 155#9 ++ h ++ 0#4 ++ d ++ 0#14)
  | .issuem c h d => some (c ++ 156#9 ++ h ++ 0#4 ++ d ++ 0#14)
  | .bra c o => some (c ++ 2560#13 ++ o)
  | .brc c n k o => some (c ++ 161#9 ++ n ++ k ++ o)
  | .brw c n o => some (c ++ 162#9 ++ n ++ 0#3 ++ o)
  | .call c o => some (c ++ 2608#13 ++ o)
  | .bri c h a => some (c ++ 164#9 ++ h ++ 0#7 ++ a ++ 0#7)
  | .calli c h d a => some (c ++ 165#9 ++ h ++ d ++ a ++ 0#7)
  | .ret c h a => some (c ++ 166#9 ++ h ++ 0#7 ++ a ++ 0#7)
  | .split c h d => some (c ++ 167#9 ++ h ++ 0#4 ++ d ++ 0#14)
  | .join c h d => some (c ++ 168#9 ++ h ++ 0#4 ++ d ++ 0#14)
  | .exit c h => some (c ++ 169#9 ++ h ++ 0#21)
  | .endAll c h => some (c ++ 170#9 ++ h ++ 0#21)
  | .loopw c w o => some (c ++ 171#9 ++ w ++ o)
  | .ldB8 c l d v w => some (c ++ 192#9 ++ l ++ d ++ v ++ w)
  | .ldS8 c l d v w => some (c ++ 193#9 ++ l ++ d ++ v ++ w)
  | .ldB16 c l d v w => some (c ++ 194#9 ++ l ++ d ++ v ++ w)
  | .ldS16 c l d v w => some (c ++ 195#9 ++ l ++ d ++ v ++ w)
  | .ldB32 c l d v w => some (c ++ 196#9 ++ l ++ d ++ v ++ w)
  | .ldB64 c l d v w => some (c ++ 197#9 ++ l ++ d ++ v ++ w)
  | .ldB128 c l d v w => some (c ++ 198#9 ++ l ++ d ++ v ++ w)
  | .stB8 c l d v w => some (c ++ 199#9 ++ l ++ d ++ v ++ w)
  | .stB16 c l d v w => some (c ++ 200#9 ++ l ++ d ++ v ++ w)
  | .stB32 c l d v w => some (c ++ 201#9 ++ l ++ d ++ v ++ w)
  | .stB64 c l d v w => some (c ++ 202#9 ++ l ++ d ++ v ++ w)
  | .stB128 c l d v w => some (c ++ 203#9 ++ l ++ d ++ v ++ w)
  | .ldsB32 c l d v w => some (c ++ 204#9 ++ l ++ d ++ v ++ w)
  | .ldsB64 c l d v w => some (c ++ 205#9 ++ l ++ d ++ v ++ w)
  | .ldsB128 c l d v w => some (c ++ 206#9 ++ l ++ d ++ v ++ w)
  | .stsB32 c l d v w => some (c ++ 207#9 ++ l ++ d ++ v ++ w)
  | .stsB64 c l d v w => some (c ++ 208#9 ++ l ++ d ++ v ++ w)
  | .stsB128 c l d v w => some (c ++ 209#9 ++ l ++ d ++ v ++ w)
  | .ldw c l d v w => some (c ++ 210#9 ++ l ++ d ++ v ++ w)
  | .pref c l d v w => some (c ++ 211#9 ++ l ++ 0#6 ++ d ++ v ++ w)
  | .atomAdd32 c l d v w => some (c ++ 224#9 ++ l ++ d ++ v ++ w)
  | .atomAdd64 c l d v w => some (c ++ 240#9 ++ l ++ d ++ v ++ w)
  | .atomSub32 c l d v w => some (c ++ 225#9 ++ l ++ d ++ v ++ w)
  | .atomSub64 c l d v w => some (c ++ 241#9 ++ l ++ d ++ v ++ w)
  | .atomMinS32 c l d v w => some (c ++ 226#9 ++ l ++ d ++ v ++ w)
  | .atomMinS64 c l d v w => some (c ++ 242#9 ++ l ++ d ++ v ++ w)
  | .atomMinN32 c l d v w => some (c ++ 227#9 ++ l ++ d ++ v ++ w)
  | .atomMinN64 c l d v w => some (c ++ 243#9 ++ l ++ d ++ v ++ w)
  | .atomMaxS32 c l d v w => some (c ++ 228#9 ++ l ++ d ++ v ++ w)
  | .atomMaxS64 c l d v w => some (c ++ 244#9 ++ l ++ d ++ v ++ w)
  | .atomMaxN32 c l d v w => some (c ++ 229#9 ++ l ++ d ++ v ++ w)
  | .atomMaxN64 c l d v w => some (c ++ 245#9 ++ l ++ d ++ v ++ w)
  | .atomAnd32 c l d v w => some (c ++ 230#9 ++ l ++ d ++ v ++ w)
  | .atomAnd64 c l d v w => some (c ++ 246#9 ++ l ++ d ++ v ++ w)
  | .atomOr32 c l d v w => some (c ++ 231#9 ++ l ++ d ++ v ++ w)
  | .atomOr64 c l d v w => some (c ++ 247#9 ++ l ++ d ++ v ++ w)
  | .atomXor32 c l d v w => some (c ++ 232#9 ++ l ++ d ++ v ++ w)
  | .atomXor64 c l d v w => some (c ++ 248#9 ++ l ++ d ++ v ++ w)
  | .atomExch32 c l d v w => some (c ++ 233#9 ++ l ++ d ++ v ++ w)
  | .atomExch64 c l d v w => some (c ++ 249#9 ++ l ++ d ++ v ++ w)
  | .atomCas32 c l d v w => some (c ++ 234#9 ++ l ++ d ++ v ++ w)
  | .atomCas64 c l d v w => some (c ++ 250#9 ++ l ++ d ++ v ++ w)
  | .atomInc32 c l d v w => some (c ++ 235#9 ++ l ++ d ++ v ++ w)
  | .atomInc64 c l d v w => some (c ++ 251#9 ++ l ++ d ++ v ++ w)
  | .atomDec32 c l d v w => some (c ++ 236#9 ++ l ++ d ++ v ++ w)
  | .atomDec64 c l d v w => some (c ++ 252#9 ++ l ++ d ++ v ++ w)
  | .atomFaddF32 c l d v w => some (c ++ 237#9 ++ l ++ d ++ v ++ w)
  | .atomFadd2Bf16 c l d v w => some (c ++ 238#9 ++ l ++ d ++ v ++ w)
  | .mma c l s g x y => some (c ++ 128#8 ++ l ++ s ++ g ++ x ++ y)
  | .mman c l s g x y => some (c ++ 129#8 ++ l ++ s ++ g ++ x ++ y)
  | .mmas c l g x y => some (c ++ 130#8 ++ l ++ 0#3 ++ g ++ x ++ y)
  | .mmaz c l s g x y => some (c ++ 131#8 ++ l ++ s ++ g ++ x ++ y)
  | .aclr c l s g => some (c ++ 132#8 ++ l ++ 0#2 ++ s ++ g ++ 0#11)
  | .aanc c l s g x => some (c ++ 133#8 ++ l ++ 0#2 ++ s ++ g ++ x)
  | .ares c l s g f y => some (c ++ 134#8 ++ l ++ 0#2 ++ s ++ g ++ 0#1 ++ f ++ y)
  | .acmp c l k s g x y => some (c ++ 135#8 ++ l ++ k ++ s ++ g ++ x ++ y)
  | .adrainRaw c l s g x => some (c ++ 136#8 ++ l ++ 0#2 ++ s ++ g ++ x ++ 0#6)
  | .adrainValue c l s g x f => some (c ++ 136#8 ++ l ++ 1#2 ++ s ++ g ++ x ++ 0#2 ++ f)
  | .adrainAdd c l s g x => some (c ++ 136#8 ++ l ++ 2#2 ++ s ++ g ++ x ++ 0#6)
  | .adrainValueAdd c l s g x f => some (c ++ 136#8 ++ l ++ 3#2 ++ s ++ g ++ x ++ 0#2 ++ f)
  | .aloadRaw c l s g x => some (c ++ 137#8 ++ l ++ 0#2 ++ s ++ g ++ x ++ 0#6)
  | .aloadValue c l s g x f => some (c ++ 137#8 ++ l ++ 1#2 ++ s ++ g ++ x ++ 0#2 ++ f)
  | .scld c l s e y => some (c ++ 138#8 ++ l ++ s ++ e ++ y)
  | .mfmt c l i => some (c ++ 139#8 ++ l ++ 0#9 ++ i)
  | .tmma c l t y => some (c ++ 140#8 ++ l ++ 0#6 ++ t ++ 0#5 ++ y)
  | .twait c l t => some (c ++ 141#8 ++ l ++ 0#6 ++ t ++ 0#11)
  | .twaitOc c l t => some (c ++ 141#8 ++ l ++ 8#6 ++ t ++ 0#11)
  | .acanon c l s g => some (c ++ 142#8 ++ l ++ 0#2 ++ s ++ g ++ 0#11)
  | .amov c l s g x => some (c ++ 143#8 ++ l ++ 0#1 ++ s ++ g ++ x ++ 0#6)
  | .edge c l g x y => some (c ++ 144#8 ++ l ++ 0#3 ++ g ++ x ++ y)
  | .bary c l x y => some (c ++ 145#8 ++ l ++ 0#8 ++ x ++ y)
  | .covpk c l g x y => some (c ++ 146#8 ++ l ++ 0#3 ++ g ++ x ++ y)
  | .texg c l g x y => some (c ++ 147#8 ++ l ++ 0#4 ++ g ++ x ++ y)
  | .filt c l s g x y => some (c ++ 148#8 ++ l ++ s ++ g ++ x ++ y)
  | .blnd c l g x y => some (c ++ 149#8 ++ l ++ 0#3 ++ g ++ x ++ y)
  | .cpack c l g x y => some (c ++ 150#8 ++ l ++ 0#3 ++ g ++ x ++ 0#2 ++ y)
  | .cunpk c l x y => some (c ++ 151#8 ++ l ++ 0#8 ++ x ++ 0#2 ++ y)
  | .meshemit c l s g => some (c ++ 152#8 ++ l ++ 0#2 ++ s ++ g ++ 0#11)
  | .binnext c l g y => some (c ++ 153#8 ++ l ++ 0#3 ++ g ++ 0#5 ++ y)
  | .bararr c e b z => some (c ++ 320#9 ++ e ++ 0#7 ++ b ++ z)
  | .barwait c e b z => some (c ++ 321#9 ++ e ++ 0#7 ++ b ++ z)
  | .barsync c e b z => some (c ++ 322#9 ++ e ++ 0#7 ++ b ++ z)
  | .barexp c e a b z => some (c ++ 323#9 ++ e ++ a ++ b ++ z)
  | .ordenter c a b z => some (c ++ 2592#12 ++ a ++ b ++ z)
  | .ordleave c a z => some (c ++ 2600#12 ++ a ++ 0#7 ++ z)
  | .ordskip c a b z => some (c ++ 2608#12 ++ a ++ b ++ z)
  | .ordtest c a b z => some (c ++ 2616#12 ++ a ++ b ++ z)
  | .seqnext c a z => some (c ++ 2624#12 ++ a ++ 0#7 ++ z)
  | .put c e a z => some (c ++ 329#9 ++ e ++ a ++ 0#7 ++ z)
  | .putw c e a b z => some (c ++ 330#9 ++ e ++ a ++ b ++ z)
  | .cwait c e a z => some (c ++ 331#9 ++ e ++ a ++ 0#7 ++ z)
  | .fenceAcq c e => some (c ++ 332#9 ++ e ++ 1#19)
  | .fenceRel c e => some (c ++ 332#9 ++ e ++ 2#19)
  | .fenceAr c e => some (c ++ 332#9 ++ e ++ 3#19)
  | .fenceSc c e => some (c ++ 332#9 ++ e ++ 7#19)
  | .scwait c => some (c ++ 1396703232#31)
  | .qacq c l d q => some (c ++ 352#9 ++ l ++ d ++ 0#11 ++ q)
  | .qrel c l a q => some (c ++ 353#9 ++ l ++ 0#4 ++ a ++ 0#7 ++ q)
  | .qpacq c l d q => some (c ++ 354#9 ++ l ++ d ++ 0#11 ++ q)
  | .qpcommit c l a q => some (c ++ 355#9 ++ l ++ 0#4 ++ a ++ 0#7 ++ q)
  | .tcopy c l d => some (c ++ 356#9 ++ l ++ d ++ 0#14)
  | .tstore c l d => some (c ++ 357#9 ++ l ++ d ++ 0#14)
  | .apstart c l p a => some (c ++ 358#9 ++ l ++ 0#2 ++ p ++ a ++ 0#10)
  | .apstop c l p => some (c ++ 359#9 ++ l ++ 0#2 ++ p ++ 0#14)
  | .xli c d i => some (c ++ 5760#13 ++ d ++ 0#4 ++ i)
  | .xlih c d i => some (c ++ 5776#13 ++ d ++ 0#4 ++ i)
  | .xadd c d a i => some (c ++ 5792#13 ++ d ++ a ++ i)
  | .xmad c d a i => some (c ++ 5808#13 ++ d ++ a ++ i)
  | .xloop c k o => some (c ++ 23296#15 ++ k ++ 0#4 ++ o)
  | .xloopSet c k a => some (c ++ 23297#15 ++ k ++ a ++ 0#10)
  | .xfetch c a g q => some (c ++ 93440#17 ++ a ++ g ++ q)
  | .xstore c a g q => some (c ++ 93696#17 ++ a ++ g ++ q)
  | .xsigFill c q => some (c ++ 192413696#28 ++ q)
  | .xsigFree c q => some (c ++ 192413697#28 ++ q)
  | .xend c => some (c ++ 1543503872#31)
  | .nop c => some (c ++ 1610612736#31)
  | .sysrd c p m => some (c ++ 385#9 ++ p ++ m)
  | .syswr c p m => some (c ++ 386#9 ++ p ++ m)
  | .trap c m => some (c ++ 99072#17 ++ m)
  | .trapret c p => some (c ++ 24832#15 ++ p ++ 0#14)
  | .frsave c p => some (c ++ 6224#13 ++ p ++ 0#14)
  | .frload c p => some (c ++ 6240#13 ++ p ++ 0#14)
  | .region c p m => some (c ++ 391#9 ++ p ++ 0#5 ++ m)
  | .reggrowTry c m => some (c ++ 100352#17 ++ m)
  | .reggrowWait c m => some (c ++ 100353#17 ++ m)
  | .regshrink c m => some (c ++ 100608#17 ++ m)
  | .vfree c p m => some (c ++ 788#10 ++ p ++ 0#7 ++ m)
  | .query c p m => some (c ++ 395#9 ++ p ++ m)
  | .launch c p m => some (c ++ 396#9 ++ p ++ m)
  | .bkpt c m => some (c ++ 101632#17 ++ m)
  | .waitev c m => some (c ++ 26083328#25 ++ m)
  | .perfrd c p m => some (c ++ 399#9 ++ p ++ m)
  | .rngseed c p => some (c ++ 800#10 ++ p ++ 0#14)
  | .modesetWrite c m => some (c ++ 102656#17 ++ m)
  | .modesetOr c m => some (c ++ 102657#17 ++ m)
  | .modesetAndn c m => some (c ++ 102658#17 ++ m)
  | .modesetTen c m => some (c ++ 26280704#25 ++ m)
  | .tinfo c p m => some (c ++ 804#10 ++ p ++ 0#10 ++ m)
  | .cvtf c l s d a => some (c ++ 416#9 ++ l ++ s ++ d ++ a)
  | .cvtfi c l s d a => some (c ++ 417#9 ++ l ++ s ++ d ++ a)
  | .cvtif c l s d a => some (c ++ 418#9 ++ l ++ s ++ d ++ a)
  | .pack2 c l s d a => some (c ++ 419#9 ++ l ++ s ++ d ++ a)
  | .pack4 c l s d a => some (c ++ 420#9 ++ l ++ s ++ d ++ a)
  | .unpk c l s d a => some (c ++ 421#9 ++ l ++ s ++ d ++ a)
  | .rcp c l s d a => some (c ++ 422#9 ++ l ++ s ++ d ++ a)
  | .rsq c l s d a => some (c ++ 423#9 ++ l ++ s ++ d ++ a)
  | .sqrt c l s d a => some (c ++ 424#9 ++ l ++ s ++ d ++ a)
  | .exp2 c l s d a => some (c ++ 425#9 ++ l ++ s ++ d ++ a)
  | .log2 c l s d a => some (c ++ 426#9 ++ l ++ s ++ d ++ a)
  | .sinp c l s d a => some (c ++ 427#9 ++ l ++ s ++ d ++ a)
  | .cosp c l s d a => some (c ++ 428#9 ++ l ++ s ++ d ++ a)
  | .tanh c l s d a => some (c ++ 429#9 ++ l ++ s ++ d ++ a)
  | .rng c l s d => some (c ++ 430#9 ++ l ++ s ++ d ++ 0#7)
  | .pfx m k r z q w x => some (14#5 ++ m ++ k ++ r ++ z ++ q ++ w ++ x)
  | .illegalInstruction => none
  | .instructionFetchFault => none
  | .rejoinRelease _ _ => none
  | .longLatencyCompletion _ => none
  | .storeAcknowledgement _ => none
  | .homeAtomic _ => none
  | .homeRawMerge _ => none
  | .homeValueAdd _ => none
  | .trapEntry _ => none
  | .reggrowWaitGrant _ => none
  | .reggrowEviction _ => none
  | .evictedWarpReadmission _ => none
  | .warpEnd _ => none
  | .barrierRelease _ _ _ => none
  | .peerBarrierMessage _ _ _ => none
  | .ordRequestAtHome _ => none
  | .ordLeaveAtHome _ => none
  | .ordGrant _ => none
  | .quietIntervalEnd _ => none
  | .putArrival _ => none
  | .ringReconfigure _ _ => none
  | .copySlotAcquire _ => none
  | .copyBytesLand _ => none
  | .flintRequestResume _ _ => none
  | .tmmaKstep _ _ => none
  | .classifyMeshlet _ => none
  | .shaleBatchHandout _ => none
  | .stageStart _ _ => none
  | .stageCompletion _ _ => none
  | .queueDoorbell _ _ => none
  | .run _ => none
  | .event _ => none
  | .domalloc _ => none
  | .domfree _ => none
  | .abort _ => none
  | .qctlWrite _ _ => none
  | .residencyWalk _ => none
  | .gangPlacement _ => none
  | .preemption _ => none
  | .drainApproachExpiry _ => none
  | .saveBlockStore _ _ => none
  | .sliceExpiry _ _ => none
  | .fenceWaitPoll _ => none
  | .launchCompletion _ => none
  | .gangIndexMirror _ => none
  | .launchNodeCopyDone _ => none
  | .dieFailure _ => none
  | .dieFailureGraceEnd _ => none
  | .iqDoorbell _ => none
  | .inval => none
  | .retry => none
  | .refuse => none
  | .sync => none
  | .invalCompletion => none
  | .iqctlWrite _ => none
  | .atctlWrite _ => none
  | .ordovfctlWrite _ => none
  | .pwrcapWrite _ => none
  | .cxlClearIsolation _ => none
  | .registerWrite _ _ => none
  | .systemAgentAccess _ _ _ => none
  | .flitReceive _ _ => none
  | .storageError _ _ _ => none
  | .errorWindowEnd _ => none
  | .accessTimeout _ => none
  | .cxlReadTimeout _ => none
  | .peerPortDown _ => none
  | .linkUp _ _ => none
  | .coldReset => none
  | .gneissImageLoad _ => none
  | .serviceFirmwareLoad _ => none
  | .attestationRequest _ => none
  | .thermalTrip => none
  | .debugResume _ => none
  | .flintIllegalInstruction _ _ => none
  | .flintCodeFetchFault _ _ => none
  | .rqctlWrite _ => none
  | .elctlWrite _ => none

/-- The instruction whose bits are `w` (bit 0 the least significant bit of the first word), as this decoder reads
it. A row has one word; a longer instruction is a prefix and its base word, which are two rows. -/
noncomputable def decodeTableWord (nbits w : Nat) : Option Instr :=
  if nbits ≤ 32 then
    match decode (BitVec.ofNat 32 w) with
    | .ok i => some i
    | .error _ => none
  else none

end Sys2Proof
end

