-- ==== Sys2Proof/Machine/State.lean ====
section
/-! DEFINITION. The state of the device as plain data, its reset value, and the reasons to stop.

Maps keyed by a number are lists of pairs in rising order of the number; an absent number reads as the default that
the accessor names (Machine/Maps.lean). Launches, gangs, workgroups and warps are keyed by names the model gives them. -/

namespace Sys2Proof.Machine

/-- A finite map from numbers, as pairs in rising order of the key. -/
abbrev AMap (α : Type) := List (Nat × α)

/-! ## Registers and accumulator elements -/

/-- A vector register with its shape tag: V, U, A with base and stride, or G with 32 values (R256). -/
inductive VReg
  | v
  | u (x : Word)
  | a (base stride : Word)
  | g (xs : List Word)
  deriving DecidableEq, Repr

/-- An accumulator element, field by field (R85). -/
structure Ace where
  s : BitVec 80
  c : BitVec 80
  anc : BitVec 12
  an : Bool
  st : Bool
  ovf : Bool
  int : Bool
  nan : Bool
  pinf : Bool
  ninf : Bool
  pois : Bool
  ra : Bool
  deriving DecidableEq, Repr

/-! ## Lanes and warps -/

/-- R43. -/
inductive LaneStatus | run | join | hold | done
  deriving DecidableEq, Repr

/-- What the fault record of a lane will hold (R410, R411). -/
structure TrapRec where
  kind : Nat
  cause : Nat := 0
  flags : Flags := 0
  len2 : Bool := false
  after : Bool := false
  async : Bool := false
  widx : Word := 0
  word : Word := 0
  pfx : Word := 0
  addr : DWord := 0
  arg1 : Word := 0
  arg2 : Word := 0
  deriving DecidableEq, Repr

/-- R413: IN with its entry and live-ins, and what REGION recorded; `inside = false` is OUT. -/
structure RegionState where
  inside : Bool := false
  entry : Nat := 0
  nv : Nat := 0
  ns : Nat := 0
  gen : DWord := 0
  helper : Bool := false
  deriving DecidableEq, Repr

/-- A section held by a lane: the launch's domain number, the key and the held number (R228, R426). -/
structure Held where
  dom : Nat
  key : DWord
  s : Word
  deriving DecidableEq, Repr

/-- What names a barrier: of a workgroup, of a gang, or of the tree (R308). -/
inductive BarRef
  | wg (wg bar : Nat)
  | gang (launch gang bar : Nat)
  | tree (t : Nat)
  deriving DecidableEq, Repr

/-- What a lane in HOLD waits for (R43). `retry` is an instruction whose condition is tested again, in the order of
`seq`, with its words, and the uniform registers and the mask (from 384) that it read as it issued; the others end by an event of
their own. -/
inductive Wait
  | none
  | retry (seq : Nat) (word : Word) (pfx : Option Word) (kept : AMap Word)
  | barrier (b : BarRef) (phase : Word) (scope : Nat)
  | order (f : Nat)
  /-- REGGROW.WAIT: its issue, its rows and its word (R260) -/
  | grow (seq rows : Nat) (word : Word)
  /-- BINNEXT: its issue, the scratchpad address, the output register and the instruction's length (R221) -/
  | batch (seq sa dst len : Nat)
  deriving DecidableEq, Repr

/-- One lane (R42, R82, R384, R405 to R413). -/
structure Lane where
  pc : Nat := 0
  status : LaneStatus := .done
  joinTarget : Nat := 0
  passed : Nat := 0
  gen : DWord := 0
  helper : Bool := false
  region : RegionState := {}
  held : List Held := []
  wait : Wait := .none
  /-- it waits, and the pending bits of what its instruction is still to write were cleared by a trap entry (R58) -/
  unpended : Bool := false
  trap : Option TrapRec := none
  /-- the fault record: its sixteen words, or none for a record of zeros -/
  record : List Word := []
  /-- the program counter and the length of the trapped instruction, recorded at entry (R409) -/
  trapPc : Nat := 0
  trapLen2 : Bool := false
  handler : Bool := false
  parked : Bool := false
  regionBefore : RegionState := {}
  /-- the BARSYNC, by its word index, whose arrival the lane has made and which it has not passed: it does not arrive again when that
  issues again (R225, R315, R418) -/
  sync : Option Nat := none
  /-- the phase in which the lane last arrived, for each barrier it arrived at (R225) -/
  arrived : List (BarRef × Word) := []
  deriving DecidableEq, Repr

/-- How far a warp is taken off its core (R417). -/
inductive Drain
  | none
  | approach
  | region
  | full
  deriving DecidableEq, Repr

/-- The rest of a chain that may still issue in the clock of its earlier words (R53, R55): the lanes that go on, their next
word, the pipes and the written registers of the words so far, and what was pending and which lanes had a closed window in that
clock (R56, R57). -/
structure Chain where
  set : Mask
  pc : Nat
  pipes : List Nat
  writes : List Nat
  busy : List Nat := []
  shut : Mask := 0
  deriving DecidableEq, Repr

/-- One warp (R42, R65, R256 to R262). -/
structure Warp where
  launch : Nat := 0
  gang : Nat := 0
  wg : Nat := 0
  index : Nat := 0
  core : Nat := 0
  slot : Nat := 0
  age : Nat := 0
  passCount : Nat := 0
  lanes : AMap Lane := []
  vregs : AMap VReg := []
  wregs : AMap Word := []
  masks : AMap Mask := []
  joins : AMap Mask := []
  mode : Word := 1
  wc : Word := 0
  mfmt : Word := 0
  tba : DWord := 0
  budget : Nat := 0
  handlerMode : Bool := false
  halted : Bool := false
  /-- R429: the issue set of the BKPT on which it halted -/
  haltSet : Mask := 0
  /-- R429: the debug port reports that its last resume was refused -/
  refused : Bool := false
  evicted : Bool := false
  ended : Bool := false
  resident : Bool := true
  drain : Drain := .none
  /-- the operand latch: register, its value in all lanes, and instructions left (R63) -/
  latch : List (Nat × List Word × Nat) := []
  /-- the row numbers of its G registers, for those that a record has shown (R253, R256) -/
  rowNums : AMap Nat := []
  chain : Option Chain := none
  /-- PERFRD counters 1, 2, 3 and 7 (R245) -/
  issued : DWord := 0
  cuts : DWord := 0
  violations : DWord := 0
  refusals : DWord := 0
  /-- R460: items with an uncorrectable error, until they are written: v registers by number, w registers from 128, masks
  from 384, rejoin masks from 392, the rest of the warp's state as 400 -/
  bad : List Nat := []
  deriving DecidableEq, Repr

/-! ## Accesses that are on their way -/

/-- A byte's place: a scratchpad byte of a workgroup, a byte of global memory, or nowhere, when a pinned page has no
translation (R402: reads are poisoned, writes dropped). A byte of global memory is a location by its virtual address (R285): `via` names
the address space and the page, and `pa` says where it is translated to; `via` is 0 for an access by physical address. -/
inductive Place
  | sp (wg off : Nat)
  | mem (pa : Nat) (via : Nat := 0)
  | gone
  deriving DecidableEq, Repr

/-- R288. -/
inductive OrdKind | strong | consistent | unordered
  deriving DecidableEq, Repr

/-- R317, R320: what tags an entry: a launch's private domain, or a shared domain. -/
inductive DomTag
  | priv (launch dom : Nat)
  | shared (n : Nat)
  deriving DecidableEq, Repr

/-- A copy command accepted by the engine (R239 to R241). -/
structure CopyCmd where
  store : Bool
  wg : Nat
  ring : Option Nat
  /-- the slot taken: its index and address; its commit is void after a reconfiguration (R267) -/
  slot : Option (Nat × Nat)
  void : Bool := false
  /-- it has made its first read, which is its acquire (R301) -/
  begun : Bool := false
  /-- the core, the slot, the ring and the side of the address program whose transfer it is (R271) -/
  flint : Option (Nat × Nat × Nat × Bool) := none
  sbase : Nat
  /-- elements still to move: global places, scratchpad offset from the start -/
  elems : List (List Place × Nat)
  /-- places it has written whose granule or expander line is still marked poisoned from before -/
  fresh : List Place := []
  /-- bytes of the whole command -/
  total : Nat
  acq : Bool
  rel : Bool
  scope : Nat
  /-- barrier and parity that landed bytes count against -/
  bar : Option (Nat × Nat)
  strong : Bool
  deriving DecidableEq, Repr

/-- What an access on its way is to do. -/
inductive FlightKind
  /-- a load of one lane (or LDW): places of its bytes, sign extension, first destination register -/
  | load (places : List Place) (size : Nat) (signed : Bool) (dst : Nat) (uniform : Bool)
  /-- a store: its parts that are single-copy atomic (R286, R291), and the bytes that it marks poisoned (R277) -/
  | store (parts : List (List (Place × Byte))) (bad : List Place)
  /-- an atomic: kind, width in bits, operands, destination of the old value -/
  | atomic (places : List Place) (op : Nat) (bits : Nat) (x y : DWord) (dst : Option Nat)
  /-- a raw merge of an element (R197) -/
  | rawMerge (places : List Place) (e : Ace)
  /-- a value add-on-store by resolve-format code (R198); `pois` as R277 -/
  | valueAdd (places : List Place) (code : Nat) (x : Word) (pois : Bool)
  /-- a put: target workgroup, the bytes still to land, the counter and the amount (R231 to R233) -/
  | put (target : Nat) (bytes : List (Nat × Byte)) (poison : List Nat) (counter amount : Nat)
  | copy (cmd : CopyCmd)
  /-- ORDENTER 0, ORDSKIP 1, ORDTEST 2 on its way to, or waiting at, the home (R228, R489) -/
  | ordReq (op : Nat) (tag : DomTag) (dom : Nat) (key : DWord) (s : Word) (state : Nat)
  /-- ORDLEAVE, or an abandonment (R229, R329) -/
  | ordLeave (tag : DomTag) (key : DWord) (s : Word) (abandon : Bool)
  /-- LAUNCH's copy: the pool's node and the descriptor's bytes (R367) -/
  | launchCopy (pool node : Nat) (desc : List Byte) (poison : Bool)
  /-- an ordering point without an access: of FENCE, or of the lanes of an ordered access that make none (R295, R298);
  `acquired`: the earlier reads have returned -/
  | fence (acquire release all sc acquired : Bool)
  /-- what is left of a release at gang or die scope whose write is performed at its home while writes that it covers are not: no
  agent in its scope observes the write yet (R296) -/
  | veil (places : List Place)
  deriving DecidableEq, Repr

/-- The bytes of a store of several parts. -/
def FlightKind.whole : FlightKind → List Place
  | .store ps _ => if ps.length ≤ 1 then [] else ps.flatten.map Prod.fst
  | _ => []

/-- One access on its way, with the instruction it comes from. -/
structure Flight where
  id : Nat
  warp : Nat
  wg : Nat
  lane : Nat
  set : Mask
  /-- the lanes it is an access of: one lane, or the issue set of an instruction that executes once per issue (R285) -/
  who : Mask := 0
  /-- what the lanes' accesses of one instruction share -/
  group : Nat := 0
  kind : FlightKind
  /-- lanes with an open lookahead window on it and the instructions left in it (R57) -/
  windows : List (Nat × Nat) := []
  pc : Nat := 0
  word : Word := 0
  pfx : Word := 0
  ea : DWord := 0
  acq : Bool := false
  rel : Bool := false
  scope : Nat := 5
  page : OrdKind := .consistent
  /-- R293: its place in the order of its core's stores, once the store is performed at its core -/
  coreAt : Option Nat := none
  /-- all bytes of a store of several parts, whose marks go with the last of them (R459) -/
  whole : List Place := []
  /-- a write of CPACK or CUNPK: the bytes of its tile, and the mode byte, that its launch may write (R386) -/
  image : List Place := []
  /-- counts in the warp's count of unacknowledged stores (R235) -/
  counted : Bool := false
  /-- the lane's values are dropped when they return (R153, R417) -/
  dropped : Bool := false
  /-- lanes of other issue sets of the warp that have acquired at warp scope after it: their releases cover it too (R295, R300) -/
  heirs : Mask := 0
  /-- a release at warp scope that covers it has been performed (R296) -/
  vouched : Bool := false
  /-- a write performed at a stage ahead of what a release at gang or die scope covers, or such a fence that is half done: that scope;
  else 0 (R296, R298) -/
  soft : Nat := 0
  deriving DecidableEq, Repr

/-! ## Workgroups, gangs, cores -/

/-- R236: states of ring slots. -/
inductive SlotState | free | producing | filled | consuming
  deriving DecidableEq, Repr

/-- The slot states of one ring and the slots marked released or committed out of order (R237, R238). -/
structure Ring where
  slots : AMap SlotState := []
  marked : List Nat := []
  deriving DecidableEq, Repr

/-- R311: phase, counters and the members that have arrived. -/
structure Barrier where
  phase : Word := 0
  count0 : Word := 0
  count1 : Word := 0
  /-- members arrived in the current phase -/
  arrived : List Nat := []
  /-- the bound group and its members (gang and tree barriers) -/
  group : Nat := 0
  members : List Nat := []
  bound : Bool := false
  launch : Nat := 0
  /-- completed phases whose release has not reached the waiters (R313) -/
  releasing : List Word := []
  /-- R314: peers' arrival messages held, and the last phase whose message this device sent -/
  peers : List (Nat × Word) := []
  sent : Option Word := none
  deriving DecidableEq, Repr

/-- R202, R205, R267: a K-step that is under way: the slot of each ring and its address, whether its release is void, and the
window with its marks as they stood when the slots were taken. -/
structure Panels where
  slotA : Nat
  slotB : Nat
  addrA : Nat
  addrB : Nat
  voidA : Bool := false
  voidB : Bool := false
  sp : List Host.Cell
  marks : List Nat
  deriving DecidableEq, Repr

/-- A tile operation (R201 to R204, R424). -/
structure TileOp where
  inFlight : Bool := false
  /-- a number of its own, by which the instructions that wait for it name it (R204) -/
  serial : Nat := 0
  /-- the number and the ring of a stopped operation of the tag that was not reported before the next one started (R267) -/
  unreported : Option (Nat × Nat) := none
  next : Nat := 0
  desc : List Word := []
  /-- the ring of a stopped operation still to be reported; one in flight stops after its K-step (R267) -/
  stopped : Option Nat := none
  panels : Option Panels := none
  /-- the warp and the lanes of E of its TMMA, the record of its arithmetic trap, and whether a product raised IV -/
  warp : Nat := 0
  lanes : Mask := 0
  report : TrapRec := { kind := 3 }
  iv : Bool := false
  deriving DecidableEq, Repr

/-- R269. -/
inductive FlintStatus | stopped | running | waiting | faulted
  deriving DecidableEq, Repr

/-- A ring slot that a Flint program holds: index, offset, address, size, and whether its commit or release is void
after a reconfiguration (R267, R269). -/
structure HeldSlot where
  slot : Nat
  off : Nat
  addr : Nat
  size : Nat
  void : Bool := false
  deriving DecidableEq, Repr

/-- What a WAITING program waits for (R243, R271): a slot of a ring, as consumer or as producer, with its place among the
requests (R238); room in the tracker for some requests; the end of its own transfers of a ring and side. -/
inductive FlintWait
  | slot (ring : Nat) (cons : Bool) (seq : Nat)
  | room (requests : Nat)
  | moved (ring : Nat) (cons : Bool)
  deriving DecidableEq, Repr

/-- One Flint program slot (R269). -/
structure FlintSlot where
  owner : Nat := 0
  status : FlintStatus := .stopped
  pc : DWord := 0
  x : AMap DWord := []
  n : AMap Word := []
  /-- per ring: the PRODUCING slot; the CONSUMING slot -/
  prod : AMap HeldSlot := []
  cons : AMap HeldSlot := []
  waitsOn : Option FlintWait := none
  deriving DecidableEq, Repr

/-- One workgroup (R250 to R253, R263 to R268, R424). -/
structure Workgroup where
  launch : Nat := 0
  gang : Nat := 0
  gpos : Nat := 0
  wgid : Nat := 0
  core : Nat := 0
  nwarps : Nat := 0
  part : Word := 0
  block : Nat := 0
  /-- bytes of the scratchpad window that are not zero -/
  sp : List Host.Cell := []
  /-- poisoned 32-byte granules of the window, and poisoned scale-memory entries -/
  spPoison : List Nat := []
  rings : AMap Ring := []
  region : AMap Ace := []
  scale : List Host.Cell := []
  scalePoison : List Nat := []
  tags : AMap TileOp := []
  /-- bytes of global memory, by location (`Place.loc?`), of which its L1 still holds an older value (R293, R300) -/
  stale : AMap Byte := []
  bars : AMap Barrier := []
  events : BitVec 64 := 0
  ended : Bool := false
  resident : Bool := true
  /-- its address programs while it is saved (R425) -/
  savedFlint : AMap FlintSlot := []
  deriving DecidableEq, Repr

/-- One core (R44, R62, R245, R269, R465). -/
structure Core where
  issueCtl : Word := 1
  clocks : DWord := 0
  fused : DWord := 0
  skipped : DWord := 0
  landed : DWord := 0
  flint : AMap FlintSlot := []
  retired : Bool := false
  deriving DecidableEq, Repr

/-! ## Launches -/

/-- A launch descriptor as read (R346 to R353). -/
structure Desc where
  ctl0 : Word := 0
  ngang : Word := 0
  part : Word := 0
  ctl1 : Word := 0
  mode0 : Word := 0
  fencectl : Word := 0
  seed : DWord := 0
  code : DWord := 0
  limit : Word := 0
  entry : Word := 0
  tba : DWord := 0
  groups : DWord := 0
  ngroup : Word := 0
  evt : Word := 0
  domains : DWord := 0
  cpl : DWord := 0
  lost : DWord := 0
  lostcap : Word := 0
  graph : DWord := 0
  fences : List (DWord × DWord) := []
  args : List Word := []
  leases : List (DWord × DWord) := []
  /-- the bytes R346 reserves were zero -/
  reservedZero : Bool := true
  deriving DecidableEq, Repr

/-- One gang of a launch (R348, R354 to R362). -/
structure Gang where
  index : Nat := 0
  /-- die and the core of position 0 -/
  die : Nat := 0
  anchor : Nat := 0
  wgs : List Nat := []
  started : Bool := false
  resident : Bool := false
  saved : Bool := false
  completed : Bool := false
  draining : Bool := false
  placed : Nat := 0
  sliceOver : Bool := false
  bars : AMap Barrier := []
  /-- next number of the block of each domain of a weakly parallel gang, and how many are left (R318, R358) -/
  blocks : AMap (Word × Nat) := []
  deriving DecidableEq, Repr

/-- A triangle of a render pass with its sequence number (R220, R378). -/
structure Prim where
  seq : Word
  xy : List Word
  z : List Word
  deriving DecidableEq, Repr

/-- R381 to R383: one batch of a visit of a bin of a target. -/
structure Batch where
  target : Nat
  bin : Nat
  stateSet : Nat
  first : Bool
  last : Bool
  prims : List Prim
  deriving DecidableEq, Repr

/-- A render pass (R372 to R383). -/
structure Render where
  block : List Word := []
  /-- meshlet records emitted and not yet classified, by meshlet index, with their flush flags -/
  records : AMap (Bool × List Byte) := []
  nextMeshlet : Nat := 0
  /-- entries in the small-primitive queue -/
  small : Nat := 0
  /-- Shale's window: its triangles with their bins, and their state set -/
  window : List (Prim × List Nat) := []
  windowSet : Nat := 0
  /-- batches of flushed windows not handed out, in the order of the visits -/
  batches : List Batch := []
  threshold : Word := 0
  /-- the writes of R376 have been made -/
  cleared : Bool := false
  deriving DecidableEq, Repr

/-- One grid of a launch: a compute launch has one, with stage 1; a render pass has one for each stage (R371). -/
structure Grid where
  started : Bool := false
  /-- the next gang index to start, and how many gangs have completed -/
  next : Nat := 0
  completed : Nat := 0
  /-- R363: the leader's mirror at the follower -/
  mirror : Nat := 0
  done : Bool := false
  deriving DecidableEq, Repr

/-- The state of a launch from its queue entry to its record. -/
inductive LaunchPhase
  /-- read and valid; its leases are being walked -/
  | walking
  /-- a residency request is out for it (R401) -/
  | waiting
  /-- admitted: its gangs may be placed -/
  | admitted
  /-- every warp is to end; the grid completes (R364, R370, R408) -/
  | ending
  deriving DecidableEq, Repr

/-- One launch (R341 to R370). -/
structure Launch where
  desc : Desc := {}
  addr : DWord := 0
  cid : Nat := 0
  asid : Nat := 0
  save : DWord := 0
  profile : Nat := 1
  debug : Bool := false
  /-- the host queue it came from, or none for a device-side launch -/
  queue : Option Nat := none
  order : Nat := 0
  phase : LaunchPhase := .walking
  /-- causes of an early end: 3 trap, 4 lease, 5 die failure, 6 abort, 1 malformed, 2 cannot fit -/
  causes : List Nat := []
  /-- by stage times 2^24 plus gang index -/
  gangs : AMap Gang := []
  grids : AMap Grid := []
  parent : Option (Nat × Nat) := none
  /-- the node of a device-side launch: graph, pool, number (R366) -/
  node : Option (Nat × Nat × Nat) := none
  /-- group number to members, and group to tree number (R309) -/
  groups : AMap (List Nat) := []
  trees : AMap Nat := []
  /-- domain number to base, block size and tag (R317) -/
  domains : AMap (Word × Word × DomTag) := []
  record : Option Nat := none
  blocksUsed : List Nat := []
  /-- tree barriers of a launch that is saved, by group (R315) -/
  savedTrees : AMap Barrier := []
  /-- launches whose gangs are being saved to make room for it (R360) -/
  claim : List Nat := []
  /-- R364: its remaining gangs run on for a time after a die failed -/
  grace : Bool := false
  render : Option Render := none
  fencesMet : List Nat := []
  deriving DecidableEq, Repr

/-- A page a lease, a save area or code holds pinned (R400, R402): virtual page of 4 KiB, its physical page,
the kinds the lease grants and the page's ordering kind. -/
structure Pin where
  owner : Nat
  asid : Nat
  vpage : Nat
  ppage : Nat
  read : Bool
  write : Bool
  order : OrdKind
  saveArea : Bool := false
  /-- the context whose save area it is -/
  cid : Nat := 0
  deriving DecidableEq, Repr

/-- What a walk finds for one 4 KiB page (R391). -/
structure Leaf where
  ppage : Nat
  r : Bool
  w : Bool
  order : OrdKind
  deriving DecidableEq, Repr

/-- One write of a 32-bit word of memory: the word before it, the mapping it was made through (0 for one by physical address), and the
ranges of pages, each with its address space, of which the instruction lines and the data lines have been removed since (R37, R393,
R398, R470). -/
structure Past where
  old : Word
  via : Nat
  code : List (Nat × Nat × Nat) := []
  data : List (Nat × Nat × Nat) := []
  deriving DecidableEq, Repr

/-- One sector that a warp's next instruction which reads memory as it issues, or its next fetch, reads is to arrive poisoned: from a
link, or as a timeout (R458, R466). -/
structure Armed where
  warp : Nat
  /-- the link's unit; none for a timeout -/
  unit : Option Nat
  fetch : Bool
  /-- which of the sectors -/
  sector : Nat
  /-- it has arrived: its line and ASID, and its physical address, not yet logged -/
  hit : Option (Nat × Nat × Nat) := none
  deriving DecidableEq, Repr

/-! ## Ordered sections -/

/-- One entry of the key table (R226, R320, R382). -/
structure KeyEntry where
  tag : DomTag
  key : DWord
  n : Word
  /-- the holding lane: warp and lane -/
  holder : Option (Nat × Nat) := none
  heldS : Word := 0
  w : BitVec 64 := 0
  ab : Bool := false
  poisoned : Bool := false
  /-- its place in the overflow area, when it was spilled -/
  overflow : Option Nat := none
  lastUse : Nat := 0
  /-- it was moved and found no place (R464) -/
  placeless : Bool := false
  /-- R382: the render entry's list of posted numbers, each with its retired mark -/
  posted : Option (List (Word × Bool)) := none
  deriving DecidableEq, Repr

/-- The quiet count of a domain at a slice (R326). -/
structure Quiet where
  slice : Nat
  tag : DomTag
  count : Nat := 0
  waitingAtStart : Bool := false
  granted : Bool := false
  deriving DecidableEq, Repr

/-- A shared domain (R317, R369). -/
structure SharedDom where
  base : Word
  next : Word
  freeing : Bool := false
  deriving DecidableEq, Repr

/-! ## The device's registers and links -/

/-- The five registers of a ring (R342, R396, R401, R468). -/
structure QRegs where
  baseLo : Word := 0
  baseHi : Word := 0
  tail : Word := 0
  head : Word := 0
  ctl : Word := 0
  /-- a doorbell made entries pending and consumption runs -/
  going : Bool := false
  deriving DecidableEq, Repr

/-- One CXL port (R476, R478). -/
structure CxlPort where
  base : DWord := 0
  size : DWord := 0
  ctl : Word := 0x28
  stat : Word := 0
  trained : Bool := false
  poisoned : List Nat := []
  deriving DecidableEq, Repr

/-- One peer port (R472 to R474). -/
structure PeerPort where
  up : Bool := false
  caps : Nat := 0
  deriving DecidableEq, Repr

/-- Error counts of one unit in its window (R461). -/
structure UnitCount where
  corrected : Nat := 0
  uncorrected : Nat := 0
  retired : Bool := false
  /-- the thresholds of its window; none in the first window after reset -/
  thr : Option Word := none
  deriving DecidableEq, Repr

/-- A walk or an access waiting for the driver: what the residency ring was told (R401). -/
structure Request where
  launch : Nat
  addr : DWord
  index : Nat
  deriving DecidableEq, Repr

/-- The registers of the window and the units behind them (R471). -/
structure Device where
  fwstat : Word := 0
  mailbox : List Byte := []
  report : List Byte := []
  /-- R482: the certificate chain returned with the report -/
  certs : List Byte := []
  /-- R482: SHA-384 and SVN of the Gneiss image and of the service-firmware image that runs -/
  fwDigests : AMap (List Byte) := []
  fwSvn : AMap Word := []
  contextBase : DWord := 0
  shalePart : Word := 2
  queues : AMap QRegs := []
  iq : QRegs := {}
  iqDone : DWord := 0
  /-- the command being performed, or waiting for pins (R398) -/
  iqBusy : Option (List Word) := none
  rq : QRegs := {}
  el : QRegs := {}
  elDrop : Word := 0
  rasThr : AMap Word := []
  cxl : AMap CxlPort := []
  peers : AMap PeerPort := []
  /-- R472: the IDs that both the device and the adapter list, once the adapter's list has been read -/
  adapter : Option Nat := none
  pwrCap : Word := 2700
  atBaseLo : Word := 0
  atBaseHi : Word := 0
  atCtl : Word := 0
  ovfLo : Word := 0
  ovfHi : Word := 0
  ovfCtl : Word := 0
  ordQuiet : Word := 64
  barLink : AMap Word := []
  tripped : Bool := false
  diesFailed : List Nat := []
  units : AMap UnitCount := []
  remap : AMap Nat := []
  requests : List Request := []
  /-- claimed nodes of task-graph pools: graph, pool, node (R366) -/
  nodes : List (Nat × Nat × Nat) := []
  /-- R345, R367: the launches of each queue in entry order, claimed nodes whose copy is on its way among them, from the first that is
  not complete on: host queues by number, the pools of a graph from 4096 on -/
  entries : AMap (List Nat) := []
  deriving DecidableEq, Repr

/-! ## The machine -/

/-- The instruction being issued: its warp, issue set, program counter, words and latched prefix. `set = 0` when
nothing is being issued. -/
structure Issue where
  warp : Nat := 0
  set : Mask := 0
  pc : Nat := 0
  word : Word := 0
  pfx : Option Word := none
  /-- a prefix has issued and its base word is next -/
  open_ : Bool := false
  /-- the core and slot of the Flint program whose instruction is executed -/
  flint : Option (Nat × Nat) := none
  /-- an instruction of lanes in HOLD: the number they wait under, and the uniform registers read at its issue -/
  held : Option Nat := none
  kept : AMap Word := []
  deriving DecidableEq, Repr

/-- The whole device. -/
structure State where
  /-- the model's counters of free choices and of names, log entry 2 -/
  tick : Nat := 0
  nextId : Nat := 1
  /-- what is still to arrive from outside, each with the steps before it (the host interface) -/
  inputs : List (Nat × Instr) := []
  issue : Issue := {}
  warps : AMap Warp := []
  wgs : AMap Workgroup := []
  cores : AMap Core := []
  launches : AMap Launch := []
  flights : List Flight := []
  pins : List Pin := []
  keys : List KeyEntry := []
  seqNext : List (DomTag × Word) := []
  quiets : List Quiet := []
  shared : AMap SharedDom := []
  trees : AMap Barrier := []
  /-- bytes of physical memory that are not zero, and its poisoned 32-byte granules -/
  mem : List Host.Cell := []
  poison : List Nat := []
  /-- the writes of each word of physical memory that a read may still pass over, latest first (R37, R393, R470) -/
  hist : AMap (List Past) := []
  /-- leaves that the TLBs hold, latest first (R394), and the pages, by mapping, of which caches may hold lines (R392) -/
  tlb : List (Nat × Leaf) := []
  lines : List (Nat × Nat) := []
  armed : List Armed := []
  dev : Device := {}
  deriving DecidableEq, Repr

/-- The faults of the model. The ISA's own faults are traps and next states, so none of them is here. -/
inductive Fault
  /-- raised by `step` when the lookup of the step's own move fails; no reachable state raises it. Safe: the machine
  stops where the hardware goes on. -/
  | noMove
  deriving DecidableEq, Repr

/-- The refusals of the model. -/
inductive Refusal
  /-- raised by an arm of `exec` whose instruction has no meaning yet. Safe: the machine stops. -/
  | notModelled (mnemonic : String)
  deriving DecidableEq, Repr

/-- R461: the default threshold of each unit class, RASTHR0 to RASTHR5. -/
def rasDefaults : AMap Word :=
  [(0, 0x00040100), (1, 0x00040100), (2, 0x00101000), (3, 0x00020040), (4, 0x00020040), (5, 0)]

/-- The device after cold reset (R5, R480): no firmware, nothing resident, memory with nothing listed. -/
def State.reset : State := { dev := { rasThr := rasDefaults } }

end Sys2Proof.Machine
end

