-- ==== Sys2Proof/Machine/Maps.lean ====
section
/-! DEFINITION. Reading and writing finite maps, and memory in its one canonical form. -/

namespace Sys2Proof.Machine

/-- The entry of a key. -/
def mapGet? {α : Type} : AMap α → Nat → Option α
  | [], _ => none
  | (j, x) :: r, k => if j = k then some x else mapGet? r k

/-- The entry of a key, or the default. -/
def mapGet {α : Type} (m : AMap α) (k : Nat) (d : α) : α := (mapGet? m k).getD d

/-- Writing a key keeps the rising order. -/
def mapSet {α : Type} : AMap α → Nat → α → AMap α
  | [], k, x => [(k, x)]
  | (j, y) :: r, k, x =>
    if j = k then (k, x) :: r
    else if k < j then (k, x) :: (j, y) :: r
    else (j, y) :: mapSet r k x

def mapErase {α : Type} : AMap α → Nat → AMap α
  | [], _ => []
  | (j, y) :: r, k => if j = k then r else (j, y) :: mapErase r k

/-- Changing one entry, starting from the default where there is none. -/
def mapMod {α : Type} (m : AMap α) (k : Nat) (d : α) (f : α → α) : AMap α := mapSet m k (f (mapGet m k d))

/-- The entries that meet a test, by key. -/
def mapKeys {α : Type} (m : AMap α) (p : α → Bool) : List Nat := (m.filter fun e => p e.2).map Prod.fst

/-! ## Memory -/

/-- What an unlisted address reads as: zero, for HBM after power-on, a window at admission and every other byte
(R252; DESIGN CHOICE for device memory, log entry 1). -/
def memDefault : Byte := 0

/-- One byte of a memory. -/
def memRead : List Host.Cell → Nat → Byte
  | [], _ => memDefault
  | (a, b) :: r, k => if a = k then b else memRead r k

/-- One byte written: an entry that would hold the default is removed. -/
def memWrite : List Host.Cell → Nat → Byte → List Host.Cell
  | [], k, b => if b = memDefault then [] else [(k, b)]
  | (a, c) :: r, k, b =>
    if a = k then (if b = memDefault then r else (k, b) :: r)
    else if k < a then (if b = memDefault then (a, c) :: r else (k, b) :: (a, c) :: r)
    else (a, c) :: memWrite r k b

/-- The canonical form: addresses strictly rising from `lo`, and no entry equal to the default. -/
def memWfFrom (lo : Nat) : List Host.Cell → Bool
  | [] => true
  | (a, b) :: r => decide (lo ≤ a) && (b != memDefault) && memWfFrom (a + 1) r

def Memory.wf (m : List Host.Cell) : Bool := memWfFrom 0 m

/-- `n` bytes from an address, lowest first. -/
def memReadN (m : List Host.Cell) (a : Nat) : Nat → List Byte
  | 0 => []
  | n + 1 => memRead m a :: memReadN m (a + 1) n

def memWriteN (m : List Host.Cell) (a : Nat) : List Byte → List Host.Cell
  | [] => m
  | b :: bs => memWriteN (memWrite m a b) (a + 1) bs

/-- A little-endian number (R3). -/
def ofBytes : List Byte → Nat
  | [] => 0
  | b :: bs => b.toNat + 256 * ofBytes bs

/-- The low `n` bytes of a number, little-endian (R3). -/
def toBytes : Nat → Nat → List Byte
  | 0, _ => []
  | n + 1, x => BitVec.ofNat 8 x :: toBytes n (x / 256)

/-! ## Marks: a set of numbers without repeats -/

def markSet (l : List Nat) (k : Nat) : List Nat := if l.contains k then l else k :: l
def markClear (l : List Nat) (k : Nat) : List Nat := l.filter (· ≠ k)

/-! ## Fields -/

/-- Bits `lo` to `lo + n - 1` of a number. -/
def bits (x lo n : Nat) : Nat := x / 2 ^ lo % 2 ^ n
def bitAt (x i : Nat) : Bool := x / 2 ^ i % 2 == 1
/-- Bits of a word. -/
def wbits (x : Word) (lo n : Nat) : Nat := bits x.toNat lo n

/-- The lanes of a mask, rising. -/
def lanesOf (m : Mask) : List Nat := (List.range 32).filter fun l => m.getLsbD l
/-- The mask of the lanes that meet a test. -/
def maskOf (p : Nat → Bool) : Mask := BitVec.ofNat 32 ((List.range 32).foldl (fun a l => if p l then a + 2 ^ l else a) 0)
def allLanes : Mask := 0xFFFFFFFF

/-- The lowest number of a list that meets a test. -/
def lowest (p : Nat → Bool) (l : List Nat) : Option Nat := l.find? p

end Sys2Proof.Machine
end

