-- ==== Sys2Proof/Config.lean ====
section
/-! DEFINITION. The free values: what the spec leaves open and no proof may know. Each is opaque and has no body. -/

namespace Sys2Proof.Config

/-- Which of several allowed moves comes next, and every other choice the spec leaves open (R10, R287), at a point
of time counted by the model's `tick`. Log entry 7. -/
opaque choice : Nat → Nat

/-- The sum word S that an accumulator write leaves: any word (R86, R273). Log entry 8. -/
opaque sumWord : Nat → BitVec 80

/-- Where within its bound the result of an approximate function lies (R136): one fixed function of the function's
number, the format, the input pattern, and `MODE.FTZI`, `MODE.FTZO` and `MODE.NANP`. Log entry 9. -/
opaque approx : Nat → Nat → Nat → Nat → Int

/-- R240: how many copy commands a core's engine holds in its queue beside one: the spec gives no number. Log entry 16. -/
opaque copyQueue : Nat

/-- R402: whether an access that is made at a point of time, counted by the model's `tick` and `nextId`, to a page whose leaf
was changed while it is pinned, uses the old leaf. Log entry 26. -/
opaque oldLeaf : Nat → Nat → Nat → Bool

/-- R285, R393, R470: which of the values that a byte of physical memory may return is returned at a point of time, counted by
the model's `tick` and `nextId`. Log entry 74. -/
opaque altValue : Nat → Nat → Nat → Nat

/-- A byte whose value the spec leaves open, by a number that names it. Log entry 10. -/
opaque freeByte : Nat → BitVec 8

/-- The home last-level slice of the line with a number: the spec gives a hash for keys (R319) and none for lines
(R170). Log entry 12. -/
opaque lineHome : Nat → Nat

/-- R480, R482: the SHA-384 of a byte string, byte by byte. The spec names the algorithm and does not give it.
Log entry 13. -/
opaque sha384 : List (BitVec 8) → Nat → BitVec 8

/-- R480: whether a signature (r, then s) over a digest verifies under the fused key. Log entry 13. -/
opaque verifies : List (BitVec 8) → List (BitVec 8) → Bool

/-- R480: the fused minimum SVN for a KIND. Log entry 13. -/
opaque fusedSvn : Nat → Nat

/-- R480: whether the self-test passes, by the model's `tick`. Log entry 13. -/
opaque selfTest : Nat → Bool

/-- R482: a byte of the device's serial number, and of its signature over a digest. Log entry 13. -/
opaque serialByte : Nat → BitVec 8
opaque signByte : List (BitVec 8) → Nat → BitVec 8

/-- R482: the certificate chain of the identity key: its length, and its bytes. Log entry 13. -/
opaque certLength : Nat
opaque certByte : Nat → BitVec 8

end Sys2Proof.Config
end

