-- ==== Sys2Proof/Machine/Num.lean ====
section
/-! DEFINITION. Number formats, exact values and the one rounding function (03, R65 to R83, R94, R95). -/

namespace Sys2Proof.Machine

/-! Flags (R72), by their place in the six-bit flag set. -/
def flIV : Flags := 1
def flDZ : Flags := 2
def flOF : Flags := 4
def flUF : Flags := 8
def flNX : Flags := 16
def flIO : Flags := 32

/-- The six rounding modes of R27. -/
inductive Rounding | rne | rtz | rdn | rup | rna | rsto
  deriving DecidableEq, Repr

/-- The rounding mode a three-bit RM names; 000 and 111 name none (R27, R72). -/
def Rounding.ofBits (b : Nat) : Option Rounding :=
  match b with
  | 1 => some .rne
  | 2 => some .rtz
  | 3 => some .rdn
  | 4 => some .rup
  | 5 => some .rna
  | 6 => some .rsto
  | _ => none

/-- What of `MODE` an arithmetic step reads (R72), with the rounding it uses. -/
structure NumEnv where
  rm : Rounding
  ftzi : Bool
  ftzo : Bool
  sat : Bool
  nanp : Bool
  deriving DecidableEq, Repr

/-- What one lane's computation changes: the flags raised and the generator state (R73, R82). -/
structure LaneNum where
  fl : Flags
  gen : DWord
  deriving DecidableEq, Repr

def LaneNum.raise (n : LaneNum) (f : Flags) : LaneNum := { n with fl := n.fl ||| f }

/-- R82: one step of a lane's generator. -/
def rngStep (s : DWord) : DWord :=
  let s : DWord := if s = 0 then 0x9E3779B97F4A7C15 else s
  let s := s ^^^ (s <<< 13)
  let s := s ^^^ (s >>> 7)
  s ^^^ (s <<< 17)

/-- R82: the 64-bit product a draw takes its bits from. -/
def rngMix (s : DWord) : DWord := s * 0x2545F4914F6CDD1D

/-- R82: a draw steps the state and returns 16 bits. -/
def rstoDraw (n : LaneNum) : Nat × LaneNum :=
  let g := rngStep n.gen
  ((rngMix g).toNat / 2 ^ 48, { n with gen := g })

/-! Formats (R67). -/

/-- A floating-point format: exponent and mantissa widths, bias, and whether it has infinities and NaNs. -/
structure Fmt where
  ew : Nat
  mw : Nat
  bias : Nat
  hasInf : Bool
  hasNan : Bool
  /-- subnormals of this format flush under FTZI and FTZO (R74) -/
  flushes : Bool
  deriving DecidableEq, Repr

def F32 : Fmt := ⟨8, 23, 127, true, true, true⟩
def F16 : Fmt := ⟨5, 10, 15, true, true, true⟩
def BF16 : Fmt := ⟨8, 7, 127, true, true, true⟩
def E5M2 : Fmt := ⟨5, 2, 15, true, true, false⟩
def E4M3 : Fmt := ⟨4, 3, 7, false, true, false⟩
def E3M2 : Fmt := ⟨3, 2, 3, false, false, false⟩
def E2M3 : Fmt := ⟨2, 3, 1, false, false, false⟩
def E2M1 : Fmt := ⟨2, 1, 1, false, false, false⟩

def Fmt.width (f : Fmt) : Nat := 1 + f.ew + f.mw
def Fmt.signBit (f : Fmt) : Nat := 2 ^ (f.ew + f.mw)
/-- The pattern of infinity in formats that have one. -/
def Fmt.infPat (f : Fmt) : Nat := (2 ^ f.ew - 1) * 2 ^ f.mw
/-- The pattern of the largest finite value (R67). -/
def Fmt.maxPat (f : Fmt) : Nat :=
  if f.hasInf then f.infPat - 1
  else if f.hasNan then f.signBit - 2
  else f.signBit - 1
/-- R69: the canonical NaN. -/
def Fmt.canonNan (f : Fmt) : Nat :=
  if f.hasInf then f.infPat + 2 ^ (f.mw - 1) else f.signBit - 1

/-- The pattern with a sign. -/
def Fmt.signed (f : Fmt) (neg : Bool) (p : Nat) : Nat := if neg then f.signBit + p else p

/-- A decoded pattern: a NaN with its payload, an infinity, or (-1)^neg * m * 2^e. -/
inductive FVal
  /-- sign, mantissa field, its width, signalling -/
  | nan (neg : Bool) (frac : Nat) (fw : Nat) (sig : Bool)
  | inf (neg : Bool)
  | fin (neg : Bool) (m : Nat) (e : Int)
  deriving DecidableEq, Repr

def FVal.isNan : FVal → Bool
  | .nan .. => true
  | _ => false
def FVal.isSNan : FVal → Bool
  | .nan _ _ _ s => s
  | _ => false
def FVal.isInf : FVal → Bool
  | .inf _ => true
  | _ => false
def FVal.isZero : FVal → Bool
  | .fin _ 0 _ => true
  | _ => false
def FVal.neg : FVal → Bool
  | .nan n _ _ _ => n
  | .inf n => n
  | .fin n _ _ => n
/-- The exact negation of a value (R118). -/
def FVal.negate : FVal → FVal
  | .nan n f w s => .nan n f w s
  | .inf n => .inf (!n)
  | .fin n m e => .fin (!n) m e

/-- R67, R68: the value of a pattern, without flushing. -/
def decodeRaw (f : Fmt) (b : Nat) : FVal :=
  let b := b % 2 ^ f.width
  let neg := decide (f.signBit ≤ b)
  let ef := b / 2 ^ f.mw % 2 ^ f.ew
  let mf := b % 2 ^ f.mw
  if f.hasInf && ef == 2 ^ f.ew - 1 then
    if mf = 0 then .inf neg else .nan neg mf f.mw (decide (mf < 2 ^ (f.mw - 1)))
  else if !f.hasInf && f.hasNan && ef == 2 ^ f.ew - 1 && mf == 2 ^ f.mw - 1 then
    .nan neg mf f.mw false
  else if ef = 0 then .fin neg mf (1 - (f.bias : Int) - f.mw)
  else .fin neg (2 ^ f.mw + mf) ((ef : Int) - f.bias - f.mw)

/-- A pattern is subnormal. -/
def Fmt.isSub (f : Fmt) (b : Nat) : Bool := b % f.signBit < 2 ^ f.mw && b % f.signBit ≠ 0

/-- R74, R96: the value of a pattern after input flushing. -/
def decodeIn (env : NumEnv) (f : Fmt) (b : Nat) : FVal :=
  if env.ftzi && f.flushes && f.isSub b then .fin (decide (f.signBit ≤ b % 2 ^ f.width)) 0 0
  else decodeRaw f b

/-- R67: E8M0 pattern e is 2^(e-127); 0xFF is NaN. -/
def decodeE8 (b : Nat) : FVal :=
  let b := b % 256
  if b = 255 then .nan false 0 1 false else .fin false 1 ((b : Int) - 127)

/-- R75: the NaN result of the first NaN operand, or the canonical NaN. -/
def nanPat (env : NumEnv) (f : Fmt) (ops : List FVal) : Nat :=
  if env.nanp then
    match ops.find? FVal.isNan with
    | some (.nan neg frac fw _) =>
      if f.hasInf then
        -- the payload with its quiet bit set, aligned to the top of the target's mantissa
        let q := if fw = 0 then 0 else frac ||| 2 ^ (fw - 1)
        let p := q * 2 ^ f.mw / 2 ^ fw
        let p := if p = 0 then 2 ^ (f.mw - 1) else p
        f.signed neg (f.infPat + p)
      else f.signed neg f.canonNan
    | _ => f.canonNan
  else f.canonNan

/-- R75: `nan_result`, with IV for a signalling operand. A format without NaN gives +0 and IV (R78). -/
def nanResult (env : NumEnv) (f : Fmt) (ops : List FVal) (n : LaneNum) : Nat × LaneNum :=
  if f.hasNan then
    (nanPat env f ops, if ops.any FVal.isSNan then n.raise flIV else n)
  else (0, n.raise flIV)

/-! Exact values and rounding (R76 to R81). -/

/-- An exact dyadic value m * 2^e, perhaps with a tail (R76). -/
structure Dy where
  m : Int
  e : Int
  tail : Bool := false
  deriving DecidableEq, Repr

def Dy.isZero (x : Dy) : Bool := x.m == 0 && !x.tail

/-- The two values over a common exponent. -/
def Dy.align (x y : Dy) : Int × Int × Int :=
  let e := min x.e y.e
  (x.m * 2 ^ (x.e - e).toNat, y.m * 2 ^ (y.e - e).toNat, e)
def Dy.add (x y : Dy) : Dy := let a := Dy.align x y; ⟨a.1 + a.2.1, a.2.2, x.tail || y.tail⟩
def Dy.neg (x : Dy) : Dy := ⟨-x.m, x.e, x.tail⟩
def Dy.sub (x y : Dy) : Dy := Dy.add x y.neg
def Dy.mul (x y : Dy) : Dy := ⟨x.m * y.m, x.e + y.e, false⟩
def Dy.lt (x y : Dy) : Bool := let a := Dy.align x y; decide (a.1 < a.2.1)
def Dy.le (x y : Dy) : Bool := let a := Dy.align x y; decide (a.1 ≤ a.2.1)
def Dy.ofInt (n : Int) : Dy := ⟨n, 0, false⟩
def FVal.dy : FVal → Dy
  | .fin neg m e => ⟨if neg then -(m : Int) else m, e, false⟩
  | _ => ⟨0, 0, false⟩

/-- floor(m * 2^k) for an integer k. -/
def shiftFloor (m : Int) (k : Int) : Int :=
  if 0 ≤ k then m * 2 ^ k.toNat else m / 2 ^ (-k).toNat

/-- The tail made explicit: a positive amount below every step that decides a rounding (R76). -/
def Dy.spread (x : Dy) : Int × Int :=
  if x.tail then
    -- below the grid of any format here and, for a conversion to an integer (R79), below 1
    let k := 64 + x.e.toNat
    if x.m = 0 then (1, -8000) else (x.m * 2 ^ k + 1, x.e - k)
  else (x.m, x.e)

/-- A choice between the grid neighbours `lo` and `lo + 1` in units of 2^q; `r` over `d` is the part above `lo`.
R76 step 2 and R81. -/
def pickGrid (rm : Rounding) (lo r d : Int) (neg : Bool) (n : LaneNum) : Int × LaneNum :=
  let draw := rstoDraw n
  match rm with
  | .rsto =>
    let g := r * 65536 / d
    (if r ≠ 0 ∧ 65536 ≤ g + draw.1 then lo + 1 else lo, draw.2)
  | .rne =>
    (if r = 0 then lo else if 2 * r < d then lo else if d < 2 * r then lo + 1
      else if lo % 2 = 0 then lo else lo + 1, n)
  | .rna =>
    (if r = 0 then lo else if 2 * r < d then lo else if d < 2 * r then lo + 1
      else if neg then lo else lo + 1, n)
  | .rtz => (if r = 0 then lo else if neg then lo + 1 else lo, n)
  | .rdn => (lo, n)
  | .rup => (if r = 0 then lo else lo + 1, n)

/-- x = m * 2^e on the grid of step 2^q: the chosen multiple, whether it is inexact, and the lane's state. -/
def roundGrid (rm : Rounding) (m e q : Int) (n : LaneNum) : Int × Bool × LaneNum :=
  let k := q - e
  if k ≤ 0 then
    -- on the grid: an exact value still steps the generator under RSTO (R83)
    let p := pickGrid rm (m * 2 ^ (-k).toNat) 0 1 (decide (m < 0)) n
    (p.1, false, p.2)
  else
    let d : Int := 2 ^ k.toNat
    let lo := m / d
    let r := m % d
    let p := pickGrid rm lo r d (decide (m < 0)) n
    (p.1, decide (r ≠ 0), p.2)

/-- R77, R78: the result of an overflow. -/
def overflowPat (env : NumEnv) (f : Fmt) (neg : Bool) : Nat :=
  let toInf := match env.rm with
    | .rne | .rna | .rsto => true
    | .rtz => false
    | .rdn => neg
    | .rup => !neg
  if env.sat || !toInf then f.signed neg f.maxPat
  else if f.hasInf then f.signed neg f.infPat
  else if f.hasNan then f.signed neg f.canonNan
  else f.signed neg f.maxPat

/-- R76 step 1, R78: an exact infinity written to a format. -/
def infPatOf (env : NumEnv) (f : Fmt) (neg : Bool) (n : LaneNum) : Nat × LaneNum :=
  if f.hasInf then (f.signed neg f.infPat, n)
  else if f.hasNan && !env.sat then (f.signed neg f.canonNan, n.raise flOF)
  else (f.signed neg f.maxPat, n.raise flOF)

/-- floor(log2 |m|) + e for m other than 0. -/
def exponentOf (m e : Int) : Int := (Nat.log2 m.natAbs : Int) + e

/-- R74: a result that is subnormal is written as zero under FTZO, with UF and NX. -/
def flushOut (env : NumEnv) (f : Fmt) (p : Nat) (n : LaneNum) : Nat × LaneNum :=
  if env.ftzo && f.flushes && f.isSub p then
    (f.signed (decide (f.signBit ≤ p)) 0, n.raise (flUF ||| flNX))
  else (p, n)

/-- R76: a finite exact value to a format; `zneg` is the sign of an exact zero. -/
def roundFin (env : NumEnv) (f : Fmt) (x : Dy) (zneg : Bool) (n : LaneNum) : Nat × LaneNum :=
  if x.isZero then
    -- an exact zero keeps its sign and steps the generator under RSTO (R83)
    (f.signed zneg 0, if env.rm = .rsto then (rstoDraw n).2 else n)
  else
    let me := x.spread
    let neg := decide (me.1 < 0)
    let emin : Int := 1 - (f.bias : Int)
    let q := max (exponentOf me.1 me.2) emin - f.mw
    let g := roundGrid env.rm me.1 me.2 q n
    let a := g.1.natAbs
    let pat := (q - (emin - f.mw)).toNat * 2 ^ f.mw + a
    let n := g.2.2
    if f.maxPat < pat then (overflowPat env f neg, n.raise (flOF ||| flNX))
    else
      let n := if g.2.1 then n.raise flNX else n
      -- step 4 asks for a nonzero x; an x of zero with a tail raises NX alone (chapter 9's all-zero buffer)
      let n := if g.2.1 && x.m != 0 && decide (pat < 2 ^ f.mw) then n.raise flUF else n
      flushOut env f (f.signed neg pat) n

/-- R76: `round_to` of a decoded value. -/
def roundVal (env : NumEnv) (f : Fmt) (x : FVal) (n : LaneNum) : Nat × LaneNum :=
  match x with
  | .nan .. => nanResult env f [x] n
  | .inf neg => infPatOf env f neg n
  | .fin neg _ _ => roundFin env f x.dy neg n

/-- A value written exactly to a wider format (R132, R135): no flag but for output flushing, no generator step. -/
def widen (env : NumEnv) (f : Fmt) (x : FVal) (n : LaneNum) : Nat × LaneNum :=
  match x with
  | .nan .. => nanResult env f [x] n
  | .inf neg => (f.signed neg f.infPat, n)
  | .fin neg m e =>
    if m = 0 then (f.signed neg 0, n)
    else
      let emin : Int := 1 - (f.bias : Int)
      let q := max (exponentOf m e) emin - f.mw
      let a := (shiftFloor m (e - q)).natAbs
      flushOut env f (f.signed neg ((q - (emin - f.mw)).toNat * 2 ^ f.mw + a)) n

/-- R80: `round_to(E8M0, x, rm)`. Under RSTO a zero or negative finite x steps the generator, since it is a finite real that is
given to `round_to` (R83; log entry 58). -/
def roundE8 (env : NumEnv) (x : FVal) (n : LaneNum) : Nat × LaneNum :=
  match x with
  | .nan .. => (255, n.raise flIV)
  | .inf true => (255, n.raise flIV)
  | .inf false => (255, n.raise flOF)
  | .fin neg m e =>
    if m = 0 then (255, (if env.rm = .rsto then (rstoDraw n).2 else n).raise flIV)
    else if neg then (255, (if env.rm = .rsto then (rstoDraw n).2 else n).raise flIV)
    else
      let k := exponentOf m e
      -- position between 2^k and 2^(k+1): (m * 2^e - 2^k) / 2^k
      let d : Int := 2 ^ Nat.log2 m
      let r : Int := (m : Int) - d
      let draw := rstoDraw n
      let up : Bool := match env.rm with
        | .rsto => decide (r ≠ 0) && decide (65536 ≤ r * 65536 / d + draw.1)
        | .rne => decide (d < 2 * r) -- the even one is the smaller exponent
        | .rna => decide (d ≤ 2 * r)
        | .rup => decide (r ≠ 0)
        | _ => false
      let n := if env.rm = .rsto then draw.2 else n
      let n := if r ≠ 0 then n.raise flNX else n
      let k := if up then k + 1 else k
      if 127 < k then (if env.sat then 254 else 255, n.raise flOF)
      else if k < -127 then (0, n.raise (flUF ||| flNX))
      else ((k + 127).toNat, n)

/-! Integers (R65, R79). -/

/-- An integer format: width and signedness. -/
structure IFmt where
  w : Nat
  signed : Bool
  deriving DecidableEq, Repr

def IFmt.lo (f : IFmt) : Int := if f.signed then -(2 ^ (f.w - 1)) else 0
def IFmt.hi (f : IFmt) : Int := if f.signed then 2 ^ (f.w - 1) - 1 else 2 ^ f.w - 1
def clampInt (f : IFmt) (n : Int) : Int := if n < f.lo then f.lo else if f.hi < n then f.hi else n

/-- R79: `sat_int`, raising IO when it clamps. -/
def satInt (f : IFmt) (x : Int) (n : LaneNum) : Int × LaneNum :=
  let c := clampInt f x
  (c, if c = x then n else n.raise flIO)

/-- R79 step 1: a finite value rounded to an integer, raising NX when inexact. -/
def roundInt (rm : Rounding) (x : Dy) (n : LaneNum) : Int × LaneNum :=
  if x.isZero then (0, if rm = .rsto then (rstoDraw n).2 else n)
  else
    let me := x.spread
    let g := roundGrid rm me.1 me.2 0 n
    (g.1, if g.2.1 then g.2.2.raise flNX else g.2.2)

/-- R79: `int_of`. -/
def intOf (env : NumEnv) (f : IFmt) (x : FVal) (n : LaneNum) : Int × LaneNum :=
  match x with
  | .nan .. => (0, n.raise flIV)
  | .inf neg => (if neg then f.lo else f.hi, n.raise flIV)
  | .fin .. =>
    let g := roundInt env.rm x.dy n
    let c := clampInt f g.1
    (c, if c = g.1 then g.2 else g.2.raise flIV)

/-- A signed reading of the low `w` bits (R96 `sext`). -/
def sextN (w : Nat) (x : Nat) : Int :=
  let x := x % 2 ^ w
  if w = 0 then 0 else if 2 ^ (w - 1) ≤ x then (x : Int) - 2 ^ w else x

/-- The low `w` bits of an integer. -/
def bitsOf (w : Nat) (x : Int) : Nat := (x % (2 ^ w : Int)).toNat

/-! F32, F16 and BF16 arithmetic (R118). -/

/-- The sign of an exact zero sum (R118). -/
def zeroSumSign (rm : Rounding) (a b : Bool) : Bool := if a = b then a else decide (rm = .rdn)

/-- a * b as a value: NaN for infinity times zero. -/
inductive Prod
  | invalid
  | inf (neg : Bool)
  | fin (neg : Bool) (x : Dy)

def mulVal (x y : FVal) : Prod :=
  let neg := x.neg != y.neg
  if (x.isInf && y.isZero) || (x.isZero && y.isInf) then .invalid
  else if x.isInf || y.isInf then .inf neg
  else .fin neg (Dy.mul x.dy y.dy)

/-- R118: a + b rounded once. -/
def fAdd (env : NumEnv) (f : Fmt) (x y : FVal) (n : LaneNum) : Nat × LaneNum :=
  if x.isNan || y.isNan then nanResult env f [x, y] n
  else if x.isInf && y.isInf && x.neg != y.neg then (nanPat env f [], n.raise flIV)
  else if x.isInf then infPatOf env f x.neg n
  else if y.isInf then infPatOf env f y.neg n
  else roundFin env f (Dy.add x.dy y.dy) (zeroSumSign env.rm x.neg y.neg) n

/-- R118: a - b: an exact negation before the one rounding; a NaN operand keeps its sign. -/
def fSub (env : NumEnv) (f : Fmt) (x y : FVal) (n : LaneNum) : Nat × LaneNum :=
  fAdd env f x y.negate n

/-- R118: a * b rounded once. -/
def fMul (env : NumEnv) (f : Fmt) (x y : FVal) (n : LaneNum) : Nat × LaneNum :=
  if x.isNan || y.isNan then nanResult env f [x, y] n
  else match mulVal x y with
    | .invalid => (nanPat env f [], n.raise flIV)
    | .inf neg => infPatOf env f neg n
    | .fin neg p => roundFin env f p neg n

/-- R118: (negP) a * b + (negC) c with one rounding. -/
def fFma (env : NumEnv) (f : Fmt) (negP negC : Bool) (x y z : FVal) (n : LaneNum) : Nat × LaneNum :=
  let p := mulVal x y
  let n := match p with
    | .invalid => if x.isNan || y.isNan then n else n.raise flIV
    | _ => n
  if x.isNan || y.isNan || z.isNan then nanResult env f [x, y, z] n
  else
    let z := if negC then z.negate else z
    match p with
    | .invalid => (nanPat env f [], n)
    | .inf s =>
      let s := s != negP
      if z.isInf && z.neg != s then (nanPat env f [], n.raise flIV) else infPatOf env f s n
    | .fin s q =>
      let s := s != negP
      if z.isInf then infPatOf env f z.neg n
      else roundFin env f (Dy.add (if negP then q.neg else q) z.dy) (zeroSumSign env.rm s z.neg) n

/-- a < b for values that are not NaN, with -0 below +0 when `zeros` (R119). -/
def fLess (zeros : Bool) (x y : FVal) : Bool :=
  match x, y with
  | .inf n, .inf m => n && !m
  | .inf n, _ => n
  | _, .inf m => !m
  | _, _ => Dy.lt x.dy y.dy || (zeros && x.isZero && y.isZero && x.neg && !y.neg)

def fEq (x y : FVal) : Bool :=
  match x, y with
  | .inf n, .inf m => n == m
  | .fin .., .fin .. => !(Dy.lt x.dy y.dy) && !(Dy.lt y.dy x.dy)
  | _, _ => false

/-- R105: a float compare by code, with the flag it raises. -/
def fCompare (code : Nat) (x y : FVal) : Bool × Flags :=
  let un := x.isNan || y.isNan
  let sn := x.isSNan || y.isSNan
  let quiet : Flags := if sn then flIV else 0
  let loud : Flags := if un then flIV else 0
  match code with
  | 0 => (!un && fEq x y, quiet)
  | 1 => (un || !fEq x y, quiet)
  | 2 => (!un && fLess false x y, loud)
  | 3 => (!un && (fLess false x y || fEq x y), loud)
  | 4 => (!un && fLess false y x, loud)
  | 5 => (!un && (fLess false y x || fEq x y), loud)
  | 6 => (!un, quiet)
  | _ => (un, quiet)

/-- R105: an integer compare by code. -/
def iCompare (code : Nat) (a b : Word) : Bool :=
  match code with
  | 0 => a == b
  | 1 => a != b
  | 2 => a.slt b
  | 3 => a.sle b
  | 4 => b.slt a
  | 5 => b.sle a
  | 6 => a.ult b
  | 7 => a.ule b
  | 8 => b.ult a
  | _ => b.ule a

/-- A pattern of F32 read for a minimum or maximum: flushed, its bits kept otherwise (R119). -/
def flushBits (env : NumEnv) (f : Fmt) (b : Nat) : Nat :=
  let b := b % 2 ^ f.width
  if env.ftzi && f.flushes && f.isSub b then (if f.signBit ≤ b then f.signBit else 0) else b

/-- R119: minimum or maximum of two F32 patterns; `num` passes over a single NaN. -/
def fMinMax (env : NumEnv) (isMax num : Bool) (a b : Nat) (n : LaneNum) : Nat × LaneNum :=
  let a := flushBits env F32 a
  let b := flushBits env F32 b
  let x := decodeRaw F32 a
  let y := decodeRaw F32 b
  let n := if x.isSNan || y.isSNan then n.raise flIV else n
  if x.isNan && y.isNan then (nanPat env F32 [x, y], n)
  else if x.isNan then (if num then b else nanPat env F32 [x, y], n)
  else if y.isNan then (if num then a else nanPat env F32 [x, y], n)
  else if isMax then (if fLess true x y then b else a, n)
  else (if fLess true y x then b else a, n)

/-- R94: the addition of the lane trees: flushed inputs, RSTO read as RNE. -/
def treeAdd (env : NumEnv) (a b : Nat) (n : LaneNum) : Nat × LaneNum :=
  let env := if env.rm = .rsto then { env with rm := .rne } else env
  fAdd env F32 (decodeIn env F32 a) (decodeIn env F32 b) n

end Sys2Proof.Machine
end

