-- ==== Sys2Proof/Machine/Ops.lean ====
section
/-! DEFINITION. The named operations over the state: access to warps, lanes and registers, the issue being made, traps
and their entry and return (16), rows and the budget (08). -/

namespace Sys2Proof.Machine

/-! ## Names for parts of the state -/

def State.warp (s : State) (w : Nat) : Warp := mapGet s.warps w {}
def State.setWarp (s : State) (w : Nat) (x : Warp) : State := { s with warps := mapSet s.warps w x }
def State.modWarp (s : State) (w : Nat) (f : Warp → Warp) : State := s.setWarp w (f (s.warp w))
def State.wg (s : State) (g : Nat) : Workgroup := mapGet s.wgs g {}
def State.setWg (s : State) (g : Nat) (x : Workgroup) : State := { s with wgs := mapSet s.wgs g x }
def State.modWg (s : State) (g : Nat) (f : Workgroup → Workgroup) : State := s.setWg g (f (s.wg g))
def State.core (s : State) (c : Nat) : Core := mapGet s.cores c {}
def State.setCore (s : State) (c : Nat) (x : Core) : State := { s with cores := mapSet s.cores c x }
def State.modCore (s : State) (c : Nat) (f : Core → Core) : State := s.setCore c (f (s.core c))
def State.launch (s : State) (i : Nat) : Launch := mapGet s.launches i {}
def State.setLaunch (s : State) (i : Nat) (x : Launch) : State := { s with launches := mapSet s.launches i x }
def State.modLaunch (s : State) (i : Nat) (f : Launch → Launch) : State := s.setLaunch i (f (s.launch i))

/-- The next free choice among `n` allowed outcomes; the counter advances (log entry 7). -/
def State.choose (s : State) (n : Nat) : Nat × State :=
  (Config.choice s.tick % n, { s with tick := s.tick + 1 })
/-- A fresh name. -/
def State.fresh (s : State) : Nat × State := (s.nextId, { s with nextId := s.nextId + 1 })

def Warp.lane (w : Warp) (l : Nat) : Lane := mapGet w.lanes l {}
def Warp.setLane (w : Warp) (l : Nat) (x : Lane) : Warp := { w with lanes := mapSet w.lanes l x }
/-- Every lane changed by its own function. -/
def Warp.mapLanes (w : Warp) (f : Nat → Lane → Lane) : Warp :=
  { w with lanes := (List.range 32).map fun l => (l, f l (w.lane l)) }
def Warp.vreg (w : Warp) (r : Nat) : VReg := mapGet w.vregs r .v
def Warp.setVreg (w : Warp) (r : Nat) (x : VReg) : Warp := { w with vregs := mapSet w.vregs r x }
def Warp.wreg (w : Warp) (r : Nat) : Word := mapGet w.wregs r 0
def Warp.setWreg (w : Warp) (r : Nat) (x : Word) : Warp := { w with wregs := mapSet w.wregs r x }
def Warp.mask (w : Warp) (k : Nat) : Mask := mapGet w.masks k 0
def Warp.setMask (w : Warp) (k : Nat) (x : Mask) : Warp := { w with masks := mapSet w.masks k x }
def Warp.join (w : Warp) (k : Nat) : Mask := mapGet w.joins k 0
def Warp.setJoin (w : Warp) (k : Nat) (x : Mask) : Warp := { w with joins := mapSet w.joins k x }

/-- A uniform pair as a 64-bit value (R65). -/
def Warp.wpair (w : Warp) (r : Nat) : DWord := (w.wreg (r + 1)) ++ (w.wreg r)
def Warp.setWpair (w : Warp) (r : Nat) (x : DWord) : Warp :=
  (w.setWreg r (x.setWidth 32)).setWreg (r + 1) ((x >>> 32).setWidth 32)

/-- The value of a register in a lane (R97, R256). -/
def VReg.lane : VReg → Nat → Word
  | .v, _ => 0
  | .u x, _ => x
  | .a b st, l => b + BitVec.ofNat 32 l * st
  | .g xs, l => xs.getD l 0
def VReg.isG : VReg → Bool
  | .g _ => true
  | _ => false
def Warp.vlane (w : Warp) (r l : Nat) : Word := (w.vreg r).lane l
/-- A vector pair in a lane (R65). -/
def Warp.vpair (w : Warp) (r l : Nat) : DWord := (w.vlane (r + 1) l) ++ (w.vlane r l)

/-- R460: items that are written hold no error any more. -/
def Warp.mend (w : Warp) (items : List Nat) : Warp := { w with bad := w.bad.filter fun b => !items.contains b }

/-- Rows held: the vector registers tagged G (R258). -/
def Warp.rows (w : Warp) : Nat := w.vregs.countP fun e => e.2.isG

/-! ## MODE (R72) -/

def Warp.sat (w : Warp) : Bool := w.mode.getLsbD 5
def Warp.ten (w : Warp) : Flags := w.mode.extractLsb' 16 6
/-- What a write of a whole mode word stores: reserved bits zero, RM 000 and 111 as 001 (R72). -/
def modeStored (x : Word) : Word :=
  let rm := wbits x 0 3
  let m := x &&& 0x003F3F78
  if rm = 0 ∨ rm = 7 then m ||| 1 else m ||| BitVec.ofNat 32 rm
/-- The sticky bits after flags are raised (R73). -/
def modeRaise (m : Word) (f : Flags) : Word := m ||| (f.setWidth 32 <<< 8)

/-! ## The issue being made -/

/-- The fields of a prefix word (R21, R26). -/
structure Prefix where
  me : Bool
  k : Nat
  rm : Nat
  z : Bool
  q : Nat
  ws : Bool
  x : Nat
  deriving DecidableEq, Repr

def Prefix.ofWord (w : Word) : Prefix :=
  ⟨w.getLsbD 26, wbits w 23 3, wbits w 20 3, w.getLsbD 19, wbits w 12 7, w.getLsbD 11, wbits w 0 11⟩

/-- The prefix of the instruction being issued. -/
def State.prefix? (s : State) : Option Prefix := s.issue.pfx.map Prefix.ofWord
def State.pz (s : State) : Bool := match s.prefix? with | some p => p.z | none => false
def State.px (s : State) : Nat := match s.prefix? with | some p => p.x | none => 0
def State.prm (s : State) : Nat := match s.prefix? with | some p => p.rm | none => 0
/-- The issuing warp. -/
def State.cur (s : State) : Warp := s.warp s.issue.warp
def State.modCur (s : State) (f : Warp → Warp) : State := s.modWarp s.issue.warp f
/-- The effective mask E (R49); of an instruction in HOLD, with the mask as it was at its issue. -/
def State.eff (s : State) : Mask :=
  match s.prefix? with
  | some p => if p.me then s.issue.set &&& (mapGet? s.issue.kept (384 + p.k)).getD (s.cur.mask p.k) else s.issue.set
  | none => s.issue.set
def State.inE (s : State) (l : Nat) : Bool := s.eff.getLsbD l
def State.inSet (s : State) (l : Nat) : Bool := s.issue.set.getLsbD l
/-- R384: an instruction that executes once per issue acts: its E has a lane that is no helper. -/
def State.acts (s : State) : Bool := (lanesOf s.eff).any fun l => !(s.cur.lane l).helper
/-- Words of the instruction being issued (R50). -/
def State.len (s : State) : Nat := if s.issue.pfx.isSome then 2 else 1

/-- The rounding environment of the instruction: `MODE`, with RM overridden by the prefix (R27, R72). -/
def State.env (s : State) : NumEnv :=
  let m := s.cur.mode
  let dyn := (Rounding.ofBits (wbits m 0 3)).getD .rne
  ⟨(Rounding.ofBits s.prm).getD dyn, m.getLsbD 3, m.getLsbD 4, m.getLsbD 5, m.getLsbD 6⟩

/-! ## Traps: raising -/

/-- A fault record for the instruction being issued. -/
def State.record (s : State) (kind : Nat) : TrapRec :=
  { kind := kind, len2 := s.issue.pfx.isSome, widx := BitVec.ofNat 32 s.issue.pc, word := s.issue.word,
    pfx := s.issue.pfx.getD 0 }

/-- A trap becomes pending in a lane; one that is pending stays (R405; log entry 11). -/
def Lane.pend (x : Lane) (r : TrapRec) : Lane :=
  match x.trap with
  | some _ => x
  | none => { x with trap := some r }

/-- How the instruction ends for one lane of its issue set. -/
inductive LaneEnd
  /-- the word after the instruction (R50) -/
  | next
  | goto (pc : Nat)
  | stay
  /-- a trap at issue: the program counter stays (R50) -/
  | trap (r : TrapRec)
  /-- a trap after completion (R73) -/
  | after (r : TrapRec)

def Lane.finish (x : Lane) (pc len : Nat) : LaneEnd → Lane
  | .next => { x with pc := pc + len }
  | .goto t => { x with pc := t }
  | .stay => x
  | .trap r => x.pend r
  | .after r => { x with pc := pc + len }.pend r

/-- Every lane of the issue set ends the instruction its own way (R50). -/
def State.finish (s : State) (f : Nat → LaneEnd) : State :=
  let set := s.issue.set
  let pc := s.issue.pc
  let len := s.len
  s.modCur fun w => w.mapLanes fun l x => if set.getLsbD l then x.finish pc len (f l) else x

/-- The issue set goes on at the next word. -/
def State.advance (s : State) : State := s.finish fun _ => .next

/-- Every lane of the issue set (when `all`) or of E takes one trap; the others go on. -/
def State.trapAll (s : State) (r : TrapRec) : State := s.finish fun _ => .trap r
def State.trapE (s : State) (r : TrapRec) : State := s.finish fun l => if s.inE l then .trap r else .next

/-! ## Writing vector registers (R98, R102, R103, R257 to R259) -/

/-- One destination: its register, the lane values, and the compact result where every lane is in E (R102). -/
structure VWrite where
  d : Nat
  val : Nat → Word
  compact : Option VReg := none

/-- A compact A result with stride zero is written U (R102). -/
def VReg.tidy : VReg → VReg
  | .a b st => if st = 0 then .u b else .a b st
  | r => r

/-- The register after the write (R98, R102, R257). -/
def VWrite.result (x : VWrite) (old : VReg) (e set : Mask) (z : Bool) : VReg :=
  if e = allLanes then
    match x.compact with
    | some r => r.tidy
    | none => .g ((List.range 32).map x.val)
  else .g ((List.range 32).map fun l =>
    if e.getLsbD l then x.val l else if z && set.getLsbD l then 0 else old.lane l)

def Warp.write (w : Warp) (e set : Mask) (z : Bool) (xs : List VWrite) : Warp :=
  xs.foldl (fun w x => w.setVreg x.d (x.result (w.vreg x.d) e set z)) w

/-- Rows a set of writes needs: registers that become G and held no row (R259). -/
def rowsNeeded (old new : Warp) : Nat :=
  new.vregs.countP fun e => e.2.isG && !(old.vreg e.1).isG

/-- What an instruction does to its warp, beside the lanes' ends. -/
structure Effect where
  writes : List VWrite := []
  /-- flags raised in a lane of E (R73) -/
  flags : Nat → Flags := fun _ => 0
  /-- the generator state of a lane of E after the instruction -/
  gen : Option (Nat → DWord) := none
  /-- everything else -/
  post : Warp → Warp := id
  /-- lanes of E whose end is not the plain one -/
  ends : Nat → LaneEnd := fun _ => .next

/-- R103, R259: the record of the register-overflow trap. -/
def State.overflowRec (s : State) (need : Nat) : TrapRec :=
  { s.record 4 with arg1 := BitVec.ofNat 32 need, arg2 := BitVec.ofNat 32 s.cur.budget }

/-- R73: the arithmetic trap of a lane that raised an enabled flag. -/
def State.arithEnd (s : State) (f : Flags) (e : LaneEnd) : LaneEnd :=
  if f &&& s.cur.ten = 0 then e else .after { s.record 3 with flags := f, after := true }

/-- One instruction's effect on its warp: nothing but the advance when E is empty (R49); the register-overflow trap
in every lane of the issue set when its rows do not fit (R103); otherwise the writes, the flags ORed into `MODE` and
the arithmetic trap where one is enabled (R73). -/
def State.effect (s : State) (x : Effect) : State :=
  let e := s.eff
  if e = 0 then s.advance
  else
    let w := s.cur
    let w1 := w.write e s.issue.set s.pz x.writes
    if w.budget < w1.rows && !x.writes.isEmpty then s.trapAll (s.overflowRec (rowsNeeded w w1))
    else
      let fl := (lanesOf e).foldl (fun a l => a ||| x.flags l) (0 : Flags)
      let w2 := x.post w1
      let w3 := { w2 with mode := modeRaise w2.mode fl }
      let w4 := match x.gen with
        | none => w3
        | some g => w3.mapLanes fun l y => if e.getLsbD l then { y with gen := g l } else y
      (s.setWarp s.issue.warp w4).finish fun l =>
        if e.getLsbD l then s.arithEnd (x.flags l) (x.ends l) else .next

/-! ## Holding -/

/-- R43: lanes of the issue set enter HOLD on the instruction. -/
def State.holdLanes (s : State) (p : Nat → Bool) (wt : Wait) : State :=
  let set := s.issue.set
  s.modCur fun w => w.mapLanes fun l x =>
    if set.getLsbD l && p l then { x with status := .hold, wait := wt, unpended := false } else x

/-- A uniform source of an instruction that can hold: what it read as it issued (R43). -/
def State.wsrc (s : State) (r : Nat) : Word := (mapGet? s.issue.kept r).getD (s.cur.wreg r)
def State.wsrcPair (s : State) (r : Nat) : DWord := s.wsrc (r + 1) ++ s.wsrc r
/-- The place of the instruction among those that hold: the number it waits under, or the next one as it issues. -/
def State.turn (s : State) : Nat := s.issue.held.getD s.nextId
/-- The mask that the instruction's prefix reads. -/
def State.maskKept (s : State) : AMap Word := match s.prefix? with
  | some p => if p.me then [(384 + p.k, s.cur.mask p.k)] else []
  | none => []
/-- The issue set holds until the instruction's condition is met, when it is tried again with the uniform registers `rs`, and
its mask, as they were at its issue; `more` is what else it keeps, from 512 on. -/
def State.holdRetry (s : State) (rs : List Nat) (more : AMap Word := []) : State :=
  let n := s.fresh
  n.2.holdLanes (fun _ => true) (.retry n.1 s.issue.word s.issue.pfx ((rs.map fun r => (r, s.wsrc r)) ++ s.maskKept ++ more))

/-- A lane leaves HOLD or JOIN: it enters RUN, or is parked while its warp is in handler mode (R407). -/
def Lane.release (x : Lane) (handlerMode : Bool) : Lane :=
  if handlerMode && !x.handler then { x with status := .hold, parked := true, wait := .none }
  else { x with status := .run, wait := .none }

/-- R415: the issuing lanes are OUT of their region. -/
def State.markOut (s : State) : State :=
  let set := s.issue.set
  s.modCur fun w => w.mapLanes fun l x =>
    if set.getLsbD l then { x with region := { x.region with inside := false } } else x

/-! ## Taking a trap and returning from it (R405 to R409) -/

/-- The sixteen words of a fault record (R410). `frame` is the address of the warp record. -/
def TrapRec.words (r : TrapRec) (frame : DWord) : List Word :=
  let b (x : Bool) (n : Nat) : Nat := if x then 2 ^ n else 0
  let w0 := r.kind % 256 + 256 * (r.cause % 256) + 65536 * r.flags.toNat + b r.len2 22 + b r.after 23 + b r.async 24
  [BitVec.ofNat 32 w0, r.widx, r.word, r.pfx, r.addr.setWidth 32, (r.addr >>> 32).setWidth 32, r.arg1, r.arg2,
    frame.setWidth 32, (frame >>> 32).setWidth 32, 0, 0, 0, 0, 0, 0]

/-- The launch is to end for a cause (R370, R403, R408). -/
def State.endLaunch (s : State) (i cause : Nat) : State :=
  if (mapGet? s.launches i).isSome then s.modLaunch i fun x => { x with phase := .ending, causes := markSet x.causes cause } else s

/-- R406: the handler's word index, when its entry is valid. -/
def handlerEntry (tba code : DWord) (limit : Nat) : Option Nat :=
  let t := tba.toNat / 4 * 4
  if tba.getLsbD 0 && decide (code.toNat ≤ t) && decide ((t - code.toNat) / 4 < limit) then some ((t - code.toNat) / 4)
  else none

/-- Virtual address of the save block of a workgroup and of a warp's record in it (R421, R424, R427). -/
def blockAddr (save : DWord) (nlr size block : Nat) : DWord :=
  save + BitVec.ofNat 64 (0x1000 + 4096 * nlr + size * block)
def warpRecordAddr (block : DWord) (w : Nat) : DWord := block + BitVec.ofNat 64 (0x1000 + 0x8000 * w)

/-- The trap that a lane takes at an entry: one that waits at a JOIN takes none until it is released (R152, R163). -/
def Lane.taken? (x : Lane) : Option TrapRec := if x.status = .join then none else x.trap

/-- R405 step 4: a lane at the entry: one with a trap pending becomes a handler lane in RUN at the entry with its
record written; another RUN lane is parked; word 0 of the others' records is zero (R410). -/
def Lane.enterTrap (x : Lane) (entry : Nat) (frame : DWord) : Lane :=
  match x.taken? with
  | some r =>
    { x with trap := none, handler := true, parked := false, status := .run, wait := .none, trapPc := x.pc,
             trapLen2 := r.len2, record := r.words frame, pc := entry, regionBefore := x.region }
  | none =>
    let x := { x with record := x.record.set 0 0, regionBefore := x.region, unpended := x.status == .hold }
    if x.status = .run then { x with status := .hold, parked := true } else x

/-- R408: at an entry that is not valid the records are written and nothing else moves. -/
def Lane.recordTrap (x : Lane) (frame : DWord) : Lane :=
  match x.taken? with
  | some r => { x with record := r.words frame, trap := none }
  | none => { x with record := x.record.set 0 0 }

/-- R405, R406: the warp enters handler mode at a valid entry; the operand latch is emptied (R64), and the entry writes the warp's own
state anew (R460). -/
def Warp.enterHandler (w : Warp) (entry : Nat) (frame : DWord) : Warp :=
  { (w.mapLanes (fun _ x => x.enterTrap entry frame)).mend [400] with handlerMode := true, latch := [], chain := none }

/-- R409: a handler lane returns to its recorded program counter and is parked. -/
def Lane.trapReturn (x : Lane) (adv : Nat) : Lane :=
  let n := match adv with
    | 0 => 0
    | 1 => 1
    | _ => if x.trapLen2 then 2 else 1
  { x with pc := x.trapPc + n, handler := false, parked := true, status := .hold, wait := .none, sync := if n = 0 then x.sync else none }

/-- R409: handler mode ends when no handler lane is left outside parked or DONE; parked lanes return to RUN and every
lane's region state is what it was before the entry. -/
def Warp.endHandler (w : Warp) : Warp :=
  if w.handlerMode && (List.range 32).all fun l => !((w.lane l).handler && (w.lane l).status != .done && !(w.lane l).parked) then
    { w.mapLanes (fun _ x =>
        let x := { x with region := x.regionBefore, handler := false }
        if x.parked then { x with parked := false, status := .run } else x) with
      handlerMode := false, latch := [] }
  else w

end Sys2Proof.Machine
end

