-- ==== Sys2Proof/Machine/Operands.lean ====
section
/-! DEFINITION. Operand forms: how sources are read and which compact tag a result takes (R97, R99, R100, R102, R115). -/

namespace Sys2Proof.Machine

/-- What a meaning answers. -/
abbrev Res := Host.Outcome State Fault Refusal

/-- A V source reads as a U source of zero (R97, R102). -/
def VReg.norm : VReg → VReg
  | .v => .u 0
  | r => r
def VReg.isU : VReg → Bool
  | .u _ => true
  | _ => false

/-- A vector source. -/
def State.src (s : State) (r : BitVec 7) : VReg := (s.cur.vreg r.toNat).norm
/-- Source B: v(B), or w(X[7:0]) under WS (R26, R97). -/
def State.srcB (s : State) (r : BitVec 7) : VReg :=
  match s.prefix? with
  | some p => if p.ws then .u (s.cur.wreg (p.x % 256)) else s.src r
  | none => s.src r
/-- Operand c: v(Q) under a prefix, else the destination as it stands (R99). -/
def State.srcC (s : State) (d : BitVec 7) : VReg :=
  match s.prefix? with
  | some p => (s.cur.vreg p.q).norm
  | none => s.src d

/-- A 64-bit source: a pair of vector registers (R65, R100). -/
def State.srcPair (s : State) (r : BitVec 7) : VReg × VReg :=
  ((s.cur.vreg r.toNat).norm, (s.cur.vreg (r.toNat + 1)).norm)
/-- A 64-bit source B: v(B), v(B+1), or a uniform pair under WS (R114). -/
def State.srcPairB (s : State) (r : BitVec 7) : VReg × VReg :=
  match s.prefix? with
  | some p => if p.ws then (.u (s.cur.wreg (p.x % 256)), .u (s.cur.wreg (p.x % 256 + 1))) else s.srcPair r
  | none => s.srcPair r
def pairLane (p : VReg × VReg) (l : Nat) : DWord := p.2.lane l ++ p.1.lane l

/-- R102: the compact result when E has all 32 lanes. A source tagged G gives G. A row of the table that names its own
result gives `special` (none for G); otherwise U when every source is U, and G in any other case. -/
def compactOf (srcs : List VReg) (special : Option (Option VReg)) (v0 : Word) : Option VReg :=
  if srcs.any VReg.isG then none
  else match special with
    | some r => r
    | none => if srcs.all VReg.isU then some (.u v0) else none

/-! The rows of R102 that give an A result from bases and strides. -/

def tagAdd : VReg → VReg → Option (Option VReg)
  | .a b st, .u x => some (some (.a (b + x) st))
  | .u x, .a b st => some (some (.a (x + b) st))
  | .a b st, .a c tt => some (some (.a (b + c) (st + tt)))
  | _, _ => none
def tagSub : VReg → VReg → Option (Option VReg)
  | .a b st, .u x => some (some (.a (b - x) st))
  | .u x, .a b st => some (some (.a (x - b) (0 - st)))
  | .a b st, .a c tt => some (some (.a (b - c) (st - tt)))
  | _, _ => none
def tagMul : VReg → VReg → Option (Option VReg)
  | .a b st, .u x => some (some (.a (b * x) (st * x)))
  | .u x, .a b st => some (some (.a (x * b) (x * st)))
  | _, _ => none
/-- (A times U or U times A) plus U or A, or U times U plus A. -/
def tagMad (x y z : VReg) : Option (Option VReg) :=
  match x, y, z with
  | .u p, .u q, .a b st => some (some (.a (p * q + b) st))
  | .a b st, .u q, .u r => some (some (.a (b * q + r) (st * q)))
  | .u p, .a b st, .u r => some (some (.a (p * b + r) (p * st)))
  | .a b st, .u q, .a c tt => some (some (.a (b * q + c) (st * q + tt)))
  | .u p, .a b st, .a c tt => some (some (.a (p * b + c) (p * st + tt)))
  | _, _, _ => none
def tagShl : VReg → VReg → Option (Option VReg)
  | .a b st, .u k => if k.toNat < 32 then some (some (.a (b <<< k.toNat) (st <<< k.toNat))) else some (some (.u 0))
  | _, _ => none

/-- A register result computed lane by lane, without flags. -/
def State.vop (s : State) (d : BitVec 7) (srcs : List VReg) (special : Option (Option VReg)) (f : Nat → Word) : Res :=
  .next (s.effect { writes := [⟨d.toNat, f, compactOf srcs special (f 0)⟩] })

/-- A pair result: each register takes U only when every source is U, and G otherwise (R102). -/
def State.vop64 (s : State) (d : BitVec 7) (srcs : List VReg) (f : Nat → DWord) : Res :=
  let lo l : Word := (f l).setWidth 32
  let hi l : Word := (f l >>> 32).setWidth 32
  let c (v : Word) : Option VReg := if srcs.all VReg.isU then some (.u v) else none
  .next (s.effect { writes := [⟨d.toNat, lo, c (lo 0)⟩, ⟨d.toNat + 1, hi, c (hi 0)⟩] })

/-- R115: the immediate IMM8, or X[10:0]:IMM8 with a prefix, sign-extended or zero-extended. -/
def State.immS (s : State) (i : BitVec 8) : Word :=
  match s.prefix? with
  | some p => (BitVec.ofNat 19 (p.x * 256 + i.toNat)).signExtend 32
  | none => i.signExtend 32
def State.immZ (s : State) (i : BitVec 8) : Word :=
  match s.prefix? with
  | some p => (BitVec.ofNat 19 (p.x * 256 + i.toNat)).setWidth 32
  | none => i.setWidth 32

end Sys2Proof.Machine
end

