-- ==== Sys2Proof/Machine/Physical.lean ====
section
/-! DEFINITION. Physical memory beyond the slices: routing (R469), poison (R459, R478), the error log (R468). -/

namespace Sys2Proof.Machine

/-! ## Rings in physical memory (R342, R396, R401, R468) -/

def QRegs.log2n (q : QRegs) : Nat := wbits q.ctl 0 4
def QRegs.enabled (q : QRegs) : Bool := q.ctl.getLsbD 31
def QRegs.size (q : QRegs) : Nat := 2 ^ q.log2n
/-- The ring's physical address: 64-byte aligned. -/
def QRegs.base (q : QRegs) : Nat := q.baseHi.toNat * 2 ^ 32 + q.baseLo.toNat / 64 * 64
/-- A producer's ring has room for one more entry. -/
def QRegs.room (q : QRegs) : Bool := (q.tail.toNat + 1) % q.size != q.head.toNat % q.size
/-- The bits a control register of this layout stores: LOG2N 4 to 15 (the field has four bits), else EN = 0. -/
def ctlStored (v : Word) (keep : Word) : Word :=
  let x := v &&& keep
  if v.getLsbD 31 && decide (4 ≤ wbits v 0 4) then x ||| 0x80000000 else x &&& 0x7FFFFFFF

/-! ## Routing -/

/-- Where a physical address goes (R469). -/
inductive Route
  | hbm
  | peer (p : Nat)
  | cxl (n : Nat)
  | host
  | nowhere
  deriving DecidableEq, Repr

def State.cxlPort (s : State) (n : Nat) : CxlPort := mapGet s.dev.cxl n {}
/-- R472, R476: the lowest-numbered enabled decoder that holds an address, of the ports that have negotiated ID 4. -/
def State.decoder? (s : State) (pa : Nat) : Option Nat :=
  (List.range 4).find? fun n =>
    let c := s.cxlPort n
    c.ctl.getLsbD 0 && c.stat.getLsbD 1 && decide (c.base.toNat ≤ pa ∧ pa < c.base.toNat + c.size.toNat)
/-- R472, R473: an interface that both sides of a port list. -/
def State.peerHas (s : State) (p id : Nat) : Bool := bitAt (mapGet s.dev.peers p {}).caps id
def State.route (s : State) (pa : Nat) : Route :=
  match bits pa 50 2 with
  | 0 => if pa < 768 * 2 ^ 30 then .hbm else .nowhere
  | 1 =>
    let p := bits pa 45 5
    if p < 18 ∧ bits pa 40 5 = 0 ∧ (mapGet s.dev.peers p {}).up = true ∧ s.peerHas p 3 = true then .peer p else .nowhere
  | 2 => match s.decoder? pa with | some n => .cxl n | none => .nowhere
  | _ => .host
/-- R478: the port is isolated (CXLCTL.ISO). -/
def CxlPort.isolated (c : CxlPort) : Bool := c.ctl.getLsbD 6
/-- R467: the line is homed on, or stored behind, a failed die. -/
def State.homeLost (s : State) (pa : Nat) : Bool :=
  !s.dev.diesFailed.isEmpty && s.dev.diesFailed.contains (Config.lineHome (pa / 128) % 192 / 96)

/-- R459, R469, R478: a read of the byte arrives marked poisoned. -/
def State.paPoisoned (s : State) (pa : Nat) : Bool :=
  s.poison.contains (pa / 32) || s.homeLost pa ||
  match s.route pa with
  | .nowhere => true
  | .cxl n => (s.cxlPort n).isolated || (s.cxlPort n).poisoned.contains (pa / 64)
  | _ => false
/-- One byte; a poisoned one reads zero (R459). -/
def State.physRead (s : State) (pa : Nat) : Byte := if s.paPoisoned pa then 0 else memRead s.mem pa
def State.physReadN (s : State) (pa n : Nat) : List Byte := (List.range n).map fun i => s.physRead (pa + i)
def State.physNat (s : State) (pa n : Nat) : Nat := ofBytes (s.physReadN pa n)

/-- A write to the byte is performed: it has a destination that is not isolated and whose home is not lost. -/
def State.paLands (s : State) (pa : Nat) : Bool :=
  !s.homeLost pa &&
  match s.route pa with
  | .nowhere => false
  | .cxl n => !(s.cxlPort n).isolated
  | _ => true

/-- The granules of `size` bytes that addresses touch, and those that they cover whole. -/
def granules (size : Nat) (as : List Nat) : List Nat := (as.map (· / size)).eraseDups
def covered (size : Nat) (as : List Nat) : List Nat :=
  (granules size as).filter fun g => (List.range size).all fun i => as.contains (g * size + i)

def Route.isCxl : Route → Bool
  | .cxl _ => true
  | _ => false
/-- Bytes written by one access: those that land. A write with a mark marks every granule it touches, or, behind an expander, every
64-byte line; another clears the mark of the 32-byte granules, and of the expander's 64-byte lines, that it covers whole (R459, R478). -/
def State.physWrite (s : State) (cells : List (Nat × Byte)) (marked : Bool) : State :=
  let ok := cells.filter fun c => s.paLands c.1
  let as := ok.map Prod.fst
  let mem := ok.foldl (fun m c => memWrite m c.1 (if marked then 0 else c.2)) s.mem
  let poison :=
    if marked then (granules 32 (as.filter fun a => !(s.route a).isCxl)).foldl markSet s.poison
    else if s.poison.isEmpty then s.poison else (covered 32 as).foldl markClear s.poison
  let lines := if marked then [] else covered 64 as
  let cxl := if s.dev.cxl.isEmpty then s.dev.cxl
    else s.dev.cxl.map fun (e : Nat × CxlPort) =>
      let hurt := granules 64 (as.filter fun a => s.route a == .cxl e.1)
      (e.1, { e.2 with poisoned := if marked then hurt.foldl markSet e.2.poisoned else lines.foldl markClear e.2.poisoned })
  { s with mem := mem, poison := poison, dev := { s.dev with cxl := cxl } }
/-- The low `n` bytes of a number, written at a physical address. -/
def State.physPut (s : State) (pa n x : Nat) : State :=
  s.physWrite ((toBytes n x).zipIdx.map fun e => (pa + e.2, e.1)) false

/-! ## Walks (R389 to R391) -/

/-- Reasons of a failed walk, as a residency request codes them (R401). -/
inductive WalkFail | notValid | permission | malformed | order | poisoned
  deriving DecidableEq, Repr
def WalkFail.code : WalkFail → Nat
  | .notValid => 0
  | .permission => 1
  | .malformed => 2
  | .order => 3
  | .poisoned => 4

/-- An 8-byte entry of a table; none when it arrives poisoned. -/
def State.tableEntry (s : State) (pa : Nat) : Option Nat :=
  if (List.range 8).any fun i => s.paPoisoned (pa + i) then none else some (s.physNat pa 8)
def orderOf : Nat → Option OrdKind
  | 0 => some .consistent
  | 1 => some .strong
  | 2 => some .unordered
  | _ => none
def entryPage (e : Nat) : Nat := bits e 12 40
/-- R391: a leaf at a level for the page of an address. -/
def leafOf (level va e : Nat) : Except WalkFail Leaf :=
  match orderOf (bits e 4 2) with
  | some k =>
    let sub := 2 ^ (9 * level)
    if bits e 6 6 = 0 ∧ bits e 52 12 = 0 ∧ entryPage e % sub = 0 then
      .ok { ppage := entryPage e + va / 4096 % sub, r := bitAt e 2, w := bitAt e 3, order := k }
    else .error .malformed
  | none => .error .malformed
/-- R390: the walk from a table at a level; `level` counts down to 0. -/
def State.walkTable (s : State) (va : Nat) : Nat → Nat → Except WalkFail Leaf
  | level, table =>
    let idx := bits va (12 + 9 * level) (if level = 4 then 7 else 9)
    match s.tableEntry (4096 * table + 8 * idx) with
    | none => .error .poisoned
    | some e =>
      if bitAt e 0 = false then .error .notValid
      else if bitAt e 1 then (if level ≤ 2 then leafOf level va e else .error .malformed)
      else if bits e 2 10 ≠ 0 ∨ bits e 52 12 ≠ 0 then .error .malformed
      else match level with
        | 0 => .error .malformed
        | n + 1 => s.walkTable va n (entryPage e)
/-- R388, R389: the entry of the ASID table for an address. -/
def State.rootPlace (s : State) (asid va : Nat) : Nat :=
  s.dev.atBaseLo.toNat / 4096 * 4096 + 2 ^ 32 * wbits s.dev.atBaseHi 0 20 + 8 * (if bitAt va 55 then 65536 else asid)
def State.rootEntry (s : State) (asid va : Nat) : Option Nat := s.tableEntry (s.rootPlace asid va)
/-- R388, R389: the walk of an address through the tables, from its root. -/
def State.walkFresh (s : State) (asid va : Nat) : Except WalkFail Leaf :=
  match s.rootEntry asid va with
  | none => .error .poisoned
  | some e =>
    if bitAt e 0 = false then .error .notValid
    else if bits e 1 11 ≠ 0 ∨ bits e 52 12 ≠ 0 then .error .malformed
    else s.walkTable va 4 (entryPage e)

/-- R285, R388: what names a page of an address space: the ASID, or 65536 for the global region, and the virtual page. -/
def viaOf (asid va : Nat) : Nat := 2 ^ 61 + (if bitAt va 55 then 65536 else asid) * 2 ^ 44 + va / 4096 % 2 ^ 44
def viaTag (via : Nat) : Nat := via / 2 ^ 44 % 2 ^ 17
def viaPage (via : Nat) : Nat := via % 2 ^ 44
/-- R394: a walk that succeeds leaves its leaf in a TLB. The two dies hold 2,048 each. -/
def State.tlbFill (s : State) (asid va : Nat) (l : Leaf) : State :=
  { s with tlb := ((viaOf asid va, l) :: s.tlb.filter fun e => e.1 != viaOf asid va).take 4096 }
/-- R394, R399: the leaf that a walk takes from a TLB. -/
def State.tlbHit? (s : State) (asid va : Nat) : Option Leaf :=
  (s.tlb.find? fun e => e.1 == viaOf asid va).bind fun e => if Config.oldLeaf s.tick s.nextId (va / 4096) then some e.2 else none
/-- R394, R399: a walk uses a leaf that a TLB holds, or reads the tables. -/
def State.walk (s : State) (asid va : Nat) : Except WalkFail Leaf :=
  match s.tlbHit? asid va with
  | some l => .ok l
  | none => s.walkFresh asid va
/-- The entries that a walk reads, from a table on. -/
def State.tableReads (s : State) (va : Nat) : Nat → Nat → List Nat
  | level, table =>
    let a := 4096 * table + 8 * bits va (12 + 9 * level) (if level = 4 then 7 else 9)
    a :: match s.tableEntry a with
      | none => []
      | some e =>
        if bitAt e 0 = false ∨ bitAt e 1 = true ∨ bits e 2 10 ≠ 0 ∨ bits e 52 12 ≠ 0 then []
        else match level with
          | 0 => []
          | n + 1 => s.tableReads va n (entryPage e)
/-- The entries that a walk reads. -/
def State.walkReads (s : State) (asid va : Nat) : List Nat :=
  if (s.tlbHit? asid va).isSome then []
  else s.rootPlace asid va :: match s.rootEntry asid va with
    | some e => if bitAt e 0 = true ∧ bits e 1 11 = 0 ∧ bits e 52 12 = 0 then s.tableReads va 4 (entryPage e) else []
    | none => []
/-- The first address of a span in each page. -/
def spanPages (va n : Nat) : List Nat :=
  if n = 0 then [] else (List.range ((va + n + 4095) / 4096 - va / 4096)).map fun i => max va (4096 * (va / 4096 + i))

/-- R404: the page of a leaf whose V alone is clear, where a walk from a table meets one. -/
def State.clearedTable (s : State) (va : Nat) : Nat → Nat → Option Nat
  | level, table =>
    match s.tableEntry (4096 * table + 8 * bits va (12 + 9 * level) (if level = 4 then 7 else 9)) with
    | none => none
    | some e =>
      if bitAt e 1 then (if bitAt e 0 = false ∧ level ≤ 2 then some (entryPage e + va / 4096 % 2 ^ (9 * level)) else none)
      else match level with
        | 0 => none
        | n + 1 => if bitAt e 0 then s.clearedTable va n (entryPage e) else none
def State.clearedPage (s : State) (asid va : Nat) : Option Nat :=
  match s.rootEntry asid va with
  | some e => if bitAt e 0 then s.clearedTable va 4 (entryPage e) else none
  | none => none

/-! ## The error log (R468) -/

/-- One record, or one more drop. A record whose own ring has no destination is dropped without a further record. -/
def State.logError (s : State) (cls ev unit addr tag count : Nat) : State :=
  let q := s.dev.el
  if q.enabled && q.room then
    let bytes := toBytes 1 cls ++ toBytes 1 ev ++ toBytes 2 0 ++ toBytes 4 unit ++ toBytes 8 addr ++ toBytes 2 tag
      ++ toBytes 2 0 ++ toBytes 4 count ++ toBytes 8 0
    let a := q.base + 32 * (q.tail.toNat % q.size)
    let s := s.physWrite (bytes.zipIdx.map fun e => (a + e.2, e.1)) false
    { s with dev := { s.dev with el := { q with tail := BitVec.ofNat 32 ((q.tail.toNat + 1) % q.size) } } }
  else { s with dev := { s.dev with elDrop := s.dev.elDrop + 1 } }

/-- R469: an access to an address without a destination is logged: class 9, event 9, the die whose slice sent it. -/
def State.logNowhere (s : State) (asid : Nat) (as : List Nat) : State :=
  match as.find? fun a => s.route a == .nowhere with
  | some a => s.logError 9 9 (Config.lineHome (a / 128) % 192 / 96) a asid 0
  | none => s
/-- R476: CXLSTAT.PCNT counts the sectors an expander itself returns marked, and holds at 0xFFFF. -/
def State.countPoison (s : State) (as : List Nat) : State :=
  if s.dev.cxl.all fun e => e.2.poisoned.isEmpty then s
  else
    { s with dev := { s.dev with cxl := s.dev.cxl.map fun e =>
        let hit := (granules 32 as).countP fun g =>
          s.route (g * 32) == .cxl e.1 && !e.2.isolated && e.2.poisoned.contains (g / 2)
        let n := wbits e.2.stat 16 16 + hit
        (e.1, { e.2 with stat := (e.2.stat &&& 0xFFFF) ||| BitVec.ofNat 32 ((if n ≤ 0xFFFF then n else 0xFFFF) * 65536) }) } }
/-- What a read of physical bytes does beside returning them. -/
def State.noteRead (s : State) (asid : Nat) (as : List Nat) : State := (s.logNowhere asid as).countPoison as

/-- R469, R476: what a walk does beside its answer. -/
def State.walkNote (s : State) (asid va : Nat) : State :=
  s.noteRead asid ((s.walkReads asid va).flatMap fun a => (List.range 8).map (a + ·))
/-- R394: the pages of a span have been walked: their leaves are in a TLB. -/
def State.tlbNote (s : State) (asid va n : Nat) : State :=
  (spanPages va n).foldl (fun s p => match s.walk asid p with
    | .ok l => (s.walkNote asid p).tlbFill asid p l
    | .error _ => s.walkNote asid p) s

/-! ## Values that a read may still return (R37, R285, R392, R393, R470) -/

/-- A mapping's page lies in one of some ranges. -/
def inRanges (rs : List (Nat × Nat × Nat)) (via : Nat) : Bool :=
  rs.any fun r => r.1 == viaTag via && decide (r.2.1 ≤ viaPage via ∧ viaPage via < r.2.2)
/-- The bytes at some addresses are about to be written, through mappings: each word that they lie in is kept as it is. -/
def State.keepPast (s : State) (via : Nat → Nat) (as : List Nat) : State :=
  { s with hist := (granules 4 as).foldl (fun h w =>
      let p : Past := { old := BitVec.ofNat 32 (s.physNat (4 * w) 4), via := via ((as.find? fun a => a / 4 == w).getD 0) }
      let ps := mapGet h w []
      if ps.head? = some p then h else mapSet h w (p :: ps)) s.hist }
/-- R393, R398: a line of the mapping, or the line through which the word was written, may be in a cache since. -/
def Past.live (p : Past) (via : Nat) : Bool := !(inRanges p.data via && (p.via == 0 || inRanges p.data p.via))
/-- R470: where one mapping and system agents alone write: the values that memory or a cache may hold beside the last. -/
def sharedOlds : List Past → List Word
  | [] => []
  | p :: r =>
    if p.via = 0 then p.old :: ((r.takeWhile fun q => q.via == 0).map Past.old)
    else match r with
      | q :: _ => if q.via = 0 then [p.old] else []
      | [] => []
/-- What a read of a word through a mapping may return beside the word that was written last: with two mappings, any value written
through either (R285, R393); with a system agent, the value in memory or in a cache (R470). The device keeps no line of a strong page. -/
def State.pastWords (s : State) (pa via : Nat) : List Word :=
  if via = 0 ∨ s.pins.any (fun p => p.order == .strong && viaOf p.asid (4096 * p.vpage) == via) = true then []
  else
    let ps := (mapGet s.hist (pa / 4) []).filter fun p => p.live via
    if ps.any fun p => p.via != 0 && p.via != via then ps.map Past.old else sharedOlds ps
/-- R392: bytes of lines of the mapping's page that were filled when it mapped another. -/
def State.lineBytes (s : State) (pa via : Nat) : List Byte :=
  if via = 0 ∨ (mapGet s.hist (pa / 4) []).any (fun p => p.via == via) = true then []
  else (s.lines.filter fun e => e.1 == via && e.2 != pa / 4096).map fun e => s.physRead (4096 * e.2 + pa % 4096)
/-- What a read of a byte through a mapping returns. -/
def State.altByte (s : State) (pa via : Nat) : Byte :=
  let olds := (s.pastWords pa via).map (fun w => BitVec.ofNat 8 (wbits w (8 * (pa % 4)) 8)) ++ s.lineBytes pa via
  if olds.isEmpty || s.paPoisoned pa then s.physRead pa
  else (s.physRead pa :: olds).getD (Config.altValue s.tick s.nextId pa % (olds.length + 1)) 0
/-- R37: a code word as a fetch through a mapping reads it: whole, as it is or as it was before a write after which its instruction
lines have not been removed; none when it arrives poisoned. -/
def State.fetchAt (s : State) (pa via : Nat) : Option Word :=
  let now := if (List.range 4).any fun i => s.paPoisoned (pa + i) then none else some (BitVec.ofNat 32 (s.physNat pa 4))
  let olds := ((mapGet s.hist (pa / 4) []).filter fun p => !inRanges p.code via).map fun p => some p.old
  if olds.isEmpty then now else (now :: olds).getD (Config.altValue s.tick s.nextId pa % (olds.length + 1)) none
/-- The values that lines of a range may leave in memory as they are written back: those last written through a mapping of the range
before a write by another way (R393, R470). -/
def writeBacks (r : Nat × Nat × Nat) : List Past → List Word
  | p :: q :: ps => (if q.via != 0 && q.via != p.via && inRanges [r] q.via && !inRanges q.data q.via then [p.old] else []) ++ writeBacks r (q :: ps)
  | _ => []
/-- R393, R398: the data lines of a range of pages that hold a word are written back and removed. -/
def State.dropLine (s : State) (r : Nat × Nat × Nat) (w : Nat) : State :=
  let ps := mapGet s.hist w []
  let ws := writeBacks r ps
  let s := if ws.isEmpty then s else match ws[Config.altValue s.tick s.nextId w % (ws.length + 1)]? with
    | some x => s.physPut (4 * w) 4 x.toNat
    | none => s
  { s with hist := mapSet s.hist w (ps.map fun p => { p with data := r :: p.data }) }
def Workgroup.dropStale (g : Workgroup) (r : Nat × Nat × Nat) : Workgroup :=
  { g with stale := g.stale.filter fun b => !inRanges [r] (b.1 / 4096) }
def State.dropLines (s : State) (r : Nat × Nat × Nat) : State :=
  let t := (s.hist.map Prod.fst).foldl (fun s w => s.dropLine r w) s
  { t with lines := t.lines.filter fun e => !inRanges [r] e.1, wgs := t.wgs.map fun e => (e.1, e.2.dropStale r) }
/-- R37, R398: the instruction lines of a range of pages are removed. -/
def State.dropCode (s : State) (r : Nat × Nat × Nat) : State :=
  { s with hist := s.hist.map fun e => (e.1, e.2.map fun p => { p with code := r :: p.code }) }
/-- R398: the TLB entries of a range of pages are removed. -/
def State.dropTlb (s : State) (r : Nat × Nat × Nat) : State := { s with tlb := s.tlb.filter fun e => !inRanges [r] e.1 }
/-- A write by an access of an address space, through mappings, with its record when it has no destination (R469). -/
def State.sendWrite (s : State) (asid : Nat) (cells : List (Nat × Byte)) (marked : Bool) (via : Nat → Nat := fun _ => 0) : State :=
  ((s.keepPast via (cells.map Prod.fst)).physWrite cells marked).logNowhere asid (cells.map Prod.fst)

end Sys2Proof.Machine
end

