-- ==== Sys2Proof/Machine/Rings.lean ====
section
/-! DEFINITION. The scratchpad window, its poison marks, and the rings whose control block it holds (R252, R263 to R268,
R236 to R238, R459). -/

namespace Sys2Proof.Machine

/-- R263: bytes of the window. -/
def Workgroup.window (g : Workgroup) : Nat := 4096 * wbits g.part 9 9
def Workgroup.spByte (g : Workgroup) (off : Nat) : Byte := if g.spPoison.contains (off / 32) then 0 else memRead g.sp off
def Workgroup.spBytes (g : Workgroup) (off n : Nat) : List Byte := (List.range n).map fun i => g.spByte (off + i)
def Workgroup.spNat (g : Workgroup) (off n : Nat) : Nat := ofBytes (g.spBytes off n)
/-- Bytes written by one access, with a mark or without (R459). -/
def Workgroup.spPut (g : Workgroup) (cells : List (Nat × Byte)) (marked : Bool) : Workgroup :=
  let as := cells.map Prod.fst
  { g with
    sp := cells.foldl (fun m c => memWrite m c.1 (if marked then 0 else c.2)) g.sp
    spPoison := if marked then (granules 32 as).foldl markSet g.spPoison
      else if g.spPoison.isEmpty then g.spPoison else (covered 32 as).foldl markClear g.spPoison }
/-- The device's own writes to the ring block. -/
def Workgroup.poke (g : Workgroup) (off n x : Nat) : Workgroup :=
  { g with sp := memWriteN g.sp off (toBytes n x) }
/-- A read of the window by the device itself: a marked granule reads as zeros (R459). -/
def Workgroup.peek (g : Workgroup) (off n : Nat) : Nat := g.spNat off n

/-! ## Ring entries (R266) -/

def Workgroup.ringAt (g : Workgroup) (n : Nat) : Nat := g.window - 384 + 16 * n
/-- An offset lies in the ring control block. -/
def Workgroup.inRingBlock (g : Workgroup) (off : Nat) : Bool := decide (g.window ≤ off + 384 ∧ off + 256 < g.window)

structure RingCfg where
  base : Nat
  /-- slot size in bytes -/
  size : Nat
  nslot : Nat
  en : Bool
  free : Nat
  filled : Nat
  pcur : Nat
  ccur : Nat
  deriving DecidableEq, Repr

def Workgroup.ringCfg (g : Workgroup) (n : Nat) : RingCfg :=
  let a := g.ringAt n
  { base := g.peek a 4, size := 16 * g.peek (a + 4) 2, nslot := g.peek (a + 6) 1,
    en := decide (0 < g.window) && bitAt (g.peek (a + 7) 1) 7,
    free := g.peek (a + 8) 2, filled := g.peek (a + 10) 2, pcur := g.peek (a + 12) 1, ccur := g.peek (a + 13) 1 }
def Workgroup.setRing (g : Workgroup) (n free filled pcur ccur : Nat) : Workgroup :=
  let a := g.ringAt n
  (((g.poke (a + 8) 2 free).poke (a + 10) 2 filled).poke (a + 12) 1 pcur).poke (a + 13) 1 ccur
def Workgroup.ringOf (g : Workgroup) (n : Nat) : Ring := mapGet g.rings n {}
def Ring.slot (r : Ring) (i : Nat) : SlotState := mapGet r.slots i .free
/-- R266: the scratchpad address of a slot, and the slot at an address. -/
def RingCfg.addr (c : RingCfg) (i : Nat) : Nat := c.base + c.size * i
def RingCfg.slotAt? (c : RingCfg) (a : Nat) : Option Nat := (List.range c.nslot).find? fun i => c.addr i == a

/-- R237, R238: the next slot of the consumer or of the producer is taken; none while the counter is zero. -/
def Workgroup.ringTake (g : Workgroup) (n : Nat) (cons : Bool) : Option (Nat × Workgroup) :=
  let c := g.ringCfg n
  let r := g.ringOf n
  if cons then
    if c.filled = 0 then none
    else
      let g := g.setRing n c.free (c.filled - 1) c.pcur ((c.ccur + 1) % c.nslot)
      some (c.ccur, { g with rings := mapSet g.rings n { r with slots := mapSet r.slots c.ccur .consuming } })
  else
    if c.free = 0 then none
    else
      let g := g.setRing n (c.free - 1) c.filled ((c.pcur + 1) % c.nslot) c.ccur
      some (c.pcur, { g with rings := mapSet g.rings n { r with slots := mapSet r.slots c.pcur .producing } })

/-- The slots from the oldest in a state onwards, up to the cursor (R237). -/
def oldestRun (r : Ring) (st : SlotState) (nslot cur : Nat) : List Nat :=
  let back := (List.range nslot).map fun i => (cur + 2 * nslot - 1 - i) % nslot
  (back.takeWhile fun i => r.slot i == st).reverse
/-- R237, R238: a slot is released or committed; those done in slot order change state and are counted. -/
def Workgroup.ringDone (g : Workgroup) (n slot : Nat) (cons : Bool) : Workgroup :=
  let c := g.ringCfg n
  let r0 := g.ringOf n
  let r := { r0 with marked := markSet r0.marked slot }
  let st := if cons then SlotState.consuming else .producing
  let done := (oldestRun r st c.nslot (if cons then c.ccur else c.pcur)).takeWhile fun i => r.marked.contains i
  let r := { r with
    slots := done.foldl (fun m i => mapSet m i (if cons then .free else .filled)) r.slots
    marked := done.foldl markClear r.marked }
  let g := if cons then g.setRing n (c.free + done.length) c.filled c.pcur c.ccur
    else g.setRing n c.free (c.filled + done.length) c.pcur c.ccur
  { g with rings := mapSet g.rings n r }

/-! ## Waiting requests (R237, R238) -/

/-- The word is a QACQ, or a QPACQ, of ring `n`. -/
def acquireOf (n : Nat) (cons : Bool) (w : Word) : Bool :=
  w &&& 0x7FC003FF == (if cons then 0x58000000 else 0x58800000) ||| BitVec.ofNat 32 n
/-- The places of the requests that wait at ring `n` of a workgroup, for a slot of its consumer or its producer side: lanes
in QACQ or QPACQ, copy commands without a slot, and address programs. -/
def State.ringQueue (s : State) (g n : Nat) (cons : Bool) : List Nat :=
  let lanes := s.warps.flatMap fun e => if e.2.wg = g then e.2.lanes.filterMap fun x => match x.2.wait with
      | .retry q w _ _ => if x.2.status = .hold ∧ acquireOf n cons w = true then some q else none
      | _ => none
    else []
  let copies := s.flights.filterMap fun f => match f.kind with
    | .copy c => if c.wg = g ∧ c.ring = some n ∧ c.slot = none ∧ c.store = cons then some f.id else none
    | _ => none
  let progs := (s.core (s.wg g).core).flint.filterMap fun e => match e.2.waitsOn with
    | some (.slot m c q) => if e.2.owner = g ∧ m = n ∧ c = cons ∧ e.2.status = .waiting then some q else none
    | _ => none
  lanes ++ copies ++ progs
/-- No request with an earlier place waits at the ring. -/
def State.ringTurn (s : State) (g n : Nat) (cons : Bool) (turn : Nat) : Bool := (s.ringQueue g n cons).all (turn ≤ ·)

/-! ## Reconfiguration (R267) -/

/-- R267: the new configuration of an enabled ring is valid. -/
def Workgroup.ringValid (g : Workgroup) (n : Nat) : Bool :=
  let c := g.ringCfg n
  decide (c.base % 16 = 0 ∧ 1 ≤ c.nslot ∧ c.nslot ≤ 64 ∧ 16 ≤ c.size ∧ c.base + c.size * c.nslot ≤ g.window - 384)
/-- The rings a tile operation names (R201). -/
def TileOp.uses (t : TileOp) (n : Nat) : Bool :=
  let d := t.desc.getD 0 0
  wbits d 0 3 == n || wbits d 4 3 == n
/-- R267: a ring of a tile operation is reconfigured. The slots of a K-step that is under way keep their addresses; where the
ring is not enabled, the operation stops before its next K-step. -/
def TileOp.cutRing (t : TileOp) (n : Nat) (ok : Bool) : TileOp :=
  let d := t.desc.getD 0 0
  if t.inFlight && t.uses n then
    let u := { t with panels := t.panels.map fun p => { p with
      voidA := p.voidA || wbits d 0 3 == n, voidB := p.voidB || wbits d 4 3 == n } }
    if ok then u else { u with inFlight := t.panels.isSome, stopped := some n }
  else t
/-- R90, R91: a tile operation that has completed raises IV where one of its products did: in the lanes of E of its TMMA that
have not ended, in `MODE` of their warp and as the arithmetic trap where it is enabled (R73; log entry 68). -/
def State.raiseTile (s : State) (op : TileOp) : State :=
  if op.iv && !op.inFlight then
    s.modWarp op.warp fun w => { w.mapLanes fun l x =>
        if op.lanes.getLsbD l && x.status != .done && flIV &&& w.ten != 0 then x.pend op.report else x with
      mode := modeRaise w.mode flIV }
  else s
def HeldSlot.cut (running : Bool) (h : AMap HeldSlot) (n : Nat) : AMap HeldSlot :=
  if running then h.map fun e => if e.1 = n then (e.1, { e.2 with void := true }) else e else mapErase h n

def Flight.cutRing (f : Flight) (g n : Nat) : Flight :=
  match f.kind with
  | .copy c => if c.wg = g ∧ c.ring = some n ∧ c.slot.isSome = true then { f with kind := .copy { c with void := true } } else f
  | _ => f
def FlintSlot.cutRing (p : FlintSlot) (g n : Nat) : FlintSlot :=
  if p.owner = g then
    let live := p.status == .running || p.status == .waiting
    { p with prod := HeldSlot.cut live p.prod n, cons := HeldSlot.cut live p.cons n }
  else p

/-- The number under which a lane holds in QACQ or QPACQ of ring `n`. -/
def Lane.acquiring? (x : Lane) (n : Nat) : Option Nat := match x.wait with
  | .retry q w _ _ => if x.status = .hold ∧ (acquireOf n true w || acquireOf n false w) = true then some q else none
  | _ => none
/-- R267: a lane that holds in QACQ or QPACQ takes the ring fault; one outside the E of the instruction goes on past it. -/
def Lane.ringFails (x : Lane) (n l : Nat) (handlerMode : Bool) : Lane := match x.wait with
  | .retry _ w p kept =>
    let y := x.release handlerMode
    let inE := match p.map Prefix.ofWord with
      | some f => !f.me || ((mapGet? kept (384 + f.k)).getD allLanes).getLsbD l
      | none => true
    if inE then y.pend { kind := 15, len2 := p.isSome, widx := BitVec.ofNat 32 x.pc, word := w, pfx := p.getD 0, arg1 := BitVec.ofNat 32 n }
    else { y with pc := x.pc + if p.isSome then 2 else 1 }
  | _ => x
/-- R267, R295: the lanes of a warp that hold on a disabled ring leave HOLD; each instruction's acquire stands as after its fault. -/
def State.failWaiters (s : State) (w n : Nat) : State :=
  let x := s.warp w
  let waits l := (x.lane l).acquiring? n
  let qs := ((List.range 32).filterMap waits).eraseDups
  let s := qs.foldl (fun (s : State) q =>
    let f : Flight := { id := s.nextId, warp := w, wg := x.wg, lane := 0, set := maskOf fun l => waits l == some q, group := s.nextId
                        kind := .fence true false false false false, scope := 2 }
    { s with nextId := s.nextId + 1, flights := s.flights ++ [f] }) s
  if qs.isEmpty then s
  else s.modWarp w fun x => x.mapLanes fun l y => if (y.acquiring? n).isSome then y.ringFails n l x.handlerMode else y

/-- R267: word 1 of entry `n` was written: the ring is validated and reset, and holders of its old slots go on with
commits and releases void. Warps that wait on it try again and meet the new configuration, or take the ring fault at once. -/
def State.reconfigure (s : State) (g n : Nat) : State :=
  let w := s.wg g
  let a := w.ringAt n
  let w := w.poke (a + 7) 1 (if bitAt (w.peek (a + 7) 1) 7 then 128 else 0)
  let en := bitAt (w.peek (a + 7) 1) 7
  let ok := en && w.ringValid n
  let old := w.tags
  let w := if ok then w.setRing n (w.ringCfg n).nslot 0 0 0 else w.poke (a + 7) 1 0
  let w := { w with
    rings := mapSet w.rings n {}
    tags := w.tags.map fun e => (e.1, e.2.cutRing n ok) }
  let s := old.foldl (fun s e => if e.2.inFlight then s.raiseTile (e.2.cutRing n ok) else s) (s.setWg g w)
  let s := { s with flights := s.flights.map (Flight.cutRing · g n) }
  let s := if ok then s else (s.warps.filter fun e => e.2.wg == g).foldl (fun s e => s.failWaiters e.1 n) s
  s.modCore w.core fun c => { c with flint := c.flint.map fun (e : Nat × FlintSlot) => (e.1, e.2.cutRing g n) }

/-- A store to the window of a workgroup: words 2 and 3 of a ring entry ignore it, and word 1 reconfigures (R267). -/
def State.spStore (s : State) (g : Nat) (cells : List (Nat × Byte)) (marked : Bool) : State :=
  let w := s.wg g
  let kept := cells.filter fun c => !(w.inRingBlock c.1 && decide (8 ≤ (c.1 + 384 - w.window) % 16))
  let hit := (List.range 8).filter fun n =>
    kept.any fun c => decide (w.ringAt n + 4 ≤ c.1 ∧ c.1 < w.ringAt n + 8 ∧ 0 < w.window)
  hit.foldl (fun s n => s.reconfigure g n) (s.setWg g (w.spPut kept marked))

/-- R267. -/
def execRingReconfigure (wg ring : Nat) (s : State) : Host.Outcome State Fault Refusal :=
  .next (if (s.wg wg).window = 0 then s else s.reconfigure wg (ring % 8))

end Sys2Proof.Machine
end

