-- ==== Sys2Proof/Machine/Memory.lean ====
section
/-! DEFINITION. Virtual addresses, leases and the faults of one lane's access (R157 to R160, R388, R395, R402, R403), the
order in which accesses are performed (10), and their performance at the core and at the home. -/

namespace Sys2Proof.Machine

/-! ## Leases and pins -/

/-- The kinds of a lease, with their numbers in a record (R350, R411). -/
inductive Acc | r | w | a
  deriving DecidableEq, Repr
def Acc.code : Acc → Nat
  | .r => 1
  | .w => 2
  | .a => 4
def Acc.bit : Acc → Nat
  | .r => 0
  | .w => 1
  | .a => 2

/-- R350: a lease entry that is well-formed; one that is not grants nothing. -/
def leaseWf (e : DWord × DWord) : Bool :=
  decide (e.1.toNat % 4096 = 0 ∧ bits e.2.toNat 0 52 ≠ 0 ∧ bits e.2.toNat 0 52 % 4096 = 0 ∧ e.2.toNat < 2 ^ 55)
/-- The range grants the kind for `n` bytes from an address. -/
def leaseHolds (e : DWord × DWord) (k : Acc) (va n : Nat) : Bool :=
  leaseWf e && bitAt e.2.toNat (52 + k.bit) &&
    decide (e.1.toNat ≤ va ∧ va + n ≤ e.1.toNat + bits e.2.toNat 0 52)
/-- R160: each byte is tested on its own. -/
def Launch.grants (x : Launch) (k : Acc) (va n : Nat) : Bool :=
  (List.range n).all fun i => x.desc.leases.any fun e => leaseHolds e k (va + i) 1
/-- R240: one range holds the whole span. -/
def Launch.grantsSpan (x : Launch) (k : Acc) (va n : Nat) : Bool := x.desc.leases.any fun e => leaseHolds e k va n

/-- R388, R402: the pinned page of an address in an address space; the global region has one root for all. -/
def State.pin? (s : State) (asid va : Nat) : Option Pin :=
  s.pins.find? fun p => p.vpage == va / 4096 && (bitAt va 55 || p.asid == asid)
/-- R402: the physical page of a pinned one, as its access uses it. Where the driver has changed its leaf, or an entry on its
path, against the rule, each access uses the old page, or what a walk finds now: the new one, or none. A leaf of which only V has
been cleared, as a move of the page begins, keeps the old page (R404; log entry 26). -/
def State.pageOf (s : State) (asid va : Nat) (p : Pin) : Option Nat :=
  if s.dev.atCtl.getLsbD 0 then
    let new := match s.walkFresh asid va with
      | .ok l => some l.ppage
      | .error _ => none
    if new = some p.ppage ∨ s.clearedPage asid va = some p.ppage ∨ Config.oldLeaf s.tick s.nextId (va / 4096) = true then some p.ppage else new
  else some p.ppage
/-- Where a virtual byte lies. -/
def State.placeAt (s : State) (asid va : Nat) : Place :=
  match s.pin? asid va with
  | some p => match s.pageOf asid va p with
    | some g => .mem (g * 4096 + va % 4096) (viaOf asid va)
    | none => .gone
  | none => .gone
/-- Where some virtual bytes lie: one look at the tables for the bytes of one page. -/
def State.placesAt (s : State) (asid va n : Nat) : List Place :=
  if va / 4096 = (va + n - 1) / 4096 then
    match s.placeAt asid va with
    | .mem a v => (List.range n).map fun i => .mem (a + i) v
    | p => List.replicate n p
  else (List.range n).map fun i => s.placeAt asid (va + i)
/-- R291, R395: the ordering kind of an access: the strongest among its bytes. -/
def State.orderAt (s : State) (asid va n : Nat) : OrdKind :=
  let ks := (List.range n).map fun i => match s.pin? asid (va + i) with
    | some p => p.order
    | none => .consistent
  if ks.contains .strong then .strong else if ks.contains .consistent then .consistent else .unordered
/-- R412, R421: a byte of the context's save area. -/
def State.inSave (s : State) (asid va : Nat) : Bool :=
  s.pins.any fun p => p.saveArea && p.vpage == va / 4096 && (bitAt va 55 || p.asid == asid)

def State.inSaveSpan (s : State) (asid va n : Nat) : Bool :=
  s.pins.any fun p => p.saveArea && decide (va < 4096 * (p.vpage + 1) ∧ 4096 * p.vpage < va + n) && (bitAt va 55 || p.asid == asid)

def State.placePoisoned (s : State) : Place → Bool
  | .sp g off => (s.wg g).spPoison.contains (off / 32)
  | .mem pa _ => s.paPoisoned pa
  | .gone => true
def State.placeByte (s : State) : Place → Byte
  | .sp g off => (s.wg g).spByte off
  | .mem pa via => s.altByte pa via
  | .gone => 0
def physOf (ps : List Place) : List Nat := ps.filterMap fun p => match p with
  | .mem pa _ => some pa
  | _ => none
/-- R285: a byte's location, as the L1 or the scratchpad port of a workgroup names it. -/
def Place.loc? (wg : Nat) : Place → Option Nat
  | .sp g off => if g = wg then some (2 ^ 80 + off) else none
  | .mem pa via => some (via * 4096 + pa % 4096)
  | .gone => none
/-- The ordering kind of the page that a mapping names. -/
def State.viaKind (s : State) (via : Nat) : OrdKind := match s.pins.find? fun p => viaOf p.asid (4096 * p.vpage) == via with
  | some p => p.order
  | none => .consistent
def State.asidOf (s : State) (w : Nat) : Nat := (s.launch (s.warp w).launch).asid

/-- Bytes written by one access, wherever they lie. -/
def State.putBytes (s : State) (asid : Nat) (cells : List (Place × Byte)) (marked : Bool) : State :=
  let mem := cells.filterMap fun c => match c.1 with
    | .mem pa via => some (pa, via, c.2)
    | _ => none
  let wgs := (cells.filterMap fun c => match c.1 with
    | .sp g _ => some g
    | _ => none).eraseDups
  let via (pa : Nat) : Nat := ((mem.find? fun c => c.1 == pa).map fun c => c.2.1).getD 0
  let s := if mem.isEmpty then s else s.sendWrite asid (mem.map fun c => (c.1, c.2.2)) marked via
  wgs.foldl (fun s g => s.spStore g (cells.filterMap fun c => match c.1 with
    | .sp h off => if h = g then some (off, c.2) else none
    | _ => none) marked) s
/-- The low `n` bytes of a number, written at virtual addresses by the device itself. -/
def State.vput (s : State) (asid va n x : Nat) : State :=
  s.putBytes asid ((toBytes n x).zipIdx.map fun e => (s.placeAt asid (va + e.2), e.1)) false
def State.vputs (s : State) (asid va : Nat) (bs : List Byte) : State :=
  s.putBytes asid (bs.zipIdx.map fun e => (s.placeAt asid (va + e.2), e.1)) false
def State.vgetN (s : State) (asid va n : Nat) : List Byte := (s.placesAt asid va n).map s.placeByte
def State.vget (s : State) (asid va n : Nat) : Nat := ofBytes (s.vgetN asid va n)
/-- What a read by the device itself of virtual addresses does beside returning them (R469, R476). -/
def State.vnote (s : State) (asid va n : Nat) : State :=
  let t := s.logNowhere asid (physOf ((spanPages va n).map (s.placeAt asid)))
  if t.dev.cxl.all fun e => e.2.poisoned.isEmpty then t else t.countPoison (physOf (t.placesAt asid va n))
/-- No byte of a span arrives poisoned: seen from what can poison one at all. -/
def State.spanClean (s : State) (asid va n : Nat) : Bool :=
  s.poison.isEmpty && s.dev.cxl.isEmpty && s.dev.diesFailed.isEmpty && (spanPages va n).all fun a => !s.placePoisoned (s.placeAt asid a)
/-- The pieces of `size` bytes of a span that arrive poisoned. -/
def State.hurtPieces (s : State) (asid va n size : Nat) : List Nat :=
  if s.spanClean asid va n then []
  else (List.range ((n + size - 1) / size)).filter fun i => (s.placesAt asid (va + size * i) (min size (n - size * i))).any s.placePoisoned

/-! ## The save area's addresses (R421, R424, R427) -/

def State.saveNlr (s : State) (x : Launch) : Nat := s.vget x.asid x.save.toNat 2
def State.saveNwb (s : State) (x : Launch) : Nat := s.vget x.asid (x.save.toNat + 4) 4
def State.saveSize (s : State) (x : Launch) : Nat := s.vget x.asid (x.save.toNat + 8) 4
def State.blockVa (s : State) (x : Launch) (block : Nat) : DWord := blockAddr x.save (s.saveNlr x) (s.saveSize x) block
/-- The virtual address of a warp's record, which is its trap frame. -/
def State.frameVa (s : State) (w : Nat) : DWord :=
  let y := s.warp w
  warpRecordAddr (s.blockVa (s.launch y.launch) (s.wg y.wg).block) y.index

/-! ## The checks of one lane's access -/

/-- R160, R412: the lease grants the access; a save area is open to LD and ST, the lanes' instructions of class 0x6, of a handler lane to
its own warp record. -/
def State.granted (s : State) (lane : Nat) (k : Acc) (va n : Nat) : Bool :=
  let x := s.launch s.cur.launch
  if (List.range n).any fun i => s.inSave x.asid (va + i) then
    let f := (s.frameVa s.issue.warp).toNat
    (s.cur.lane lane).handler && k != .a && wbits s.issue.word 27 4 == 6 && wbits s.issue.word 22 9 != 210 && decide (f ≤ va ∧ va + n ≤ f + 0x8000)
  else x.grants k va n

/-- What the checks of a lane's access answer. -/
inductive Check
  | ok (places : List Place) (page : OrdKind) (ea : DWord)
  | bad (r : TrapRec)
def Check.isOk : Check → Bool
  | .ok .. => true
  | .bad _ => false
def Check.lend : Check → LaneEnd
  | .ok .. => .next
  | .bad r => .trap r

def State.alignFault (s : State) (ea : DWord) : TrapRec := { s.record 5 with addr := ea }
def State.addrFault (s : State) (cause : Nat) (ea : DWord) : TrapRec := { s.record 6 with cause := cause, addr := ea }
def State.leaseFault (s : State) (k : Acc) (ea : DWord) : TrapRec :=
  { s.record 7 with addr := ea, arg1 := BitVec.ofNat 32 k.code }

/-- R157, R159, R160: a global access of `n` bytes by a lane. -/
def State.checkGlobal (s : State) (k : Acc) (n : Nat) (aligned : Bool) (lane : Nat) (ea : DWord) : Check :=
  let asid := (s.launch s.cur.launch).asid
  if aligned && decide (ea.toNat % n ≠ 0) then .bad (s.alignFault ea)
  else if 2 ^ 56 < ea.toNat + n then .bad (s.addrFault 0 ea)
  else if s.granted lane k ea.toNat n then .ok (s.placesAt asid ea.toNat n) (s.orderAt asid ea.toNat n) ea
  else .bad (s.leaseFault k ea)
/-- R158, R159, R267: a scratchpad access of `n` bytes; an atomic in the ring block has no address. -/
def State.checkPad (s : State) (atomic : Bool) (n : Nat) (aligned : Bool) (sa : Nat) : Check :=
  let g := s.wg s.cur.wg
  let a := BitVec.ofNat 64 sa
  if aligned && decide (sa % n ≠ 0) then .bad (s.alignFault a)
  else if g.window < sa + n then .bad (s.addrFault 1 a)
  else if atomic && g.inRingBlock sa then .bad (s.addrFault 3 a)
  else .ok ((List.range n).map fun i => .sp s.cur.wg (sa + i)) .consistent a

/-- R12, R157: a global access at an address that is computed exactly, with no alignment of its own. -/
def State.checkExact (s : State) (k : Acc) (n lane a : Nat) : Check :=
  if 2 ^ 56 < a + n then .bad (s.addrFault 0 (BitVec.ofNat 64 a)) else s.checkGlobal k n false lane (BitVec.ofNat 64 a)
/-- R157, R158, R170: the addresses of a lane, with an offset already scaled. -/
def State.globalEa (s : State) (wb va lane ofs : Nat) : DWord :=
  s.cur.wpair (2 * wb) + ((s.cur.vreg va).norm.lane lane).setWidth 64 + BitVec.ofNat 64 ofs
def State.padSa (s : State) (wb va lane ofs : Nat) : Nat :=
  (s.cur.wreg (2 * wb) + (s.cur.vreg va).norm.lane lane + BitVec.ofNat 32 ofs).toNat

/-! ## Accesses on their way -/

/-- R29: the ordering and the scope that the prefix gives. -/
def State.ordBits (s : State) : Nat := bits s.px 9 2
def State.scopeBits (s : State) : Nat := match s.prefix? with | some _ => bits s.px 6 3 | none => 5
def acquires (ord : Nat) : Bool := ord == 1 || ord == 3
def releases (ord : Nat) : Bool := 2 ≤ ord
/-- R292, R293: the scopes from the gang on, at which agents meet at a location's home. -/
def wideScope (scope : Nat) : Bool := 3 ≤ scope

/-- An access of a lane by the instruction being issued, with no ordering of its own. -/
def State.flight (s : State) (lane la group : Nat) (kind : FlightKind) : Flight :=
  { id := 0, warp := s.issue.warp, wg := s.cur.wg, lane := lane, set := s.issue.set, who := maskOf (· == lane),
    group := group, kind := kind, windows := [(lane, la)], pc := s.issue.pc, word := s.issue.word,
    pfx := s.issue.pfx.getD 0 }
def State.addFlight (s : State) (f : Flight) : State :=
  let n := s.fresh
  { n.2 with flights := n.2.flights ++ [{ f with id := n.1 }] }
/-- R164, R173, R289: ORD as written, on a strong page the page's rule, on an unordered page none. -/
def Flight.ordered (f : Flight) (page : OrdKind) (ord scope : Nat) (read write : Bool) (ea : DWord) : Flight :=
  match page with
  | .strong => { f with page := .strong, acq := read, rel := write, scope := 6, ea := ea }
  | .unordered => { f with page := .unordered, scope := scope, ea := ea }
  | .consistent => { f with acq := acquires ord, rel := releases ord, scope := scope, ea := ea }

def State.flight? (s : State) (id : Nat) : Option Flight := s.flights.find? fun f => f.id == id
def State.dropFlight (s : State) (id : Nat) : State := { s with flights := s.flights.filter fun f => f.id != id }
def State.setFlight (s : State) (f : Flight) : State :=
  { s with flights := s.flights.map fun g => if g.id = f.id then f else g }

/-- A scratchpad range of a workgroup. -/
def padPlaces (g off n : Nat) : List Place := (List.range n).map fun i => .sp g (off + i)
def Place.isPad : Place → Bool
  | .sp .. => true
  | _ => false
/-- Two bytes of one 32-byte granule (R459). -/
def sameGranule (p q : Place) : Bool :=
  match p, q with
  | .mem a _, .mem b _ => a / 32 == b / 32
  | .sp g a, .sp h b => g == h && a / 32 == b / 32
  | _, _ => false
/-- The scratchpad address at which a copy's data starts, once it is known. -/
def CopyCmd.start? (c : CopyCmd) : Option Nat :=
  match c.ring, c.slot with
  | none, _ => some c.sbase
  | some _, some x => some x.2
  | some _, none => none
/-- The bytes an access reads or writes. -/
def Flight.places (f : Flight) : List Place :=
  match f.kind with
  | .load ps .. => ps
  | .store ps _ => ps.flatten.map Prod.fst
  | .atomic ps .. => ps
  | .rawMerge ps _ => ps
  | .valueAdd ps .. => ps
  | .put t bs _ _ _ => bs.map fun b => .sp t b.1
  | .copy c => (c.elems.flatMap Prod.fst) ++ match c.start? with
    | some a => c.elems.flatMap fun e => padPlaces c.wg (a + e.2) e.1.length
    | none => []
  | _ => []
def Flight.isLoad (f : Flight) : Bool := match f.kind with
  | .load .. => true
  | _ => false
def Flight.isAtomic (f : Flight) : Bool := match f.kind with
  | .atomic .. => true
  | _ => false
def Flight.isCopy (f : Flight) : Bool := match f.kind with
  | .copy _ => true
  | _ => false
/-- An access of memory (as against a request to a section's home, or an ordering point without an access). -/
def Flight.memory (f : Flight) : Bool := match f.kind with
  | .ordReq .. => false
  | .ordLeave .. => false
  | .launchCopy .. => false
  | .fence .. => false
  | .veil _ => false
  | _ => true
def Flight.reads (f : Flight) : Bool := match f.kind with
  | .store .. => false
  | .put .. => false
  | _ => f.memory
def Flight.writes (f : Flight) : Bool := match f.kind with
  | .load .. => false
  | .ordLeave .. => true
  | _ => f.memory
def overlaps (a b : List Place) : Bool := a.any fun p => b.contains p

/-! ## When an access may be performed (10) -/

/-- R293: a store to global memory is performed at its core and then at its home; in a scratchpad the two coincide. -/
def Flight.staged (f : Flight) : Bool := match f.kind with
  | .store ps _ => ps.any fun c => c.any fun b => !b.1.isPad
  | _ => false
/-- Performed at its core and not yet at its home. -/
def Flight.atCore (f : Flight) : Bool := f.staged && f.coreAt.isSome
/-- The next stage of an access is its core. -/
def Flight.toCore (f : Flight) : Bool := f.staged && f.coreAt.isNone
/-- R293: a load that returns only what is performed at a home. -/
def Flight.homeLoad (f : Flight) : Bool := f.isLoad && (f.page == .strong || (f.acq && wideScope f.scope))
/-- A load that may return a store of its workgroup performed at the core. -/
def Flight.coreLoad (f : Flight) : Bool := f.isLoad && !f.homeLoad

/-- The program of an access: a warp's, or that of an address program's slot. -/
def Flight.program (f : Flight) : Nat × Option (Nat × Nat) := match f.kind with
  | .copy c => (f.warp, c.flint.map fun e => (e.1, e.2.1))
  | _ => (f.warp, none)
/-- R162, R287: access `g` of the same program, issued earlier, comes before the next stage of `f`: they meet at a byte. The loads,
or the atomics, of one instruction that meet are performed together. -/
def Flight.before (g f : Flight) : Bool :=
  g.program == f.program && !(g.group == f.group && (g.isLoad && f.isLoad || g.isAtomic && f.isAtomic)) && !(g.atCore && (f.coreLoad || f.toCore)) &&
    overlaps g.places f.places
/-- R287: the stores of a workgroup to a byte reach its home in the order in which they reached the core, and before any access
that is performed at the home alone. -/
def Flight.coreBefore (g f : Flight) : Bool :=
  g.wg == f.wg && g.atCore && !f.coreLoad && !f.toCore &&
    (match g.coreAt, f.coreAt with
     | some a, some b => decide (a < b)
     | _, _ => true) && overlaps g.places f.places
/-- R289: strong accesses of one agent, one at a time; a copy command is an agent of its own. -/
def Flight.strongBefore (g f : Flight) : Bool :=
  g.page == .strong && f.page == .strong && g.warp == f.warp && !g.isCopy && !f.isCopy && (g.who &&& f.who) != 0
/-- A write of CPACK or CUNPK (R217, R218): the only stores on their way that an instruction of class 0x9 makes. -/
def Flight.tileStore (f : Flight) : Bool := wbits f.word 27 4 == 9 && match f.kind with
  | .store .. => true
  | _ => false
/-- All bytes of the access, those that it has written already among them. -/
def Flight.span (f : Flight) : List Place := if f.whole.isEmpty then f.places else f.whole
/-- R219: two writes of one tile by CPACK or CUNPK come one after the other. -/
def Flight.tileBefore (g f : Flight) : Bool := g.tileStore && f.tileStore && g.group != f.group && overlaps g.span f.span
/-- R295, R296: an access that a release of an issue set covers. -/
def Flight.covered (g : Flight) (warp : Nat) (set : Mask) : Bool :=
  g.memory && g.warp == warp && ((g.who ||| g.heirs) &&& set) != 0 && g.page != .unordered && !g.isCopy
/-- R296: performed at the stage that a scope requires. Every lane of a warp reads the warp's earlier writes (R162), so that at warp
scope the covered reads alone are waited for. -/
def Flight.settled (g : Flight) (scope : Nat) : Bool := (scope == 1 && !g.reads) || (g.atCore && !wideScope scope)
/-- R297: the acquire `g`, issued earlier, is still to be performed before `f`; a copy without ACQ does not wait (R301), and a
copy's own acquire is its first read. -/
def Flight.acquiresBefore (g f : Flight) : Bool :=
  g.acq && g.scope != 0 && g.warp == f.warp && g.group != f.group && (g.set &&& f.who) != 0 && f.page != .unordered &&
    (match g.kind with
     | .copy c => !c.begun
     | _ => true) &&
    match f.kind with
    | .copy c => c.acq
    | _ => f.memory
/-- R298: the fence `g`, issued earlier, holds `f` back. One that stands half done, at gang or die scope, holds back writes alone. -/
def Flight.fenceBefore (g f : Flight) : Bool :=
  match g.kind with
  | .fence a r all sc done =>
    g.warp == f.warp && (g.set &&& f.who) != 0 && (all || f.page != .unordered) &&
      (match f.kind with
       | .copy c => c.acq
       | _ => f.memory || f.writes) && ((sc && g.soft == 0) || (a && !done) || (r && f.writes))
  | _ => false
/-- The accesses issued before one. -/
def State.earlier (s : State) (id : Nat) : List Flight := s.flights.takeWhile fun g => g.id != id
/-- R296, R300: a store of a workgroup that stands at its core. A release from the gang on waits for all of them, since what
happens before it may have been read there. -/
def State.coreStores (s : State) (wg : Nat) (all : Bool) : Bool :=
  s.flights.any fun g => g.wg == wg && g.atCore && (all || g.page != .unordered)
/-- R296: what a release at a scope covers, among some accesses, is performed at the stage that the scope requires. -/
def State.released (s : State) (gs : List Flight) (wg warp : Nat) (set : Mask) (scope : Nat) : Bool :=
  scope == 0 || (gs.all (fun g => !g.covered warp set || g.settled scope) && !(wideScope scope && s.coreStores wg false))

/-- R292: a workgroup's agents lie in the scope instance of another's. -/
def State.inScope (s : State) (scope wg other : Nat) : Bool :=
  match scope with
  | 0 => wg == other
  | 1 => wg == other
  | 2 => wg == other
  | 3 => (s.wg wg).launch == (s.wg other).launch && (s.wg wg).gang == (s.wg other).gang
  | 4 => (s.wg wg).core / 96 == (s.wg other).core / 96
  | _ => true
/-- R292: scopes whose instances leave out other agents that read the same homes: gang and die. -/
def partScope (scope : Nat) : Bool := scope == 3 || scope == 4
/-- R296: nothing holds back the writes of an access as those of a release, or as writes after a fence. -/
def State.unveiled (s : State) (g : Flight) : Bool :=
  let es := s.earlier g.id
  es.all (fun h => !h.fenceBefore g) && (!g.rel || s.released es g.wg g.warp g.set g.scope)
/-- R296: the write `g`, performed ahead of what a release at gang or die scope covers, may not be read yet by the agents in that scope. -/
def State.veils (s : State) (g f : Flight) : Bool :=
  g.soft != 0 && s.inScope g.soft g.wg f.wg && match g.kind with
    | .veil ps => overlaps ps f.places
    | .store .. => g.atCore && overlaps g.places f.places
    | _ => false
def State.veiled (s : State) (f : Flight) : Bool := f.reads && s.flights.any fun g => s.veils g f
/-- An access may be performed at its next stage now: with all that an earlier fence or its own release holds back (R296, R298), or
`ahead` of it where only the agents of a gang or a die would see the difference. -/
def State.mayPerform (s : State) (ahead : Bool) (f : Flight) : Bool :=
  let es := s.earlier f.id
  es.all (fun g => !(g.before f || g.tileBefore f)) && s.flights.all (fun g => !g.coreBefore f) && !s.veiled f &&
    (f.atCore || (es.all (fun g => !(g.strongBefore f || g.acquiresBefore f || (g.fenceBefore f && !(ahead && g.soft != 0)))) &&
      (!f.rel || s.released es f.wg f.warp f.set (if ahead && partScope f.scope then 2 else f.scope))))
/-- An access may be performed at its next stage now. -/
def State.canPerform (s : State) (f : Flight) : Bool := s.mayPerform false f
/-- R296: the scope whose agents may not read a write yet that is performed ahead; 0 for one that cannot be. -/
def State.aheadScope (s : State) (f : Flight) : Nat :=
  let ok := f.places.all (fun p => !p.isPad) && match f.kind with
    | .store ps _ => decide (ps.length ≤ 1)
    | .atomic .. => true
    | _ => false
  if ok && !s.canPerform f && s.mayPerform true f then
    ((s.earlier f.id).filter fun g => g.fenceBefore f).foldl (fun m g => max m g.soft) (if f.rel && partScope f.scope then f.scope else 0)
  else 0

/-! ## What a read returns (R293, R300) -/

/-- The store of a workgroup at its core that holds a byte: the latest at the core. -/
def State.coreByte? (s : State) (wg : Nat) (p : Place) : Option (Byte × Bool) :=
  let hit := s.flights.foldl (fun (a : Option (Nat × Byte × Bool)) g =>
    if g.wg == wg && g.atCore then
      match g.kind, g.coreAt with
      | .store ps bad, some n => match ps.flatten.find? fun b => b.1 == p with
        | some b => match a with
          | some x => if x.1 < n then some (n, b.2, bad.any (sameGranule p)) else a
          | none => some (n, b.2, bad.any (sameGranule p))
        | none => a
      | _, _ => a
    else a) none
  hit.map Prod.snd
/-- R293: a byte as a workgroup sees it where no store of its own stands at the core: an older value that its L1 or its port still
gives, or the byte at its home. -/
def State.oldByte (s : State) (wg : Nat) (p : Place) : Byte × Bool :=
  match (p.loc? wg).bind (mapGet? (s.wg wg).stale) with
  | some b => (b, false)
  | none => (s.placeByte p, s.placePoisoned p)
/-- R293: what a plain read of a byte by a workgroup returns, and whether it arrives poisoned. -/
def State.viewByte (s : State) (wg : Nat) (p : Place) : Byte × Bool :=
  match p with
  | .sp .. => s.oldByte wg p
  | .gone => (0, true)
  | .mem .. =>
    match s.coreByte? wg p with
    | some (b, m) => if m || s.placePoisoned p then (0, true) else (b, false)
    | none => s.oldByte wg p
def State.view (s : State) (wg : Nat) (ps : List Place) : List Byte × Bool :=
  let r := ps.map (s.viewByte wg)
  (r.map Prod.fst, r.any Prod.snd)
/-- R290, R293, R303: an older value that reads after an acquire at a scope may still return: of global memory up to the workgroup, and
of unordered pages, which only `FENCE.AR` and `FENCE.SC` order (`all`). -/
def State.outlives (s : State) (scope : Nat) (all : Bool) (loc : Nat) : Bool :=
  decide (loc < 2 ^ 80) && (!wideScope scope || (!all && s.viaKind (loc / 4096) == .unordered))
/-- R293: an acquire by an issue set of a workgroup. -/
def State.refresh (s : State) (wg scope : Nat) (all : Bool := false) : State :=
  if (s.wg wg).stale.isEmpty then s
  else s.modWg wg fun g => { g with stale := g.stale.filter fun e => s.outlives scope all e.1 }
/-- The value of a location is kept as an older one, unless an older one is kept already. -/
def keepFirst (m : AMap Byte) (c : Nat × Byte) : AMap Byte := if (mapGet? m c.1).isSome then m else mapSet m c.1 c.2
/-- R293, R300: bytes are about to be written at their homes on behalf of a workgroup (0 for an agent outside all of them). The
L1 of each other workgroup keeps the line as it was, or drops it; it holds no line of a strong page (R289). -/
def State.keepStale (s : State) (wg : Nat) (ps : List Place) : State :=
  let ls := ps.filterMap fun p => match p with
    | .mem pa via => if s.viaKind via = .strong then none else some (via * 4096 + pa % 4096, pa)
    | _ => none
  let others := (s.wgs.filter fun e => e.1 != wg && e.2.resident && !e.2.ended).map Prod.fst
  if ls.isEmpty || others.isEmpty then s
  else
    let r := s.choose (2 ^ others.length)
    let s := r.2
    let old := ls.filterMap fun a => if s.paPoisoned a.2 then none else some (a.1, s.physRead a.2)
    others.zipIdx.foldl (fun s e => s.modWg e.1 fun g =>
      { g with stale := if bitAt r.1 e.2 then old.foldl keepFirst g.stale
          else if g.stale.isEmpty then g.stale else g.stale.filter fun c => !ls.any fun a => a.1 / 128 == c.1 / 128 }) s
/-- R303: the port of a window may give the bytes as they were before a put to reads that no acquire orders after it. -/
def State.keepPad (s : State) (wg : Nat) (offs : List Nat) : State :=
  let r := s.choose 2
  if r.1 = 0 then r.2
  else
    let g := r.2.wg wg
    let old := offs.filterMap fun o => if g.spPoison.contains (o / 32) then none else some (2 ^ 80 + o, g.spByte o)
    r.2.setWg wg { g with stale := old.foldl keepFirst g.stale }
/-- A workgroup's own write: it reads no older value of these bytes any more. -/
def State.ownWrite (s : State) (wg : Nat) (ps : List Place) : State :=
  if (s.wg wg).stale.isEmpty then s
  else s.modWg wg fun g => { g with stale := (ps.filterMap (Place.loc? wg)).foldl mapErase g.stale }
/-- A write at the homes, on behalf of a workgroup and in an address space. -/
def State.writeHome (s : State) (wg asid : Nat) (cells : List (Place × Byte)) (marked : Bool) : State :=
  let ps := cells.map Prod.fst
  ((s.keepStale wg ps).ownWrite wg ps).putBytes asid cells marked

/-- An instruction that reads memory as it issues must wait, for its lanes `who` and a page's ordering kind, for an earlier
access of its warp to the same bytes (R162), for an earlier acquire or fence (R297, R298), and on a strong page for the strong
accesses before it, and for stores of the workgroup that are still at their core (R289, R293). -/
def State.readWaits (s : State) (who : Mask) (page : OrdKind) (ps : List Place) : Bool :=
  let f : Flight := { id := 0, warp := s.issue.warp, wg := s.cur.wg, lane := 0, set := s.issue.set, who := who, group := s.nextId,
                      page := page, acq := page == .strong, scope := 6, kind := .load ps 0 false 0 false }
  s.veiled f || s.flights.any fun g => g.before f || g.coreBefore f || g.strongBefore f || g.acquiresBefore f || g.fenceBefore f
/-- What such an instruction reads. -/
def State.readNow (s : State) (ps : List Place) : List Byte × Bool := s.view s.cur.wg ps
/-- The virtual address that a byte of global memory is named by. -/
def Place.va : Place → Nat
  | .mem pa via => 4096 * viaPage via + pa % 4096
  | _ => 0
/-- R458, R466: the bytes of such an instruction's reads that arrive marked from outside: those of one sector. -/
def State.struck (s : State) (ps : List Place) : List Place :=
  let gs := granules 32 (physOf ps)
  match s.armed.find? fun a => a.warp == s.issue.warp && !a.fetch && a.hit.isNone with
  | some a => ps.filter fun p => match p with
    | .mem pa _ => pa / 32 == gs.getD (a.sector % gs.length) 0
    | _ => false
  | none => []
/-- What such an instruction reads, where some bytes arrive marked: they read zero (R459). -/
def State.readHit (s : State) (hurt ps : List Place) : List Byte × Bool :=
  let r := s.readNow ps
  if hurt.isEmpty then r
  else ((ps.zip r.1).map fun e => if hurt.contains e.1 then 0 else e.2, r.2 || ps.any hurt.contains)
/-- The sector that arrived marked is noted for its record (R468). -/
def State.strike (s : State) (hurt : List Place) : State :=
  match hurt with
  | [] => s
  | p :: _ => { s with armed := s.armed.map fun a =>
      if a.warp = s.issue.warp ∧ a.fetch = false ∧ a.hit = none then
        { a with hit := some (p.va / 128 * 128, (s.launch s.cur.launch).asid, (physOf [p]).headD 0) } else a }
/-- What such reads do beside returning their bytes: one of a strong page is an acquire at system scope (R289). -/
def State.readDone (s : State) (strong : Bool) (ps hurt : List Place) : State :=
  ((if strong then s.refresh s.cur.wg 6 else s).noteRead (s.asidOf s.issue.warp) (physOf ps)).strike hurt

/-- R98, R163: one lane of a register receives a value. -/
def Warp.pokeLane (w : Warp) (r l : Nat) (x : Word) : Warp :=
  w.setVreg r (.g ((List.range 32).map fun i => if i = l then x else w.vlane r i))
/-- A trap of a lane that names an access: its record (R163, R410). -/
def Flight.poisonRec (f : Flight) : TrapRec :=
  { kind := 8, len2 := f.pfx != 0, async := true, after := true, widx := BitVec.ofNat 32 f.pc, word := f.word, pfx := f.pfx, addr := f.ea }
/-- The lanes a poisoned result is reported to. -/
def State.pendPoison (s : State) (f : Flight) : State :=
  s.modWarp f.warp fun w => w.mapLanes fun l x => if f.who.getLsbD l && x.status != .done then x.pend f.poisonRec else x

/-- The registers of a loaded value: words, or one word extended (R161). -/
def loadWords (bs : List Byte) (signed : Bool) : List Word :=
  let n := bs.length
  if n < 4 then [if signed then BitVec.ofInt 32 (sextN (8 * n) (ofBytes bs)) else BitVec.ofNat 32 (ofBytes bs)]
  else (List.range (n / 4)).map fun i => BitVec.ofNat 32 (ofBytes ((bs.drop (4 * i)).take 4))

/-- A load returns (R57, R161, R163, R165): its registers are written, with zero and the deferred fault when its data is
poisoned; values of a lane that ended or was discarded are dropped (R153, R417). -/
def State.finishLoad (s : State) (f : Flight) (ps : List Place) (signed : Bool) (dst : Nat) (uniform : Bool)
    (bytes : List Byte) (bad : Bool) : State :=
  let s := (s.dropFlight f.id).noteRead (s.asidOf f.warp) (physOf ps)
  if f.dropped then s
  else
    let vs := loadWords (if bad then bytes.map fun _ => 0 else bytes) signed
    let s := s.modWarp f.warp fun w =>
      if uniform then (w.setWreg dst (vs.getD 0 0)).mend [128 + dst]
      else (vs.zipIdx.foldl (fun w e => w.pokeLane (dst + e.2) f.lane e.1) w).mend ((List.range vs.length).map (dst + ·))
    if bad then s.pendPoison f else s
/-- R295, R297: lanes of a warp acquire at any scope. What a release of the warp at warp scope has covered is covered by their later
releases too. -/
def State.inherit (s : State) (f : Flight) : State :=
  if f.scope != 0 && s.flights.any fun g => g.vouched && g.warp == f.warp then
    { s with flights := s.flights.map fun g => if g.vouched && g.warp == f.warp then { g with heirs := g.heirs ||| f.set } else g }
  else s
/-- R296: a release at warp scope is performed, with writes that it covers still on their way. -/
def State.vouch (s : State) (f : Flight) : State :=
  if f.scope = 1 then { s with flights := s.flights.map fun g => if g.covered f.warp f.set then { g with vouched := true } else g } else s
/-- R294: the acquire of an access, as it is performed. -/
def State.acquire (s : State) (f : Flight) : State := if f.acq then (s.inherit f).refresh f.wg f.scope else s
def State.performLoad (s : State) (f : Flight) : State :=
  match f.kind with
  | .load ps _ signed dst uniform =>
    let s := s.acquire f
    let r := s.view f.wg ps
    s.finishLoad f ps signed dst uniform r.1 r.2
  | _ => s
/-- R162: the loads of one instruction that meet at a location are performed together. -/
def State.meeting (s : State) (f : Flight) : List Flight :=
  s.flights.filter fun g => g.isLoad && g.group == f.group && g.warp == f.warp && overlaps g.places f.places
def State.performLoads (s : State) (f : Flight) : State := (s.meeting f).foldl State.performLoad s

/-- The line of 64 bytes that a place lies in, as another's. -/
def sameLine (p q : Place) : Bool :=
  match p, q with
  | .mem a _, .mem b _ => a / 64 == b / 64
  | .sp g a, .sp h b => g == h && a / 64 == b / 64
  | _, _ => false
/-- The marks of what the places cover whole are cleared; no data changes. -/
def State.clearMarks (s : State) (ps : List Place) : State :=
  let offs (g : Nat) := ps.filterMap fun p => match p with
    | .sp h off => if h = g then some off else none
    | _ => none
  let wgs := (ps.filterMap fun p => match p with
    | .sp g _ => some g
    | _ => none).eraseDups
  let s := s.physWrite ((physOf ps).map fun a => (a, memRead s.mem a)) false
  wgs.foldl (fun s g => s.modWg g fun w => { w with spPoison := (covered 32 (offs g)).foldl markClear w.spPoison }) s

/-- R286, R291: the next part of a store to be performed: any of them, or on strong pages the lowest. -/
def State.nextPart (s : State) (f : Flight) (n : Nat) : Nat × State :=
  if n ≤ 1 ∨ f.page = .strong then (0, s) else s.choose n
/-- R286: the parts of a store that are performed at the core one by one become accesses of their own. -/
def State.splitPart (s : State) (f : Flight) (i : Nat) : Flight × State :=
  match f.kind with
  | .store ps bad =>
    let n := s.fresh
    let one : Flight := { f with id := n.1, kind := .store [ps.getD i []] bad }
    (one, { n.2 with flights := n.2.flights.flatMap fun g =>
      if g.id = f.id then [one, { f with kind := .store (ps.eraseIdx i) bad }] else [g] })
  | _ => (f, s)
/-- R293: a store, or a part of it, is performed at its core: from then on its workgroup may read it. -/
def State.performCore (s : State) (f : Flight) : State :=
  let parts := match f.kind with
    | .store ps _ => ps.length
    | _ => 0
  let r := if parts ≤ 1 ∨ f.page = .strong then (f, s)
    else (s.nextPart f parts).2.splitPart f (s.nextPart f parts).1
  let n := r.2.fresh
  (((if f.rel then n.2.vouch f else n.2).ownWrite f.wg r.1.places).setFlight { r.1 with coreAt := some n.1 })
/-- An access is performed: nothing of it is left, or, where it was performed ahead of what its release covers, its veil. -/
def State.endFlight (s : State) (f : Flight) (ps : List Place) : State :=
  if f.soft = 0 ∨ s.unveiled f = true then s.dropFlight f.id else s.setFlight { f with kind := .veil ps, coreAt := none, windows := [] }
/-- Another part of the same store is still on its way. -/
def State.sibling (s : State) (f : Flight) : Bool :=
  s.flights.any fun g => g.id != f.id && g.group == f.group && g.warp == f.warp && g.who == f.who && g.whole == f.whole
/-- A store, or a row of a drain, reaches its home part by part; with the last one it is acknowledged (R235, R299), and the
marks of the granules that it wrote whole are gone (R459). -/
def State.performStore (s : State) (f : Flight) : State :=
  match f.kind with
  | .store ps bad =>
    let r := s.nextPart f ps.length
    let part := ps.getD r.1 []
    let asid := s.asidOf f.warp
    let t := (if f.rel && !f.staged then r.2.vouch f else r.2).writeHome f.wg asid part false
    let hurt := part.filter fun c => bad.contains c.1
    let t := if hurt.isEmpty then t else t.putBytes asid hurt true
    let rest := ps.eraseIdx r.1
    if rest.isEmpty then
      let last := !f.whole.isEmpty && !t.sibling f
      (if last then t.clearMarks (f.whole.filter fun p => !bad.any (sameGranule p)) else t).endFlight f (part.map Prod.fst)
    else t.setFlight { f with kind := .store rest bad }
  | _ => s

/-- R298: a `FENCE.SC` in scope of another one, both ways, stands half done. -/
def State.scClash (s : State) (f : Flight) : Bool :=
  s.flights.any fun g => g.id != f.id && g.soft != 0 && s.inScope g.scope g.wg f.wg && s.inScope f.scope f.wg g.wg && match g.kind with
    | .fence _ _ _ sc _ => sc
    | _ => false
/-- R235, R298: the next step of an ordering point without an access: an acquire is done when the earlier reads that it covers
have returned, a release when the earlier accesses have been performed at the stage that its scope requires. At gang or die scope it
stands half done once they are performed at the core: agents outside the scope may see later writes of the issue set. -/
def State.fenceDone (s : State) (f : Flight) : Option State :=
  match f.kind with
  | .fence a r all sc done =>
    let gs := (s.earlier f.id).filter fun g =>
      g.memory && g.warp == f.warp && ((g.who ||| g.heirs) &&& f.set) != 0 && !g.isCopy && (all || g.page != .unordered)
    let read := gs.all fun g => !g.reads
    let held := (s.earlier f.id).any fun g => g.warp == f.warp && match g.kind with
      | .fence _ _ _ sc' _ => sc && sc'
      | _ => false
    let free := !held && !(sc && s.scClash f)
    let full := gs.all (fun g => g.settled f.scope) && !(wideScope f.scope && s.coreStores f.wg all) && free
    let half := partScope f.scope && f.soft == 0 && gs.all (fun g => g.settled 2) && free
    let point (t : State) : State := if a || sc then (t.inherit f).refresh f.wg f.scope all else t
    if (r || sc) && full && (done || !a || sc) then some ((if r then s.vouch f else s) |> point |>.dropFlight f.id)
    else if (r || sc) && half then some ((point s).setFlight { f with kind := .fence a r all sc true, soft := f.scope })
    else if a && !done && read && !sc then
      let t := point s
      some (if r then t.setFlight { f with kind := .fence a r all sc true } else t.dropFlight f.id)
    else none
  | _ => none
/-- R293, R296, R298: a store may be performed at its core, in order or ahead of what its release covers; an ordering point without an
access may take its next step; a veil may be lifted. -/
def State.stage? (s : State) (f : Flight) : Option State :=
  match f.kind with
  | .veil _ => if s.unveiled f then some (s.dropFlight f.id) else none
  | _ =>
    if f.toCore then
      if s.canPerform f then some (s.performCore f)
      else if s.aheadScope f = 0 then none else some (s.performCore { f with soft := s.aheadScope f })
    else s.fenceDone f

/-! ## Ordering points at issue (R294 to R299) -/

/-- R296: a release by an instruction that makes no access of its own waits, before it issues, until every access that it
covers is performed at the stage that its scope requires, and for the fences before it. -/
def State.releaseWaits (s : State) (scope : Nat) : Bool :=
  !s.released s.flights s.cur.wg s.issue.warp s.issue.set scope ||
    (scope != 0 && s.flights.any fun g => g.warp == s.issue.warp && (g.set &&& s.issue.set) != 0 && match g.kind with
      | .fence _ r _ sc _ => r || sc
      | _ => false)
/-- An ordering point of the issue set that makes no access (R235, R295, R298); at thread scope it orders nothing that another
agent can observe. -/
def State.addFence (s : State) (acquire release all sc : Bool) (scope : Nat) : State :=
  if scope = 0 then s
  else s.addFlight { s.flight 0 0 s.nextId (.fence acquire release all sc false) with who := 0, windows := [], scope := scope }

/-! ## Issuing -/

/-- R403: a cause of the launch's end is noted: no gang that has not started will start. -/
def State.markCause (s : State) (i cause : Nat) : State := s.modLaunch i fun x => { x with causes := markSet x.causes cause }
def LaneEnd.isLease : LaneEnd → Bool
  | .trap r => r.kind == 7
  | _ => false
/-- As `finish`, for an instruction that can take the lease fault, which marks the launch (R403). -/
def State.finishMem (s : State) (f : Nat → LaneEnd) : State :=
  let t := s.finish f
  if (lanesOf s.issue.set).any fun l => (f l).isLease then t.markCause s.cur.launch 4 else t

/-- R163, R259: the destinations of an access that returns later take their rows as it issues; lanes of E keep their
values until it returns, and Z zeroes the others. -/
def State.claim (s : State) (dst regs : Nat) : Warp :=
  let w := s.cur
  w.write s.eff s.issue.set s.pz ((List.range regs).map fun i => ⟨dst + i, fun l => w.vlane (dst + i) l, none⟩)

/-- R49, R295: the ordering point of an ordered access for an issue set of which only the lanes `served` make an access. -/
def State.pointFor (s : State) (served : Mask) : State :=
  if s.ordBits = 0 ∨ served = s.issue.set then s
  else s.addFence (acquires s.ordBits) (releases s.ordBits) false false s.scopeBits

/-- A memory instruction whose lanes access memory one by one: the register-overflow trap for the whole instruction, then
each lane's own faults, then an access for each lane that has none (R160). `acts` leaves out helper lanes' writes; an
instruction that would write no register needs no row (R259). -/
def State.issueLanes (s : State) (dst regs : Nat) (acts : Nat → Bool) (chk : Nat → Check)
    (mk : Nat → Nat → List Place → OrdKind → DWord → Flight) : State :=
  if s.eff = 0 then (s.pointFor 0).advance
  else
    let w1 := s.claim dst regs
    let writes := regs != 0 && ((lanesOf s.eff).any acts || (s.pz && s.issue.set != s.eff))
    if s.cur.budget < w1.rows && writes then (s.pointFor 0).trapAll (s.overflowRec (rowsNeeded s.cur w1))
    else
      let cs := (List.range 32).map fun l => if s.inE l && acts l then some (chk l) else none
      let some? := cs.any fun c => match c with | some c => c.isOk | none => false
      let s1 := if regs != 0 && (some? || (s.pz && s.issue.set != s.eff)) then s.setWarp s.issue.warp w1 else s
      let n := s1.fresh
      let s2 := cs.zipIdx.foldl (fun s c => match c.1 with
        | some (.ok ps page ea) => s.addFlight (mk c.2 n.1 ps page ea)
        | _ => s) n.2
      let served := maskOf fun l => match cs.getD l none with
        | some c => c.isOk
        | none => false
      (s2.pointFor served).finishMem fun l => match cs.getD l none with
        | some c => c.lend
        | none => .next

end Sys2Proof.Machine
end

