-- ==== Sys2Proof/Machine/Barriers.lean ====
section
/-! DEFINITION. Barriers: arrival, counters, completion and release (R223 to R225, R308 to R316). -/

namespace Sys2Proof.Machine

def State.bar (s : State) : BarRef → Barrier
  | .wg g b => mapGet (s.wg g).bars b {}
  | .gang i g b => mapGet (mapGet (s.launch i).gangs g {}).bars b {}
  | .tree t => mapGet s.trees t {}
def State.setBar (s : State) (r : BarRef) (x : Barrier) : State :=
  match r with
  | .wg g b => s.modWg g fun y => { y with bars := mapSet y.bars b x }
  | .gang i g b => s.modLaunch i fun y => { y with gangs := mapMod y.gangs g {} fun z => { z with bars := mapSet z.bars b x } }
  | .tree t => { s with trees := mapSet s.trees t x }

/-- R225: the lane arrived in the barrier's phase. -/
def Lane.hasArrived (x : Lane) (r : BarRef) (phase : Word) : Bool := x.arrived.contains (r, phase)
/-- R224: the warp arrived: every lane that is not DONE did; an ended warp counts. -/
def Warp.hasArrived (w : Warp) (r : BarRef) (phase : Word) : Bool :=
  w.ended || (List.range 32).all fun l => (w.lane l).status == .done || (w.lane l).hasArrived r phase
/-- Every lane of the warp is DONE. -/
def Warp.allDone (w : Warp) : Bool := w.ended || (List.range 32).all fun l => (w.lane l).status == .done
/-- The warps of a workgroup. -/
def State.warpsOf (s : State) (g : Nat) : List Warp := (s.warps.filter fun e => e.2.wg == g).map Prod.snd
/-- A workgroup of the grid to which the group table belongs: the only one, or that of a render pass's stage 1. -/
def Workgroup.grouped (g : Workgroup) : Bool := g.gang / 2 ^ 24 == 1
/-- The workgroup of a launch with a linear index, once it has started. -/
def State.wgOf? (s : State) (i wgid : Nat) : Option Nat :=
  (s.wgs.find? fun e => e.2.launch == i && e.2.grouped && e.2.wgid == wgid).map Prod.fst

/-- R224, R310: a workgroup arrived: it has ended, or all of its warps arrived. One that has not started did not. -/
def State.wgArrived (s : State) (g : Nat) (r : BarRef) (phase : Word) : Bool :=
  (s.wg g).ended || (s.warpsOf g).all fun w => w.hasArrived r phase
/-- The members of a barrier that have not ended are needed for a phase to mean anything. -/
def State.wgAlive (s : State) (g : Nat) : Bool := !(s.wg g).ended && (s.warpsOf g).any fun w => !w.allDone

/-- R467: the workgroup was on a die that failed. -/
def State.wgLost (s : State) (g : Nat) : Bool := s.dev.diesFailed.contains ((s.wg g).core / 96)
/-- The workgroups that a barrier's members are; none for one that has not started. -/
def State.barMembers (s : State) (r : BarRef) : List (Option Nat) :=
  match r with
  | .wg g _ => [some g]
  | _ => (s.bar r).members.map fun m => s.wgOf? (s.bar r).launch m
def Barrier.count (b : Barrier) (p : Word) : Word := if p.getLsbD 0 then b.count1 else b.count0
def Barrier.addCount (b : Barrier) (p x : Word) : Barrier :=
  if p.getLsbD 0 then { b with count1 := b.count1 + x } else { b with count0 := b.count0 + x }

def State.barLinkOf (s : State) (t : Nat) : Word := mapGet s.dev.barLink t 0
/-- R314, R472, R474: the peer ports a tree number is linked through: EN, a bit of PORTS, and a peer that lists ID 2, or a port
that is down. -/
def State.linkedPorts (s : State) (r : BarRef) : List Nat :=
  match r with
  | .tree t =>
    let x := s.barLinkOf t
    let p? (p : Nat) : Bool := match mapGet s.dev.peers p {} with
      | c => !c.up || bitAt c.caps 2
    if x.getLsbD 31 then (List.range 18).filter fun p => x.getLsbD p && p? p else []
  | _ => []
/-- R224, R310, R316: every member has arrived in the phase, none of them was lost with its die. The phases of a barrier whose members
have all ended go on only as peers' messages come. A tree barrier of members on die 1 alone completes also after die 0 failed, which
holds the Vein root: the spec is silent there (DESIGN CHOICE, log entry 77). -/
def State.allArrived (s : State) (r : BarRef) (phase : Word) : Bool :=
  let ms := s.barMembers r
  (ms.all fun m => match m with | some g => s.wgArrived g r phase && !s.wgLost g | none => false) &&
  (!(s.linkedPorts r).isEmpty || ms.any fun m => match m with | some g => s.wgAlive g | none => false)

/-- R223, R314: the scope at which a barrier acts: a linked one at system scope, a group's at the larger of SCOPE and the smallest
scope that holds its members. -/
def State.barScope (s : State) (r : BarRef) (scope : Nat) : Nat :=
  match r with
  | .wg .. => 2
  | .gang .. => max scope 3
  | .tree _ =>
    let dies := ((s.barMembers r).filterMap fun m => m.map fun g => (s.wg g).core / 96).eraseDups
    if (s.linkedPorts r).isEmpty then max scope (if dies.length ≤ 1 then 4 else 5) else 6

/-- R224, R314: the phase completes once its members have arrived, its counter is zero and every linked device's
message for it is held. The phase number advances; its release is on its way to the waiters (R313). -/
def State.checkBarrier (s : State) (r : BarRef) : State :=
  let b := s.bar r
  let ports := s.linkedPorts r
  if s.allArrived r b.phase && b.count b.phase == 0 then
    let b := if ports.isEmpty then b else { b with sent := some b.phase }
    if ports.all fun p => b.peers.contains (p, b.phase) then
      s.setBar r { b with phase := b.phase + 1, releasing := b.releasing ++ [b.phase],
                          peers := b.peers.filter fun e => e.2 != b.phase }
    else s.setBar r b
  else s

/-- The barriers a workgroup takes part in. -/
def State.barsOf (s : State) (g : Nat) : List BarRef :=
  let w := s.wg g
  let gang := mapGet (s.launch w.launch).gangs w.gang {}
  (List.range 16).map (BarRef.wg g)
    ++ (gang.bars.filter fun e => e.2.members.contains w.wgid).map (fun e => BarRef.gang w.launch w.gang e.1)
    ++ (s.trees.filter fun e => e.2.bound && e.2.launch == w.launch && w.grouped && e.2.members.contains w.wgid).map (fun e => BarRef.tree e.1)
/-- Lanes or warps of a workgroup ended: its barriers may be complete (R224, R310). -/
def State.checkBarriers (s : State) (g : Nat) : State := (s.barsOf g).foldl State.checkBarrier s

/-- R223: the barrier an operand names, or the cause of the barrier fault with its number. -/
def State.barName (s : State) (scope b z : Nat) : Except (Nat × Nat) BarRef :=
  let w := s.cur
  if scope = 2 then .ok (.wg w.wg (z % 16))
  else
    let g := 32 * (b % 8) + z
    let i := s.launch w.launch
    let mine := (s.wg w.wg).wgid
    match mapGet? i.trees g with
    | some t =>
      if (s.wg w.wg).grouped && (mapGet s.trees t {}).members.contains mine then .ok (.tree t) else .error (1, g)
    | none =>
      match (mapGet i.gangs w.gang {}).bars.find? fun e => e.2.bound && e.2.group == g with
      | some e => if e.2.members.contains mine then .ok (.gang w.launch w.gang e.1) else .error (1, g)
      | none => match mapGet? i.groups g with
        | some _ => .error (1, g)
        | none => .error (0, g)
def barNumber (scope b z : Nat) : Nat := if scope = 2 then z % 16 else 32 * (b % 8) + z

/-- R225, R411: the record of a barrier fault. -/
def State.barFault (s : State) (cause n : Nat) : TrapRec := { s.record 11 with cause := cause, arg1 := BitVec.ofNat 32 n }

/-- R225: lanes of the issue set that can arrive are marked; not those that arrived with the same BARSYNC before. -/
def State.arriveLanes (s : State) (r : BarRef) (but : Nat → Bool := fun _ => false) : State :=
  let b := s.bar r
  let set := s.issue.set
  s.modCur fun w => w.mapLanes fun l x =>
    if set.getLsbD l && !but l && !x.hasArrived r b.phase then
      { x with arrived := (r, b.phase) :: x.arrived.filter fun e => e.1 != r } else x
/-- R223, R295: the scope of the ordering point of a barrier instruction, also where its operand names no barrier. -/
def State.pointScope (s : State) (scope b z : Nat) : Nat := match s.barName scope b z with
  | .ok r => s.barScope r scope
  | .error _ => scope

def execBararr (e : BitVec 3) (b : BitVec 7) (z : BitVec 5) (s : State) : Res :=
  if s.releaseWaits (s.pointScope e.toNat b.toNat z.toNat) then .next s else
  let s := s.markOut
  match s.barName e.toNat b.toNat z.toNat with
  | .error c => .next (s.trapAll (s.barFault c.1 c.2))
  | .ok r =>
    let w := s.cur
    let ph := (s.bar r).phase
    let dup l := (w.lane l).hasArrived r ph
    let n := barNumber e.toNat b.toNat z.toNat
    .next (((s.arriveLanes r).finish fun l => if dup l then .trap (s.barFault 2 n) else .next).checkBarrier r)

/-- R225, R313: the phase in which the lane last arrived, while it is open or its release is on its way; none once it is complete. -/
def Lane.openPhase? (x : Lane) (r : BarRef) (b : Barrier) : Option Word :=
  match x.arrived.find? fun e => e.1 == r with
  | some e => if e.2 = b.phase ∨ b.releasing.contains e.2 then some e.2 else none
  | none => none
/-- R225: lanes of `p` whose phase has not completed hold; the others pass, and go on after the acquire of a completed phase
(R294; log entry 22). -/
def State.waitLanes (s : State) (r : BarRef) (scope : Nat) (p : Nat → Bool) : State :=
  let b := s.bar r
  let set := s.issue.set
  let pc := s.issue.pc
  let go := (lanesOf set).any fun l => p l && ((s.cur.lane l).openPhase? r b).isNone
  let s := if go then s.refresh s.cur.wg (s.barScope r scope) else s
  s.modCur fun w => w.mapLanes fun l x =>
    if set.getLsbD l && p l then
      match x.openPhase? r b with
      | some ph => { x with status := .hold, wait := .barrier r ph scope }
      | none => { x with pc := pc + 1 }
    else x
def execBarwait (e : BitVec 3) (b : BitVec 7) (z : BitVec 5) (s : State) : Res :=
  match s.barName e.toNat b.toNat z.toNat with
  | .error c => .next (s.trapAll (s.barFault c.1 c.2))
  | .ok r => .next (s.waitLanes r e.toNat fun _ => true)
/-- R225: the lanes that wait with BARSYNC have made its arrival; those that have passed it have done with it. -/
def State.noteSync (s : State) (p : Nat → Bool) : State :=
  let set := s.issue.set
  let pc := s.issue.pc
  s.modCur fun w => w.mapLanes fun l x =>
    if set.getLsbD l && p l then { x with sync := if x.status = .hold then some pc else none } else x
/-- R225: BARARR, then BARWAIT for the lanes that did not fault. A lane that was withdrawn from it has arrived (R315, R418). -/
def execBarsync (e : BitVec 3) (b : BitVec 7) (z : BitVec 5) (s : State) : Res :=
  if s.releaseWaits (s.pointScope e.toNat b.toNat z.toNat) then .next s else
  let s := s.markOut
  match s.barName e.toNat b.toNat z.toNat with
  | .error c => .next (s.trapAll (s.barFault c.1 c.2))
  | .ok r =>
    let w := s.cur
    let ph := (s.bar r).phase
    let again l := (w.lane l).sync == some s.issue.pc
    let dup l := (w.lane l).hasArrived r ph && !again l
    let n := barNumber e.toNat b.toNat z.toNat
    let s1 := (s.arriveLanes r again).checkBarrier r
    .next (((s1.waitLanes r e.toNat fun l => !dup l).noteSync fun l => !dup l).finish fun l => if dup l then .trap (s.barFault 2 n) else .stay)
/-- R225, R312: bytes counted on the parity of the current phase, or of the next where this warp has arrived. -/
def execBarexp (e : BitVec 3) (a b : BitVec 7) (z : BitVec 5) (s : State) : Res :=
  let s := s.markOut
  if s.acts = false then .next s.advance else
  match s.barName e.toNat b.toNat z.toNat with
  | .error c => .next (s.trapAll (s.barFault c.1 c.2))
  | .ok r =>
    let x := s.bar r
    let arrived := match r with
      | .wg .. => s.cur.hasArrived r x.phase
      | _ => s.wgArrived s.cur.wg r x.phase
    let p := if arrived then x.phase + 1 else x.phase
    .next (((s.setBar r (x.addCount p (s.cur.wreg a.toNat))).checkBarrier r).advance)

/-- The barrier an event names: kind 0 a workgroup's, 1 a gang's (owner: launch times 2^32 and gang), 2 a tree's. -/
def barRefOf (kind owner bar : Nat) : BarRef :=
  match kind with
  | 0 => .wg owner bar
  | 1 => .gang (owner / 2 ^ 32) (owner % 2 ^ 32) bar
  | _ => .tree bar

/-- R313, R407: the release of the oldest completed phase reaches its waiters, who go on at the next word. -/
def execBarrierRelease (kind owner bar : Nat) (s : State) : Res :=
  let r := barRefOf kind owner bar
  let b := s.bar r
  match b.releasing with
  | [] => .next s
  | ph :: rest =>
    let s := s.setBar r { b with releasing := rest }
    let waiting (x : Lane) : Option Nat := match x.wait with
      | .barrier r' p scope => if r' = r ∧ p = ph then some scope else none
      | _ => none
    let points := s.warps.flatMap fun e => e.2.lanes.filterMap fun x => (waiting x.2).map fun k => (e.2.wg, s.barScope r k)
    let s := points.foldl (fun s p => s.refresh p.1 p.2) s
    .next { s with warps := s.warps.map fun e => (e.1, e.2.mapLanes fun _ x =>
      match waiting x with
      | some _ => { x.release e.2.handlerMode with pc := x.pc + 1, sync := none }
      | none => x) }

/-- R314, R472, R474: a message that arrives, from a port that is up and whose peer lists ID 2, with a tag and a phase counts for the
tree number whose BARLINK has EN, the tag and the port; it is held until the barrier reaches the phase, and may complete it. A message
that matches none is dropped and logged; the spec names neither class nor event of the record (log entry 28). -/
def execPeerBarrierMessage (port bar phase : Nat) (s : State) : Res :=
  if (mapGet s.dev.peers port {}).up = false ∨ s.peerHas port 2 = false then .next s else
  match (List.range 128).find? fun t =>
      let x := s.barLinkOf t
      x.getLsbD 31 && wbits x 18 7 == bar % 128 && x.getLsbD port with
  | some t =>
    let b := mapGet s.trees t {}
    .next ((s.setBar (.tree t) { b with peers := (port, BitVec.ofNat 32 phase) :: b.peers }).checkBarrier (.tree t))
  | none => .next (s.logError (Config.freeByte (2 ^ 43)).toNat (Config.freeByte (2 ^ 43 + 1)).toNat port 0 0 0)

end Sys2Proof.Machine
end

