-- ==== Sys2Proof/Machine/Flags.lean ====
section
/-! DEFINITION. Results that raise flags or step generators, and the masks compares write (R73, R83, R104 to R106). -/

namespace Sys2Proof.Machine

/-- What lane `l` starts an instruction's arithmetic with: no flag, its own generator. -/
def State.laneNum (s : State) (l : Nat) : LaneNum := ⟨0, (s.cur.lane l).gen⟩

/-- A register result computed lane by lane with flags and the generator. Under RSTO the result is G (R102). -/
def State.vnum (s : State) (d : BitVec 7) (srcs : List VReg) (f : Nat → LaneNum → Nat × LaneNum) : Res :=
  let r l := f l (s.laneNum l)
  let v l : Word := BitVec.ofNat 32 (r l).1
  let c := if s.env.rm = .rsto then none else compactOf srcs none (v 0)
  .next (s.effect { writes := [⟨d.toNat, v, c⟩], flags := (fun l => (r l).2.fl), gen := some (fun l => (r l).2.gen) })

/-- As `vnum` for an entry that does not round: the dynamic RM does not make the result G. -/
def State.vnumExact (s : State) (d : BitVec 7) (srcs : List VReg) (f : Nat → LaneNum → Nat × LaneNum) : Res :=
  let r l := f l (s.laneNum l)
  let v l : Word := BitVec.ofNat 32 (r l).1
  .next (s.effect { writes := [⟨d.toNat, v, compactOf srcs none (v 0)⟩], flags := (fun l => (r l).2.fl) })

/-- R106: bit l of a mask in each lane of the written set: the condition in E, zero for the lanes Z zeroes. -/
def maskWrite (old e set : Mask) (z : Bool) (p : Nat → Bool) : Mask :=
  maskOf fun l => if e.getLsbD l then p l else if z && set.getLsbD l then false else old.getLsbD l

/-- A compare: bit l of m0 per R106, with the flags it raises. -/
def State.compare (s : State) (p : Nat → Bool × Flags) : Res :=
  let e := s.eff
  let m (w : Warp) : Warp := w.setMask 0 (maskWrite (w.mask 0) e s.issue.set s.pz (fun l => (p l).1))
  .next (s.effect { flags := (fun l => (p l).2), post := m })

/-- The patterns of two packed elements, low first (R66). -/
def pack2 (w : Nat) (a b : Nat) : Nat := a % 2 ^ w + 2 ^ w * (b % 2 ^ w)

end Sys2Proof.Machine
end

