-- ==== Sys2Proof/Machine/VecInt.lean ====
section
/-! DEFINITION. Class 0x0, vector integer (R107 to R114), and class 0x2's integer forms (R115, R116). -/

namespace Sys2Proof.Machine

/-- Two sources read lane by lane. -/
def State.vop2 (s : State) (d a b : BitVec 7) (tag : VReg → VReg → Option (Option VReg)) (f : Word → Word → Word) : Res :=
  let x := s.src a
  let y := s.srcB b
  s.vop d [x, y] (tag x y) fun l => f (x.lane l) (y.lane l)

def noTag : VReg → VReg → Option (Option VReg) := fun _ _ => none

/-- R107. -/
def execIadd (d a b : BitVec 7) (s : State) : Res := s.vop2 d a b tagAdd (· + ·)
def execIsub (d a b : BitVec 7) (s : State) : Res := s.vop2 d a b tagSub (· - ·)
def execImul (d a b : BitVec 7) (s : State) : Res := s.vop2 d a b tagMul (· * ·)
/-- The high half of an exact product. -/
def mulHi (x y : Int) : Word := BitVec.ofInt 32 (x * y / 2 ^ 32)
def execImulhiS (d a b : BitVec 7) (s : State) : Res := s.vop2 d a b noTag fun x y => mulHi x.toInt y.toInt
def execImulhiN (d a b : BitVec 7) (s : State) : Res := s.vop2 d a b noTag fun x y => mulHi x.toNat y.toNat
def execImad (d a b : BitVec 7) (s : State) : Res :=
  let x := s.src a
  let y := s.srcB b
  let z := s.srcC d
  s.vop d [x, y, z] (tagMad x y z) fun l => x.lane l * y.lane l + z.lane l

/-- R108: an exact sum clamped to 32 bits, IO where it clamps. -/
def State.vsat (s : State) (d a b : BitVec 7) (fm : IFmt) (f : Word → Word → Int) : Res :=
  let x := s.src a
  let y := s.srcB b
  s.vnumExact d [x, y] fun l n =>
    let r := satInt fm (f (x.lane l) (y.lane l)) n
    (bitsOf 32 r.1, r.2)
def S32 : IFmt := ⟨32, true⟩
def N32 : IFmt := ⟨32, false⟩
def execIaddsS (d a b : BitVec 7) (s : State) : Res := s.vsat d a b S32 fun x y => x.toInt + y.toInt
def execIaddsN (d a b : BitVec 7) (s : State) : Res := s.vsat d a b N32 fun x y => (x.toNat : Int) + y.toNat
def execIsubsS (d a b : BitVec 7) (s : State) : Res := s.vsat d a b S32 fun x y => x.toInt - y.toInt
def execIsubsN (d a b : BitVec 7) (s : State) : Res := s.vsat d a b N32 fun x y => (x.toNat : Int) - y.toNat

def minS (x y : Word) : Word := if x.sle y then x else y
def minN (x y : Word) : Word := if x.ule y then x else y
def maxS (x y : Word) : Word := if x.sle y then y else x
def maxN (x y : Word) : Word := if x.ule y then y else x
def execIminS (d a b : BitVec 7) (s : State) : Res := s.vop2 d a b noTag minS
def execIminN (d a b : BitVec 7) (s : State) : Res := s.vop2 d a b noTag minN
def execImaxS (d a b : BitVec 7) (s : State) : Res := s.vop2 d a b noTag maxS
def execImaxN (d a b : BitVec 7) (s : State) : Res := s.vop2 d a b noTag maxN
def execVand (d a b : BitVec 7) (s : State) : Res := s.vop2 d a b noTag (· &&& ·)
def execVor (d a b : BitVec 7) (s : State) : Res := s.vop2 d a b noTag (· ||| ·)
def execVxor (d a b : BitVec 7) (s : State) : Res := s.vop2 d a b noTag (· ^^^ ·)
def execAndn (d a b : BitVec 7) (s : State) : Res := s.vop2 d a b noTag fun x y => x &&& ~~~y

/-- R109: the shift amount is the whole of b, unsigned. -/
def shlW (x k : Word) : Word := if k.toNat < 32 then x <<< k.toNat else 0
def shrW (x k : Word) : Word := if k.toNat < 32 then x >>> k.toNat else 0
def sarW (x k : Word) : Word := x.sshiftRight (min k.toNat 31)
def rotW (x k : Word) : Word := x.rotateLeft (k.toNat % 32)
def execShl (d a b : BitVec 7) (s : State) : Res := s.vop2 d a b tagShl shlW
def execShr (d a b : BitVec 7) (s : State) : Res := s.vop2 d a b noTag shrW
def execSar (d a b : BitVec 7) (s : State) : Res := s.vop2 d a b noTag sarW
def execRot (d a b : BitVec 7) (s : State) : Res := s.vop2 d a b noTag rotW

/-- R110: the field of a that control b names. -/
def bfeW (x b : Word) : Word :=
  let pos := wbits b 0 5
  let len := min (wbits b 8 6) 32
  let f := x.toNat / 2 ^ pos % 2 ^ len
  if b.getLsbD 16 then
    if 32 < pos + len then BitVec.ofInt 32 (sextN (32 - pos) (x.toNat / 2 ^ pos))
    else BitVec.ofInt 32 (sextN len f)
  else BitVec.ofNat 32 f
/-- R110: c with a's low bits placed in the field that control b names. -/
def bfiW (x b c : Word) : Word :=
  let pos := wbits b 0 5
  let len := min (wbits b 8 6) 32
  let m : Word := BitVec.ofNat 32 ((2 ^ len - 1) * 2 ^ pos)
  (c &&& ~~~m) ||| ((x <<< pos) &&& m)
def execBfe (d a b : BitVec 7) (s : State) : Res := s.vop2 d a b noTag bfeW
def execBfi (d a b : BitVec 7) (s : State) : Res :=
  let x := s.src a
  let y := s.srcB b
  let z := s.srcC d
  s.vop d [x, y, z] none fun l => bfiW (x.lane l) (y.lane l) (z.lane l)

/-- One source. -/
def State.vop1 (s : State) (d a : BitVec 7) (f : Word → Word) : Res :=
  let x := s.src a
  s.vop d [x] none fun l => f (x.lane l)
def popc (x : Nat) : Nat := (List.range 32).countP fun i => bitAt x i
def clzW (x : Word) : Word := BitVec.ofNat 32 (if x = 0 then 32 else 31 - Nat.log2 x.toNat)
def ctzW (x : Word) : Word := BitVec.ofNat 32 ((lowest (fun i => x.getLsbD i) (List.range 32)).getD 32)
/-- R111. -/
def execBitopPopc (d a : BitVec 7) (s : State) : Res := s.vop1 d a fun x => BitVec.ofNat 32 (popc x.toNat)
def execBitopClz (d a : BitVec 7) (s : State) : Res := s.vop1 d a clzW
def execBitopCtz (d a : BitVec 7) (s : State) : Res := s.vop1 d a ctzW
def execBitopBrev (d a : BitVec 7) (s : State) : Res := s.vop1 d a fun x => x.reverse
def execBitopNot (d a : BitVec 7) (s : State) : Res := s.vop1 d a fun x => ~~~x

/-- R105, R106. -/
def execIcmp (k : BitVec 4) (a b : BitVec 7) (s : State) : Res :=
  let x := s.src a
  let y := s.srcB b
  s.compare fun l => (iCompare k.toNat (x.lane l) (y.lane l), 0)

/-- R102, R112: SEL by m0 as it stands; its tag is the selected source's when m0 is all ones or all zeros. -/
def execSel (d a b : BitVec 7) (s : State) : Res :=
  let x := s.src a
  let y := s.srcB b
  let m := s.cur.mask 0
  let sp := if m = allLanes then some x else if m = 0 then some y else none
  s.vop d [x, y] (some sp) fun l => if m.getLsbD l then x.lane l else y.lane l
/-- R102, R107: MOV keeps its source's tag. -/
def execMov (d a : BitVec 7) (s : State) : Res :=
  let x := s.src a
  s.vop d [x] (some (some x)) fun l => x.lane l

/-- R113: one result byte of PRMT. -/
def prmtByte (v : Nat) (n : Nat) : Nat :=
  let b := bits v (8 * (n % 8)) 8
  if n / 8 % 2 = 1 then (if 128 ≤ b then 255 else 0) else b
def prmtW (x y c : Word) : Word :=
  let v := x.toNat + 2 ^ 32 * y.toNat
  let f i := prmtByte v (wbits c (4 * i) 4)
  BitVec.ofNat 32 (f 0 + 256 * f 1 + 65536 * f 2 + 16777216 * f 3)
def execPrmt (d a b : BitVec 7) (s : State) : Res :=
  let x := s.src a
  let y := s.srcB b
  let z := s.srcC d
  s.vop d [x, y, z] none fun l => prmtW (x.lane l) (y.lane l) (z.lane l)

/-- R114. -/
def execIadd64 (d a b : BitVec 7) (s : State) : Res :=
  let x := s.srcPair a
  let y := s.srcPairB b
  s.vop64 d [x.1, x.2, y.1, y.2] fun l => pairLane x l + pairLane y l
def execIsub64 (d a b : BitVec 7) (s : State) : Res :=
  let x := s.srcPair a
  let y := s.srcPairB b
  s.vop64 d [x.1, x.2, y.1, y.2] fun l => pairLane x l - pairLane y l
/-- R114: base pair plus an index, shifted and extended as X says when WS = 0. -/
def execLea (d a b : BitVec 7) (s : State) : Res :=
  let x := s.srcPair a
  let y := s.srcB b
  let ws := match s.prefix? with | some p => p.ws | none => false
  let sh := if ws then 0 else bits s.px 0 3
  let un := !ws && bitAt s.px 3
  s.vop64 d [x.1, x.2, y] fun l =>
    let e : DWord := if un then (y.lane l).setWidth 64 else (y.lane l).signExtend 64
    pairLane x l + (e <<< sh)

/-! Class 0x2, integer forms (R115). -/

/-- As a class 0x0 instruction with b the immediate, a U source. -/
def State.vopI (s : State) (d a : BitVec 7) (i : Word) (tag : VReg → VReg → Option (Option VReg)) (f : Word → Word → Word) : Res :=
  let x := s.src a
  s.vop d [x, .u i] (tag x (.u i)) fun l => f (x.lane l) i
def execIaddi (d a : BitVec 7) (i : BitVec 8) (s : State) : Res := s.vopI d a (s.immS i) tagAdd (· + ·)
def execImuli (d a : BitVec 7) (i : BitVec 8) (s : State) : Res := s.vopI d a (s.immS i) tagMul (· * ·)
def execAndi (d a : BitVec 7) (i : BitVec 8) (s : State) : Res := s.vopI d a (s.immZ i) noTag (· &&& ·)
def execOri (d a : BitVec 7) (i : BitVec 8) (s : State) : Res := s.vopI d a (s.immZ i) noTag (· ||| ·)
def execXori (d a : BitVec 7) (i : BitVec 8) (s : State) : Res := s.vopI d a (s.immZ i) noTag (· ^^^ ·)
def execShli (d a : BitVec 7) (i : BitVec 8) (s : State) : Res := s.vopI d a (s.immZ i) tagShl shlW
def execShri (d a : BitVec 7) (i : BitVec 8) (s : State) : Res := s.vopI d a (s.immZ i) noTag shrW
def execSari (d a : BitVec 7) (i : BitVec 8) (s : State) : Res := s.vopI d a (s.immZ i) noTag sarW
/-- R115: zero-extended for codes 6 to 9, sign-extended otherwise. -/
def execIcmpi (k : BitVec 4) (a : BitVec 7) (i : BitVec 8) (s : State) : Res :=
  let x := s.src a
  let y := if 6 ≤ k.toNat then s.immZ i else s.immS i
  s.compare fun l => (iCompare k.toNat (x.lane l) y, 0)
def execMovi (d : BitVec 7) (i : BitVec 8) (s : State) : Res := s.vop d [.u (s.immS i)] none fun _ => s.immS i
/-- R102, R115: LANEIDX adds l times i to the source. -/
def execLaneidx (d a : BitVec 7) (i : BitVec 8) (s : State) : Res :=
  let x := s.src a
  let k := s.immS i
  let sp := match x with
    | .u b => some (VReg.a b k)
    | .a b st => some (.a b (st + k))
    | _ => none
  s.vop d [x] (some sp) fun l => x.lane l + BitVec.ofNat 32 l * k
def execIminiS (d a : BitVec 7) (i : BitVec 8) (s : State) : Res := s.vopI d a (s.immS i) noTag minS
def execImaxiS (d a : BitVec 7) (i : BitVec 8) (s : State) : Res := s.vopI d a (s.immS i) noTag maxS

end Sys2Proof.Machine
end

