-- ==== Sys2Proof/Machine/Uniform.lean ====
section
/-! DEFINITION. Class 0x3, uniform (R125 to R130): each executes once per issue, for the warp (R126). -/

namespace Sys2Proof.Machine

/-- A uniform instruction's effect on the warp, then the advance of the issue set (R126); for helper lanes alone it has none
(R384). -/
def State.uni (s : State) (f : Warp → Warp) : Res := .next (if s.acts then s.modCur f else s).advance

def State.wop2 (s : State) (d a : BitVec 8) (b : BitVec 6) (f : Word → Word → Word) : Res :=
  s.uni fun w => w.setWreg d.toNat (f (w.wreg a.toNat) (w.wreg b.toNat))

/-- R127. -/
def execWadd (d a : BitVec 8) (b : BitVec 6) (s : State) : Res := s.wop2 d a b (· + ·)
def execWsub (d a : BitVec 8) (b : BitVec 6) (s : State) : Res := s.wop2 d a b (· - ·)
def execWmul (d a : BitVec 8) (b : BitVec 6) (s : State) : Res := s.wop2 d a b (· * ·)
def execWand (d a : BitVec 8) (b : BitVec 6) (s : State) : Res := s.wop2 d a b (· &&& ·)
def execWor (d a : BitVec 8) (b : BitVec 6) (s : State) : Res := s.wop2 d a b (· ||| ·)
def execWxor (d a : BitVec 8) (b : BitVec 6) (s : State) : Res := s.wop2 d a b (· ^^^ ·)
def execWshl (d a : BitVec 8) (b : BitVec 6) (s : State) : Res := s.wop2 d a b shlW
def execWshr (d a : BitVec 8) (b : BitVec 6) (s : State) : Res := s.wop2 d a b shrW
def execWsar (d a : BitVec 8) (b : BitVec 6) (s : State) : Res := s.wop2 d a b sarW
/-- `WC.C` is bit 0 and `WC.E` bit 1 (R125). -/
def setC (wc : Word) (b : Bool) : Word := if b then wc ||| 1 else wc &&& ~~~1
def setE (wc : Word) (b : Bool) : Word := if b then wc ||| 2 else wc &&& ~~~2
def execWcmp (k : BitVec 4) (a : BitVec 8) (b : BitVec 6) (s : State) : Res :=
  s.uni fun w => { w with wc := setC w.wc (iCompare k.toNat (w.wreg a.toNat) (w.wreg b.toNat)) }
def execWsel (d a : BitVec 8) (b : BitVec 6) (s : State) : Res :=
  s.uni fun w => w.setWreg d.toNat (if w.wc.getLsbD 0 then w.wreg a.toNat else w.wreg b.toNat)
def execWmov (d a : BitVec 8) (s : State) : Res := s.uni fun w => w.setWreg d.toNat (w.wreg a.toNat)
/-- R128. -/
def execWli (d : BitVec 8) (i : BitVec 14) (s : State) : Res := s.uni fun w => w.setWreg d.toNat (i.signExtend 32)
def execWlih (d : BitVec 8) (i : BitVec 14) (s : State) : Res :=
  s.uni fun w => w.setWreg d.toNat ((w.wreg d.toNat <<< 14) + i.setWidth 32)
/-- R130. -/
def execWadd64 (d a : BitVec 8) (b : BitVec 6) (s : State) : Res :=
  s.uni fun w => w.setWpair d.toNat (w.wpair a.toNat + w.wpair b.toNat)
/-- R129: a vector destination, written in the issue set. -/
def execWtov (d : BitVec 7) (a : BitVec 8) (s : State) : Res :=
  let x := s.cur.wreg a.toNat
  if s.acts then s.vop d [.u x] none fun _ => x else .next s.advance
/-- R129: lane n's value, or that of the lowest lane of the issue set. -/
def execVtow (d : BitVec 8) (a : BitVec 7) (b : BitVec 6) (s : State) : Res :=
  let n := if b.getLsbD 5 then (lowest (fun l => s.inSet l) (List.range 32)).getD 0 else b.toNat % 32
  s.uni fun w => w.setWreg d.toNat (w.vlane a.toNat n)
def execWaddi (d a : BitVec 8) (i : BitVec 6) (s : State) : Res :=
  s.uni fun w => w.setWreg d.toNat (w.wreg a.toNat + i.signExtend 32)
def execWmin (d a : BitVec 8) (b : BitVec 6) (s : State) : Res := s.wop2 d a b minS
def execWmax (d a : BitVec 8) (b : BitVec 6) (s : State) : Res := s.wop2 d a b maxS

end Sys2Proof.Machine
end

