-- ==== Sys2Proof/Machine/Lanes.lean ====
section
/-! DEFINITION. Class 0x4, lanes and masks (R138 to R147). -/

namespace Sys2Proof.Machine

/-- R141: a shuffle; `j` gives the lane read, out of range the lane's own. A source tagged U with a full E stays U (R140; one
tagged V does not, log entry 24). -/
def State.shuffle (s : State) (d a b : BitVec 7) (j : Nat → Nat → Int) : Res :=
  let x := s.src a
  let y := s.srcB b
  let f l : Word :=
    let k := j l (y.lane l).toNat
    if 0 ≤ k ∧ k ≤ 31 then x.lane k.toNat else x.lane l
  let c := match s.cur.vreg a.toNat with
    | .u v => some (VReg.u v)
    | _ => none
  .next (s.effect { writes := [⟨d.toNat, f, c⟩] })
def execShflIdx (d a b : BitVec 7) (s : State) : Res := s.shuffle d a b fun _ k => (k % 32 : Nat)
def execShflUp (d a b : BitVec 7) (s : State) : Res := s.shuffle d a b fun l k => (l : Int) - k
def execShflDn (d a b : BitVec 7) (s : State) : Res := s.shuffle d a b fun l k => (l : Int) + k
def execShflXor (d a b : BitVec 7) (s : State) : Res := s.shuffle d a b fun l k => (l ^^^ (k % 32) : Nat)

/-- A warp value: one value in every written lane, U when E is full (R140). -/
def State.warpValue (s : State) (d : BitVec 7) (x : Word) (post : Warp → Warp) : Res :=
  .next (s.effect { writes := [⟨d.toNat, fun _ => x, some (.u x)⟩], post := post })

/-- R142: the lanes of E with a nonzero source. -/
def State.nonzero (s : State) (a : BitVec 7) : Mask :=
  let x := s.src a
  maskOf fun l => s.inE l && x.lane l != 0
def execVoteAny (d a : BitVec 7) (s : State) : Res :=
  let v := decide (s.nonzero a ≠ 0)
  s.warpValue d (if v then 1 else 0) fun w => { w with wc := setC w.wc v }
def execVoteAll (d a : BitVec 7) (s : State) : Res :=
  let v := decide (s.nonzero a = s.eff)
  s.warpValue d (if v then 1 else 0) fun w => { w with wc := setC w.wc v }
/-- A result that is a mask, written when E is not empty (R140). -/
def State.maskResult (s : State) (d : BitVec 3) (m : Mask) : Res :=
  .next (s.effect { post := fun w => w.setMask d.toNat m })
def execBallot (d : BitVec 3) (a : BitVec 7) (s : State) : Res := s.maskResult d (s.nonzero a)
/-- A lane result of class 0x4: G (R140). -/
def State.laneValue (s : State) (d : BitVec 7) (f : Nat → Word) (post : Warp → Warp) : Res :=
  .next (s.effect { writes := [⟨d.toNat, f, none⟩], post := post })
def execMatchLanes (d a : BitVec 7) (s : State) : Res :=
  let x := s.src a
  s.laneValue d (fun l => maskOf fun j => s.inE j && x.lane j == x.lane l) id

/-- R143: the contribution set K. -/
def State.contrib (s : State) (b : BitVec 7) : Mask :=
  if b = 0 then s.eff else s.eff &&& s.cur.mask (b.toNat % 8)
/-- R143: the sources with the identity outside K. -/
def State.contribVal (s : State) (a b : BitVec 7) (ident : Word) (j : Nat) : Word :=
  if (s.contrib b).getLsbD j then (s.src a).lane j else ident
def setEmpty (k : Mask) (w : Warp) : Warp := { w with wc := setE w.wc (decide (k = 0)) }
def State.reduce (s : State) (d a b : BitVec 7) (ident : Word) (op : Word → Word → Word) : Res :=
  s.warpValue d ((List.range 32).foldl (fun x j => op x (s.contribVal a b ident j)) ident) (setEmpty (s.contrib b))
def execRedAdd (d a b : BitVec 7) (s : State) : Res := s.reduce d a b 0 (· + ·)
def execRedMinS (d a b : BitVec 7) (s : State) : Res := s.reduce d a b 0x7FFFFFFF minS
def execRedMinN (d a b : BitVec 7) (s : State) : Res := s.reduce d a b 0xFFFFFFFF minN
def execRedMaxS (d a b : BitVec 7) (s : State) : Res := s.reduce d a b 0x80000000 maxS
def execRedMaxN (d a b : BitVec 7) (s : State) : Res := s.reduce d a b 0 maxN
def execRedAnd (d a b : BitVec 7) (s : State) : Res := s.reduce d a b 0xFFFFFFFF (· &&& ·)
def execRedOr (d a b : BitVec 7) (s : State) : Res := s.reduce d a b 0 (· ||| ·)
def execScanAdd (d a b : BitVec 7) (s : State) : Res :=
  s.laneValue d (fun l => (List.range (l + 1)).foldl (fun x j => x + s.contribVal a b 0 j) 0) (setEmpty (s.contrib b))

/-- One step of `red_fadd` at distance d over (value, flags) of the 32 lanes (R94). -/
def redStep (env : NumEnv) (xs : List (Nat × Flags)) (d : Nat) : List (Nat × Flags) :=
  (List.range 32).map fun l =>
    let p := xs.getD (min l (l ^^^ d)) (0, 0)
    let q := xs.getD (max l (l ^^^ d)) (0, 0)
    let r := treeAdd env p.1 q.1 ⟨(xs.getD l (0, 0)).2, 0⟩
    (r.1, r.2.fl)
def scanStep (env : NumEnv) (xs : List (Nat × Flags)) (d : Nat) : List (Nat × Flags) :=
  (List.range 32).map fun l =>
    if l < d then xs.getD l (0, 0)
    else
      let r := treeAdd env (xs.getD (l - d) (0, 0)).1 (xs.getD l (0, 0)).1 ⟨(xs.getD l (0, 0)).2, 0⟩
      (r.1, r.2.fl)
/-- R94, R144: the trees over the contributions, with the flags each lane holds. -/
def State.fadds (s : State) (a b : BitVec 7) : List (Nat × Flags) :=
  (List.range 32).map fun j => ((s.contribVal a b 0x80000000 j).toNat, 0)
def execRedFadd (d a b : BitVec 7) (s : State) : Res :=
  let t := [1, 2, 4, 8, 16].foldl (redStep s.env) (s.fadds a b)
  let v : Word := BitVec.ofNat 32 (t.getD 0 (0, 0)).1
  .next (s.effect { writes := [⟨d.toNat, fun l => BitVec.ofNat 32 (t.getD l (0, 0)).1, some (.u v)⟩],
                    flags := (fun l => (t.getD l (0, 0)).2), post := setEmpty (s.contrib b) })
def execScanFadd (d a b : BitVec 7) (s : State) : Res :=
  let t := [1, 2, 4, 8, 16].foldl (scanStep s.env) (s.fadds a b)
  .next (s.effect { writes := [⟨d.toNat, fun l => BitVec.ofNat 32 (t.getD l (0, 0)).1, none⟩],
                    flags := (fun l => (t.getD l (0, 0)).2), post := setEmpty (s.contrib b) })

/-- R145: mask algebra, once per issue. -/
def State.maskOp (s : State) (d a b : BitVec 3) (f : Mask → Mask → Mask) : Res :=
  s.uni fun w => w.setMask d.toNat (f (w.mask a.toNat) (w.mask b.toNat))
def execMand (d a b : BitVec 3) (s : State) : Res := s.maskOp d a b (· &&& ·)
def execMor (d a b : BitVec 3) (s : State) : Res := s.maskOp d a b (· ||| ·)
def execMxor (d a b : BitVec 3) (s : State) : Res := s.maskOp d a b (· ^^^ ·)
def execMandn (d a b : BitVec 3) (s : State) : Res := s.maskOp d a b fun x y => x &&& ~~~y
def execMmov (d a : BitVec 3) (s : State) : Res := s.maskOp d a a fun x _ => x

/-- R146. -/
def execMpopc (d : BitVec 7) (a : BitVec 3) (s : State) : Res :=
  s.warpValue d (BitVec.ofNat 32 (popc (s.cur.mask a.toNat).toNat)) id
def execMpopcRank (d : BitVec 7) (a : BitVec 3) (s : State) : Res :=
  s.laneValue d (fun l => BitVec.ofNat 32 (popc ((s.cur.mask a.toNat).toNat % 2 ^ l))) id
def execMfirst (d : BitVec 7) (a : BitVec 3) (s : State) : Res := s.warpValue d (ctzW (s.cur.mask a.toNat)) id
def execMtov (d : BitVec 7) (a : BitVec 3) (s : State) : Res := s.warpValue d (s.cur.mask a.toNat) id
def execVtom (d : BitVec 3) (a : BitVec 7) (b : BitVec 5) (s : State) : Res :=
  let x := s.src a
  let e := s.eff
  let m (w : Warp) : Warp :=
    w.setMask d.toNat (maskWrite (w.mask d.toNat) e s.issue.set s.pz (fun l => (x.lane l).getLsbD b.toNat))
  .next (s.effect { post := m })
/-- R147. -/
def execElect (d : BitVec 3) (s : State) : Res :=
  s.maskResult d (maskOf fun l => some l = lowest (fun j => s.inE j) (List.range 32))
def execIssuem (d : BitVec 3) (s : State) : Res := s.maskResult d s.eff

end Sys2Proof.Machine
end

