-- ==== Sys2Proof/Machine/Flow.lean ====
section
/-! DEFINITION. Class 0x5, control flow (R148 to R155), the ends of lanes and warps, and rejoin masks (R51). -/

namespace Sys2Proof.Machine

/-- The issuing warp's launch and its code segment (R17). -/
def State.curLaunch (s : State) : Launch := s.launch s.cur.launch
def State.codeLimit (s : State) : Nat := s.curLaunch.desc.limit.toNat

/-- R17, R149: the end of a lane that takes a transfer to word t: the target, or the fetch fault on the transfer. -/
def State.transferEnd (s : State) (t : Int) : LaneEnd :=
  if 0 ≤ t ∧ t < s.codeLimit then .goto t.toNat
  else .trap { s.record 1 with addr := BitVec.ofInt 64 ((s.curLaunch.desc.code.toNat : Int) + 4 * t) }
/-- A transfer target lies in the segment. -/
def State.validTarget (s : State) (t : Int) : Bool := decide (0 ≤ t ∧ t < s.codeLimit)

/-- R22: the target of a BR form. -/
def State.brTarget (s : State) (o : BitVec 18) : Int := (s.issue.pc : Int) + o.toInt

/-- R150. -/
def execBra (o : BitVec 18) (s : State) : Res := .next (s.finish fun _ => s.transferEnd (s.brTarget o))
def execBrc (n : BitVec 1) (k : BitVec 3) (o : BitVec 18) (s : State) : Res :=
  let m := s.cur.mask k.toNat
  .next (s.finish fun l => if m.getLsbD l != n.getLsbD 0 then s.transferEnd (s.brTarget o) else .next)
def execBrw (n : BitVec 1) (o : BitVec 18) (s : State) : Res :=
  let taken := s.cur.wc.getLsbD 0 != n.getLsbD 0
  .next (s.finish fun _ => if taken then s.transferEnd (s.brTarget o) else .next)
/-- R150: the counter is decremented once per issue; when the taken target is outside the segment it keeps its value. -/
def execLoopw (w : BitVec 4) (o : BitVec 18) (s : State) : Res :=
  let k := s.cur.wreg w.toNat - 1
  if s.acts = false then .next s.advance
  else if k ≠ 0 ∧ s.validTarget (s.brTarget o) = false then
    .next (s.finish fun _ => s.transferEnd (s.brTarget o))
  else .next ((s.modCur fun x => x.setWreg w.toNat k).finish fun _ =>
    if k ≠ 0 then s.transferEnd (s.brTarget o) else .next)

/-- R151: a call writes pc + 1 in the lanes whose target is valid: U when those are all 32 lanes, else G. A lane with
a bad target takes the fetch fault and is not written; the register-overflow trap leaves the others on the call. -/
def State.callTo (s : State) (d : Nat) (t : Nat → Int) : State :=
  let ok := maskOf fun l => s.inSet l && s.validTarget (t l)
  let ra : Word := BitVec.ofNat 32 (s.issue.pc + 1)
  let w := s.cur
  let w1 := if ok = 0 then w else w.write ok ok false [⟨d, fun _ => ra, some (.u ra)⟩]
  if w.budget < w1.rows && ok != 0 then
    s.finish fun l => if s.validTarget (t l) then .trap (s.overflowRec (rowsNeeded w w1)) else s.transferEnd (t l)
  else (s.setWarp s.issue.warp w1).finish fun l => s.transferEnd (t l)
def execCall (o : BitVec 18) (s : State) : Res := .next (s.callTo 127 fun _ => s.brTarget o)
def execCalli (d a : BitVec 7) (s : State) : Res :=
  let x := s.src a
  .next (s.callTo d.toNat fun l => ((x.lane l).toNat : Int))
/-- R151: an indirect transfer to the lane's own word index. -/
def State.indirect (s : State) (a : BitVec 7) : Res :=
  let x := s.src a
  .next (s.finish fun l => s.transferEnd ((x.lane l).toNat : Int))
def execBri (a : BitVec 7) (s : State) : Res := s.indirect a
def execRet (a : BitVec 7) (s : State) : Res := s.indirect a

/-- R51, R152. -/
def execSplit (d : BitVec 3) (s : State) : Res :=
  .next (s.modCur fun w => w.setJoin d.toNat s.issue.set).advance
/-- R51: a lane of jK waits at the JOIN; any other lane passes. -/
def execJoin (d : BitVec 3) (s : State) : Res :=
  let j := s.cur.join d.toNat
  let set := s.issue.set
  let pc := s.issue.pc
  .next (s.modCur fun w => w.mapLanes fun l x =>
    if set.getLsbD l then
      if j.getLsbD l then { x with status := .join, joinTarget := d.toNat } else { x with pc := pc + 1 }
    else x)

/-! ## Ends of lanes (R153, R154, R329) -/

/-- The tag of a launch's domain (R317). -/
def Launch.domTag (x : Launch) (id d : Nat) : DomTag :=
  match mapGet? x.domains d with
  | some (_, _, t) => t
  | none => .priv id d

/-- The abandonment of each section a lane holds, in entry order, on its way to the homes (R153, R329). -/
def State.abandonLane (s : State) (w l : Nat) : State :=
  let x := s.warp w
  ((x.lane l).held).foldl (fun s h =>
    let n := s.fresh
    { n.2 with flights := n.2.flights ++ [
        { id := n.1, warp := w, wg := x.wg, lane := l, set := maskOf (· == l), who := maskOf (· == l), rel := true, counted := true,
          kind := .ordLeave ((s.launch x.launch).domTag x.launch h.dom) h.key h.s true }] }) s

/-- A lane's outstanding loads are dropped when they return (R153), an LDW's with the last of its lanes (R165); its waiting
requests are withdrawn (R154). `gone` holds the lanes that are DONE, this one among them. -/
def Flight.endLane (f : Flight) (w l : Nat) (gone : Mask) : Option Flight :=
  if f.warp = w ∧ f.who.getLsbD l = true then
    match f.kind with
    | .ordReq .. => none
    | _ => some { f with dropped := f.dropped || f.who &&& ~~~gone == 0 }
  else some f

/-- R153: a lane becomes DONE and its sections are abandoned. -/
def State.endLane (s : State) (w l : Nat) : State :=
  if ((s.warp w).lane l).status = .done then s
  else
    let s := s.abandonLane w l
    let gone := maskOf fun i => i == l || ((s.warp w).lane i).status == .done
    let s := { s with flights := s.flights.filterMap fun (f : Flight) => f.endLane w l gone }
    s.modWarp w fun x => x.setLane l { x.lane l with status := .done, wait := .none, held := [], parked := false, trap := none }

/-- R154: every lane of a warp ends. -/
def State.endWarp (s : State) (w : Nat) : State :=
  let s := (List.range 32).foldl (fun s l => s.endLane w l) s
  s.modWarp w fun x => { x.endHandler with halted := false }

/-- R153; in a handler the mode may end (R409). -/
def execExit (s : State) : Res :=
  let w := s.issue.warp
  let t := ((lanesOf s.issue.set).foldl (fun s l => s.endLane w l) s).modWarp w fun x => x.endHandler
  .next (t.checkBarriers s.cur.wg)
/-- R154. -/
def execEndAll (s : State) : Res := .next ((s.endWarp s.issue.warp).checkBarriers s.cur.wg)

/-- R51: the mask's lanes are all DONE or wait on it. -/
def Warp.rejoinReady (w : Warp) (k : Nat) : Bool :=
  (List.range 32).all fun l =>
    !(w.join k).getLsbD l || (w.lane l).status == .done || ((w.lane l).status == .join && (w.lane l).joinTarget == k)
/-- R51: some lane waits on jK. -/
def Warp.rejoinWaits (w : Warp) (k : Nat) : Bool :=
  (List.range 32).any fun l => (w.lane l).status == .join && (w.lane l).joinTarget == k
/-- R51, R407: the lanes waiting on jK return to RUN one word past their JOIN, or are parked in handler mode. -/
def execRejoinRelease (w k : Nat) (s : State) : Res :=
  if (s.warp w).rejoinReady k then
    .next (s.modWarp w fun x => x.mapLanes fun _ y =>
      if y.status = .join ∧ y.joinTarget = k then { y.release x.handlerMode with pc := y.pc + 1 } else y)
  else .next s

/-- R17, R36, R459: every lane of the issue set takes the instruction-fetch fault the issue met; the record's word and
prefix are what was fetched. `issue.word` and `issue.pfx` hold them; the address of the missing word is the program
counter's, or the base word's when the prefix was fetched. A word that has no destination is logged (R469). -/
def execInstructionFetchFault (s : State) : Res :=
  let base := s.curLaunch.desc.code.toNat
  let i := if s.issue.pfx.isSome then s.issue.pc + 1 else s.issue.pc
  .next ((if i < s.codeLimit then s.vnote s.curLaunch.asid (base + 4 * i) 4 else s).trapAll { s.record 1 with addr := BitVec.ofNat 64 (base + 4 * i) })

/-- R35: every lane of the issue set takes the illegal-instruction trap, whatever its predicate. -/
def execIllegalInstruction (s : State) : Res := .next (s.trapAll (s.record 2))

end Sys2Proof.Machine
end

