-- ==== Sys2Proof/Machine/Ace.lean ====
section
/-! DEFINITION. Accumulator elements: their image, placement of products, resolve, comparison and merge (R85 to R93, R184,
R194, R197, R272 to R277). -/

namespace Sys2Proof.Machine

/-- R85: the cleared state. -/
def Ace.cleared : Ace := ⟨0, 0, 0x800, false, false, false, false, false, false, false, false, false⟩
/-- R86: V. -/
def Ace.v (e : Ace) : Int := (e.s + e.c).toInt
def Ace.anchor (e : Ace) : Int := e.anc.toInt
/-- R85, R275: an element in integer mode is never unplaced. -/
def Ace.unplaced (e : Ace) : Bool := !e.int && !e.an && e.anc == 0x800
/-- S = V mod 2^80, C = 0 (R273). -/
def Ace.setV (e : Ace) (v : Int) : Ace := { e with s := BitVec.ofInt 80 v, c := 0 }
def Ace.canon (e : Ace) : Ace := e.setV e.v
/-- R273: any pair with the same V; S is the free value (log entry 8). -/
def Ace.repair (e : Ace) (sw : BitVec 80) : Ace := { e with s := sw, c := e.s + e.c - sw }
/-- R190: the element AANC leaves. -/
def Ace.anchored (anc : BitVec 12) : Ace := { Ace.cleared with an := true, anc := anc }
/-- R184. -/
def Ace.start (e : Ace) : Ace := if e.an && !e.int then Ace.anchored e.anc else Ace.cleared

/-! ## The 24-byte image (R85, R275) -/

def bNat (b : Bool) (n : Nat) : Nat := if b then n else 0
def Ace.bytes (e : Ace) : List Byte :=
  toBytes 10 e.s.toNat ++ toBytes 10 e.c.toNat
    ++ toBytes 2 (e.anc.toNat + bNat e.an 0x1000 + bNat e.st 0x2000 + bNat e.ovf 0x4000 + bNat e.int 0x8000)
    ++ [BitVec.ofNat 8 (bNat e.nan 1 + bNat e.pinf 2 + bNat e.ninf 4 + bNat e.pois 8 + bNat e.ra 16), 0]
def Ace.ofBytes (b : List Byte) : Ace :=
  let h := Machine.ofBytes ((b.drop 20).take 2)
  let f := (b.getD 22 0).toNat
  { s := BitVec.ofNat 80 (Machine.ofBytes (b.take 10)), c := BitVec.ofNat 80 (Machine.ofBytes ((b.drop 10).take 10)),
    anc := BitVec.ofNat 12 h, an := bitAt h 12, st := bitAt h 13, ovf := bitAt h 14, int := bitAt h 15,
    nan := bitAt f 0, pinf := bitAt f 1, ninf := bitAt f 2, pois := bitAt f 3, ra := bitAt f 4 }

/-! ## Products (R87 to R91) -/

/-- A product that is not zero; a zero product adds nothing and takes no part (R87). -/
inductive Product
  | nan
  | inf (neg : Bool)
  | fin (x : Dy)
  deriving DecidableEq, Repr

/-- R87, R88: one finite product placed; with a fixed anchor one of 2^64 units or more sets OVF and an infinity. -/
def Ace.place (e : Ace) (x : Dy) (fixed : Bool) : Ace :=
  let k := x.e - e.anchor
  let q := shiftFloor x.m k
  if fixed && decide (2 ^ 64 ≤ q.natAbs) then
    if x.m < 0 then { e with ovf := true, ninf := true } else { e with ovf := true, pinf := true }
  else
    let lost := decide (k < 0) && decide (x.m % 2 ^ (-k).toNat ≠ 0)
    { e.setV (e.v + q) with st := e.st || lost }

/-- R89: the anchor of an element without a fixed one, before the products of one instruction are placed. -/
def Ace.reanchor (e : Ace) (top : Int) : Ace :=
  if e.unplaced then { e with anc := BitVec.ofInt 12 (top - 63) }
  else if e.anchor + 63 < top then
    let d := (top - 63 - e.anchor).toNat
    { e.setV (e.v / 2 ^ d) with st := e.st || decide (e.v % 2 ^ d ≠ 0), anc := BitVec.ofInt 12 (top - 63), ra := true }
  else e

/-- `ace_add`: the products one instruction brings to an element, and whether a product of the other mode raised IV
(R90, R91). A product of the other mode sets NAN alone, an infinite one too (log entry 59). -/
def Ace.add (e : Ace) (integer : Bool) (ps : List Product) : Ace × Bool :=
  if ps.isEmpty then (e, false)
  else if (integer && !e.int && !e.unplaced) || (!integer && e.int) then ({ e with nan := true }, true)
  else
    let e := ps.foldl (fun (e : Ace) p => match p with
      | .nan => { e with nan := true }
      | .inf true => { e with ninf := true }
      | .inf false => { e with pinf := true }
      | .fin _ => e) e
    let xs := ps.filterMap fun p => match p with
      | .fin x => some x
      | _ => none
    if xs.isEmpty then (e, false)
    else
      let e := if integer then (if e.unplaced then { e with int := true, an := true, anc := 0 } else e)
        else if e.an then e
        else
          let es := xs.map fun x => exponentOf x.m x.e
          e.reanchor (es.foldl max (es.headD 0))
      (xs.foldl (fun a x => a.place x (integer || e.an)) e, false)

/-- An element value of the codes of R179, without flushing. -/
def matWidth (code : Nat) : Nat := if code = 0 then 4 else if code < 6 then 8 else 16
def matElem (code b : Nat) : FVal :=
  match code with
  | 0 => decodeRaw E2M1 b
  | 1 => decodeRaw E2M3 b
  | 2 => decodeRaw E3M2 b
  | 3 => decodeRaw E4M3 b
  | 4 => decodeRaw E5M2 b
  | 5 => let n := sextN 8 b; .fin (decide (n < 0)) n.natAbs 0
  | 6 => decodeRaw F16 b
  | _ => decodeRaw BF16 b

/-- R91, R183: xa * xb * a * b, negated or not: no product for a zero, and whether the product raises IV. A NaN scale makes
the product NaN without a flag of its own (R70). -/
def product (neg : Bool) (a xa b xb : FVal) : Option Product × Bool :=
  let sNan := a.isSNan || b.isSNan
  if a.isNan || b.isNan || xa.isNan || xb.isNan then (some .nan, sNan)
  else if (a.isInf && b.isZero) || (a.isZero && b.isInf) then (some .nan, true)
  else
    let s := (a.neg != b.neg) != neg
    if a.isInf || b.isInf then (some (.inf s), false)
    else if a.isZero || b.isZero then (none, false)
    else
      let p := Dy.mul (Dy.mul xa.dy xb.dy) (Dy.mul a.dy b.dy)
      (some (.fin (if neg then p.neg else p)), false)

/-! ## Resolving (R192, R193, R93) and comparing (R194) -/

/-- A resolve format: a number format or a signed integer of a width. -/
inductive RFmt
  | flt (f : Fmt)
  | int (w : Nat)
def resolveFmt : Nat → RFmt
  | 0 => .flt F32
  | 1 => .flt F16
  | 2 => .flt BF16
  | 3 => .flt E4M3
  | 4 => .flt E5M2
  | 5 => .int 32
  | 6 => .int 8
  | _ => .flt E2M1
/-- Bits of a resolved element. -/
def resolveBits : Nat → Nat
  | 0 => 32
  | 1 => 16
  | 2 => 16
  | 3 => 8
  | 4 => 8
  | 5 => 32
  | 6 => 8
  | _ => 4

/-- The exact value: V * 2^ANC, with a tail when ST = 1 (R86). -/
def Ace.dy (e : Ace) : Dy := ⟨e.v, e.anchor, e.st⟩

/-- R93, rules 2 to 8, for an element without POIS; an integer comes as its pattern. Rule 3 for an image with neither PINF
nor NINF gives +max (log entry 60). -/
def Ace.resolve (e : Ace) (env : NumEnv) (code : Nat) (n : LaneNum) : Nat × LaneNum :=
  match resolveFmt code with
  | .flt f =>
    if e.nan || (e.pinf && e.ninf) then nanResult env f [] (n.raise flIV)
    else if e.ovf && env.sat then (f.signed e.ninf f.maxPat, n.raise flOF)
    else if e.pinf || e.ninf then infPatOf env f e.ninf n
    else if e.unplaced || (e.v == 0 && !e.st) then (f.signed (decide (env.rm = .rdn)) 0, n)
    else roundFin env f e.dy false n
  | .int w =>
    let i : IFmt := ⟨w, true⟩
    if e.nan || (e.pinf && e.ninf) then (0, n.raise flIV)
    else if e.pinf || e.ninf then (bitsOf w (if e.ninf then i.lo else i.hi), n.raise flIV)
    else if e.unplaced || (e.v == 0 && !e.st) then (0, n)
    else if e.int then
      let exact := !e.st && (decide (0 ≤ e.anchor) || decide (e.v % 2 ^ (-e.anchor).toNat = 0))
      let g := if exact then (shiftFloor e.v e.anchor, n) else roundInt env.rm e.dy n
      let r := satInt i g.1 g.2
      (bitsOf w r.1, r.2)
    else
      let g := roundInt env.rm e.dy n
      let c := clampInt i g.1
      (bitsOf w c, if c = g.1 then g.2 else g.2.raise flIV)

/-- R194: LT, LE, GT, GE of the exact value and a threshold. -/
def Ace.compare (e : Ace) (cond : Nat) (t : FVal) : Bool :=
  if e.nan || e.pois || (e.pinf && e.ninf) || t.isNan then false
  else
    -- the order of the element against t: below, equal, above
    let o : Ordering :=
      if e.pinf || e.ninf then
        (if t.isInf && t.neg == e.ninf then .eq else if e.ninf then .lt else .gt)
      else if t.isInf then (if t.neg then .gt else .lt)
      else
        let x : Dy := if e.unplaced then ⟨0, 0, false⟩ else ⟨e.v, e.anchor, false⟩
        if Dy.lt x t.dy then .lt else if Dy.lt t.dy x then .gt
        else if e.st && !e.unplaced then .gt else .eq
    match cond with
    | 0 => o == .lt
    | 1 => o != .gt
    | 2 => o == .gt
    | _ => o != .lt

/-! ## Raw merge (R197, R276, R277) -/

def Ace.orFlags (d s : Ace) : Ace :=
  { d with st := d.st || s.st, ovf := d.ovf || s.ovf, nan := d.nan || s.nan, pinf := d.pinf || s.pinf,
           ninf := d.ninf || s.ninf, pois := d.pois || s.pois, ra := d.ra || s.ra }
/-- Truncation to a higher anchor. -/
def Ace.raiseTo (x : Ace) (m : Int) : Ace :=
  if x.anchor < m then
    let k := (m - x.anchor).toNat
    { x.setV (x.v / 2 ^ k) with st := x.st || decide (x.v % 2 ^ k ≠ 0), anc := BitVec.ofInt 12 m }
  else x
/-- The destination after a merge; POIS of either side stays in every case (R276). -/
def Ace.merge (d s : Ace) : Ace :=
  let pois := d.pois || s.pois
  let r :=
    if s.unplaced then d.orFlags s
    else if d.unplaced then s
    else if d.int != s.int then { d with nan := true }
    else
      let m := max d.anchor s.anchor
      let ra := d.anc != s.anc
      let d' := d.raiseTo m
      let s' := s.raiseTo m
      let r := (d'.setV (d'.v + s'.v)).orFlags s'
      { r with ra := r.ra || ra, an := d.an && s.an }
  { r.canon with pois := pois }

end Sys2Proof.Machine
end

