-- ==== Sys2Proof/Machine/LoadStore.lean ====
section
/-! DEFINITION. Class 0x6, loads and stores (R156 to R167). -/

namespace Sys2Proof.Machine

/-- R29, R157: the offset of the prefix, scaled by the access size. -/
def State.ofs6 (s : State) (n : Nat) : Nat := bits s.px 0 6 * n

/-- R161, R163: the loads of `n` bytes of the lanes of E. -/
def State.loadLanes (s : State) (pad : Bool) (n : Nat) (signed : Bool) (la d v w : Nat) : Res :=
  let chk l := if pad then s.checkPad false n true (s.padSa w v l (s.ofs6 n))
    else s.checkGlobal .r n true l (s.globalEa w v l (s.ofs6 n))
  .next (s.issueLanes d ((n + 3) / 4) (fun _ => true) chk fun l grp ps page ea =>
    (s.flight l la grp (.load ps n signed d false)).ordered page s.ordBits s.scopeBits true false ea)

/-- The bytes a lane stores: `n` bytes of its data registers, lowest first (R161). -/
def State.storeBytes (s : State) (d n l : Nat) : List Byte :=
  (((List.range ((n + 3) / 4)).flatMap fun i => toBytes 4 ((s.cur.vreg (d + i)).norm.lane l).toNat)).take n

/-- R161, R167: the stores of the lanes of E that are no helpers. Flights stand in lane order, so the highest lane's
value stays where two lanes meet (R162). -/
def State.storeLanes (s : State) (pad : Bool) (n : Nat) (la d v w : Nat) : Res :=
  let chk l := if pad then s.checkPad false n true (s.padSa w v l (s.ofs6 n))
    else s.checkGlobal .w n true l (s.globalEa w v l (s.ofs6 n))
  .next (s.issueLanes d 0 (fun l => !(s.cur.lane l).helper) chk fun l grp ps page ea =>
    { (s.flight l la grp (.store [ps.zip (s.storeBytes d n l)] [])).ordered page s.ordBits s.scopeBits false true ea with
      counted := true })

def execLdB8 (l : BitVec 4) (d v : BitVec 7) (w : BitVec 4) (s : State) : Res :=
  s.loadLanes false 1 false l.toNat d.toNat v.toNat w.toNat
def execLdS8 (l : BitVec 4) (d v : BitVec 7) (w : BitVec 4) (s : State) : Res :=
  s.loadLanes false 1 true l.toNat d.toNat v.toNat w.toNat
def execLdB16 (l : BitVec 4) (d v : BitVec 7) (w : BitVec 4) (s : State) : Res :=
  s.loadLanes false 2 false l.toNat d.toNat v.toNat w.toNat
def execLdS16 (l : BitVec 4) (d v : BitVec 7) (w : BitVec 4) (s : State) : Res :=
  s.loadLanes false 2 true l.toNat d.toNat v.toNat w.toNat
def execLdB32 (l : BitVec 4) (d v : BitVec 7) (w : BitVec 4) (s : State) : Res :=
  s.loadLanes false 4 false l.toNat d.toNat v.toNat w.toNat
def execLdB64 (l : BitVec 4) (d v : BitVec 7) (w : BitVec 4) (s : State) : Res :=
  s.loadLanes false 8 false l.toNat d.toNat v.toNat w.toNat
def execLdB128 (l : BitVec 4) (d v : BitVec 7) (w : BitVec 4) (s : State) : Res :=
  s.loadLanes false 16 false l.toNat d.toNat v.toNat w.toNat
def execStB8 (l : BitVec 4) (d v : BitVec 7) (w : BitVec 4) (s : State) : Res :=
  s.storeLanes false 1 l.toNat d.toNat v.toNat w.toNat
def execStB16 (l : BitVec 4) (d v : BitVec 7) (w : BitVec 4) (s : State) : Res :=
  s.storeLanes false 2 l.toNat d.toNat v.toNat w.toNat
def execStB32 (l : BitVec 4) (d v : BitVec 7) (w : BitVec 4) (s : State) : Res :=
  s.storeLanes false 4 l.toNat d.toNat v.toNat w.toNat
def execStB64 (l : BitVec 4) (d v : BitVec 7) (w : BitVec 4) (s : State) : Res :=
  s.storeLanes false 8 l.toNat d.toNat v.toNat w.toNat
def execStB128 (l : BitVec 4) (d v : BitVec 7) (w : BitVec 4) (s : State) : Res :=
  s.storeLanes false 16 l.toNat d.toNat v.toNat w.toNat
def execLdsB32 (l : BitVec 4) (d v : BitVec 7) (w : BitVec 4) (s : State) : Res :=
  s.loadLanes true 4 false l.toNat d.toNat v.toNat w.toNat
def execLdsB64 (l : BitVec 4) (d v : BitVec 7) (w : BitVec 4) (s : State) : Res :=
  s.loadLanes true 8 false l.toNat d.toNat v.toNat w.toNat
def execLdsB128 (l : BitVec 4) (d v : BitVec 7) (w : BitVec 4) (s : State) : Res :=
  s.loadLanes true 16 false l.toNat d.toNat v.toNat w.toNat
def execStsB32 (l : BitVec 4) (d v : BitVec 7) (w : BitVec 4) (s : State) : Res :=
  s.storeLanes true 4 l.toNat d.toNat v.toNat w.toNat
def execStsB64 (l : BitVec 4) (d v : BitVec 7) (w : BitVec 4) (s : State) : Res :=
  s.storeLanes true 8 l.toNat d.toNat v.toNat w.toNat
def execStsB128 (l : BitVec 4) (d v : BitVec 7) (w : BitVec 4) (s : State) : Res :=
  s.storeLanes true 16 l.toNat d.toNat v.toNat w.toNat

/-- R165: once per issue, into a uniform register; a fault is every lane's of the issue set. -/
def execLdw (l : BitVec 4) (d v : BitVec 7) (w : BitVec 4) (s : State) : Res :=
  if s.acts = false then .next (s.pointFor 0).advance
  else
    let ea := s.cur.wpair (2 * w.toNat) + (s.cur.wreg v.toNat).setWidth 64 + BitVec.ofNat 64 (s.ofs6 4)
    let lane := (lanesOf s.issue.set).headD 0
    match s.checkGlobal .r 4 true lane ea with
    | .bad r => .next ((s.pointFor 0).finishMem fun _ => .trap r)
    | .ok ps page ea =>
      let f := (s.flight lane l.toNat s.nextId (.load ps 4 false d.toNat true)).ordered page s.ordBits s.scopeBits true false ea
      .next (s.addFlight { f with who := s.issue.set, windows := (lanesOf s.issue.set).map fun i => (i, l.toNat) }).advance

/-- R166: a hint; it makes no access and takes no fault. -/
def execPref (s : State) : Res := .next s.advance

/-- R57, R163: a load's data returns, for its lane and for those of the same instruction that load the same bytes (R162).
Nothing moves while an earlier access comes first. -/
def execLongLatencyCompletion (f : Nat) (s : State) : Res :=
  match s.flight? f with
  | some x => .next (if x.isLoad && (s.meeting x).all s.canPerform then s.performLoads x else s)
  | none => .next s
/-- R293, R299: a store that is performed at its core, or has none to be performed at, is performed at its home, and with its
last part acknowledged. -/
def execStoreAcknowledgement (f : Nat) (s : State) : Res :=
  match s.flight? f with
  | some x => .next (if !x.toCore && s.canPerform x then s.performStore x else s)
  | none => .next s

end Sys2Proof.Machine
end

