-- ==== Sys2Proof/Machine/Atomics.lean ====
section
/-! DEFINITION. Class 0x7, atomics, and their performance at the home (R168 to R173). -/

namespace Sys2Proof.Machine

/-- The fixed environment of FADD, FADD2 and value add-on-stores (R171): RNE, subnormals kept, canonical NaNs. -/
def fixedEnv : NumEnv := ⟨.rne, false, false, false, false⟩
/-- decode(a) + decode(b), rounded once in the fixed environment. -/
def fixedAdd (f : Fmt) (a b : Nat) : Nat := (fAdd fixedEnv f (decodeRaw f a) (decodeRaw f b) ⟨0, 0⟩).1

/-- R168, R169, R171: the new value of a location of `n` bits: `op` is the kind; for CAS, `x` compares and `y` is new. -/
def atomicNew (op n old x y : Nat) : Nat :=
  let m := 2 ^ n
  match op with
  | 0 => (old + x) % m
  | 1 => (old + (m - x)) % m
  | 2 => if sextN n x < sextN n old then x else old
  | 3 => if x < old then x else old
  | 4 => if sextN n old < sextN n x then x else old
  | 5 => if old < x then x else old
  | 6 => old &&& x
  | 7 => old ||| x
  | 8 => old ^^^ x
  | 9 => x
  | 10 => if old = x then y else old
  | 11 => if x ≤ old then 0 else old + 1
  | 12 => if old = 0 ∨ x < old then x else old - 1
  | 13 => fixedAdd F32 old x
  | _ => fixedAdd BF16 (old % 65536) (x % 65536) + 65536 * fixedAdd BF16 (old / 65536) (x / 65536)

/-- R29: scratchpad form, and the form that returns nothing. -/
def State.spad (s : State) : Bool := bitAt s.px 1
def State.nret (s : State) : Bool := bitAt s.px 0

/-- R168 to R173, R415: the atomics of the lanes of E that are no helpers. -/
def State.atomicLanes (s : State) (op n : Nat) (la d v w : Nat) : Res :=
  let s := s.markOut
  let k := n / 8
  let chk l := if s.spad then s.checkPad true k true (s.padSa w v l 0)
    else s.checkGlobal .a k true l (s.globalEa w v l 0)
  let arg (i l : Nat) : DWord :=
    let lo := (s.cur.vreg (d + i * (n / 32))).norm.lane l
    if n = 64 then (s.cur.vreg (d + i * 2 + 1)).norm.lane l ++ lo else lo.setWidth 64
  let dst := if s.nret then none else some d
  .next (s.issueLanes d (if s.nret then 0 else n / 32) (fun l => !(s.cur.lane l).helper) chk fun l grp ps page ea =>
    { (s.flight l la grp (.atomic ps op n (arg 0 l) (if op = 10 then arg 1 l else 0) dst)).ordered
        page s.ordBits s.scopeBits true true ea with counted := true })

def execAtomAdd32 (l : BitVec 4) (d v : BitVec 7) (w : BitVec 4) (s : State) : Res :=
  s.atomicLanes 0 32 l.toNat d.toNat v.toNat w.toNat
def execAtomAdd64 (l : BitVec 4) (d v : BitVec 7) (w : BitVec 4) (s : State) : Res :=
  s.atomicLanes 0 64 l.toNat d.toNat v.toNat w.toNat
def execAtomSub32 (l : BitVec 4) (d v : BitVec 7) (w : BitVec 4) (s : State) : Res :=
  s.atomicLanes 1 32 l.toNat d.toNat v.toNat w.toNat
def execAtomSub64 (l : BitVec 4) (d v : BitVec 7) (w : BitVec 4) (s : State) : Res :=
  s.atomicLanes 1 64 l.toNat d.toNat v.toNat w.toNat
def execAtomMinS32 (l : BitVec 4) (d v : BitVec 7) (w : BitVec 4) (s : State) : Res :=
  s.atomicLanes 2 32 l.toNat d.toNat v.toNat w.toNat
def execAtomMinS64 (l : BitVec 4) (d v : BitVec 7) (w : BitVec 4) (s : State) : Res :=
  s.atomicLanes 2 64 l.toNat d.toNat v.toNat w.toNat
def execAtomMinN32 (l : BitVec 4) (d v : BitVec 7) (w : BitVec 4) (s : State) : Res :=
  s.atomicLanes 3 32 l.toNat d.toNat v.toNat w.toNat
def execAtomMinN64 (l : BitVec 4) (d v : BitVec 7) (w : BitVec 4) (s : State) : Res :=
  s.atomicLanes 3 64 l.toNat d.toNat v.toNat w.toNat
def execAtomMaxS32 (l : BitVec 4) (d v : BitVec 7) (w : BitVec 4) (s : State) : Res :=
  s.atomicLanes 4 32 l.toNat d.toNat v.toNat w.toNat
def execAtomMaxS64 (l : BitVec 4) (d v : BitVec 7) (w : BitVec 4) (s : State) : Res :=
  s.atomicLanes 4 64 l.toNat d.toNat v.toNat w.toNat
def execAtomMaxN32 (l : BitVec 4) (d v : BitVec 7) (w : BitVec 4) (s : State) : Res :=
  s.atomicLanes 5 32 l.toNat d.toNat v.toNat w.toNat
def execAtomMaxN64 (l : BitVec 4) (d v : BitVec 7) (w : BitVec 4) (s : State) : Res :=
  s.atomicLanes 5 64 l.toNat d.toNat v.toNat w.toNat
def execAtomAnd32 (l : BitVec 4) (d v : BitVec 7) (w : BitVec 4) (s : State) : Res :=
  s.atomicLanes 6 32 l.toNat d.toNat v.toNat w.toNat
def execAtomAnd64 (l : BitVec 4) (d v : BitVec 7) (w : BitVec 4) (s : State) : Res :=
  s.atomicLanes 6 64 l.toNat d.toNat v.toNat w.toNat
def execAtomOr32 (l : BitVec 4) (d v : BitVec 7) (w : BitVec 4) (s : State) : Res :=
  s.atomicLanes 7 32 l.toNat d.toNat v.toNat w.toNat
def execAtomOr64 (l : BitVec 4) (d v : BitVec 7) (w : BitVec 4) (s : State) : Res :=
  s.atomicLanes 7 64 l.toNat d.toNat v.toNat w.toNat
def execAtomXor32 (l : BitVec 4) (d v : BitVec 7) (w : BitVec 4) (s : State) : Res :=
  s.atomicLanes 8 32 l.toNat d.toNat v.toNat w.toNat
def execAtomXor64 (l : BitVec 4) (d v : BitVec 7) (w : BitVec 4) (s : State) : Res :=
  s.atomicLanes 8 64 l.toNat d.toNat v.toNat w.toNat
def execAtomExch32 (l : BitVec 4) (d v : BitVec 7) (w : BitVec 4) (s : State) : Res :=
  s.atomicLanes 9 32 l.toNat d.toNat v.toNat w.toNat
def execAtomExch64 (l : BitVec 4) (d v : BitVec 7) (w : BitVec 4) (s : State) : Res :=
  s.atomicLanes 9 64 l.toNat d.toNat v.toNat w.toNat
def execAtomCas32 (l : BitVec 4) (d v : BitVec 7) (w : BitVec 4) (s : State) : Res :=
  s.atomicLanes 10 32 l.toNat d.toNat v.toNat w.toNat
def execAtomCas64 (l : BitVec 4) (d v : BitVec 7) (w : BitVec 4) (s : State) : Res :=
  s.atomicLanes 10 64 l.toNat d.toNat v.toNat w.toNat
def execAtomInc32 (l : BitVec 4) (d v : BitVec 7) (w : BitVec 4) (s : State) : Res :=
  s.atomicLanes 11 32 l.toNat d.toNat v.toNat w.toNat
def execAtomInc64 (l : BitVec 4) (d v : BitVec 7) (w : BitVec 4) (s : State) : Res :=
  s.atomicLanes 11 64 l.toNat d.toNat v.toNat w.toNat
def execAtomDec32 (l : BitVec 4) (d v : BitVec 7) (w : BitVec 4) (s : State) : Res :=
  s.atomicLanes 12 32 l.toNat d.toNat v.toNat w.toNat
def execAtomDec64 (l : BitVec 4) (d v : BitVec 7) (w : BitVec 4) (s : State) : Res :=
  s.atomicLanes 12 64 l.toNat d.toNat v.toNat w.toNat
def execAtomFaddF32 (l : BitVec 4) (d v : BitVec 7) (w : BitVec 4) (s : State) : Res :=
  s.atomicLanes 13 32 l.toNat d.toNat v.toNat w.toNat
def execAtomFadd2Bf16 (l : BitVec 4) (d v : BitVec 7) (w : BitVec 4) (s : State) : Res :=
  s.atomicLanes 14 32 l.toNat d.toNat v.toNat w.toNat

/-- R170, R459: one lane's read-modify-write. A poisoned location is not updated, and the lane's registers are zeroed
with the data-poison fault. -/
def State.performAtomic (s : State) (f : Flight) : State :=
  match f.kind with
  | .atomic ps op n x y dst =>
    let bad := ps.any s.placePoisoned
    let old := ofBytes (ps.map s.placeByte)
    let asid := s.asidOf f.warp
    let s := (if f.rel then s.vouch f else s).acquire f
    let s := (s.endFlight f ps).noteRead asid (physOf ps)
    let s := if bad then s
      else s.writeHome f.wg asid (ps.zip (toBytes (n / 8) (atomicNew op n old (x.toNat % 2 ^ n) (y.toNat % 2 ^ n)))) false
    match dst with
    | none => s
    | some d =>
      if f.dropped then s
      else
        let v := if bad then 0 else old
        let s := s.modWarp f.warp fun w =>
          let w := w.pokeLane d f.lane (BitVec.ofNat 32 v)
          (if n = 64 then w.pokeLane (d + 1) f.lane (BitVec.ofNat 32 (v / 2 ^ 32)) else w).mend ((List.range (n / 32)).map (d + ·))
        if bad then s.pendPoison f else s
  | _ => s

/-- R172: the atomics of one instruction that address one location. -/
def State.meetingAtomics (s : State) (x : Flight) : List Flight :=
  s.flights.filter fun g => g.group == x.group && g.warp == x.warp && overlaps g.places x.places
/-- R172: the lanes of one instruction that address one location are performed one after another, in lane order, once nothing holds
any of them back; one alone may be performed ahead of what its release covers (R296). -/
def execHomeAtomic (f : Nat) (s : State) : Res :=
  match s.flight? f with
  | some x =>
    match x.kind with
    | .atomic .. =>
      let same := s.meetingAtomics x
      if same.all s.canPerform then .next (same.foldl State.performAtomic s)
      else if same.length = 1 ∧ s.aheadScope x ≠ 0 then .next (s.performAtomic { x with soft := s.aheadScope x })
      else .next s
    | _ => .next s
  | none => .next s

end Sys2Proof.Machine
end

