-- ==== Sys2Proof/Machine/Matrix.lean ====
section
/-! DEFINITION. Class 0x8, matrix operations (R174 to R205, R272 to R281), and the homes of drained merges and adds. -/

namespace Sys2Proof.Machine

/-! ## Accumulator operands (R176, R177) -/

/-- R250, R251: region tiles, slots of a warp, entries of the scale window. -/
def Workgroup.acc3 (g : Workgroup) : Nat := wbits g.part 18 7
def Workgroup.tiles (g : Workgroup) : Nat := 8 * g.acc3
def Workgroup.slots (g : Workgroup) : Nat := min 32 (if g.nwarps = 0 then 0 else g.tiles / g.nwarps)
def Workgroup.scaleEntries (g : Workgroup) : Nat := 16 * g.acc3
def Workgroup.ace (g : Workgroup) (tile i j : Nat) : Ace := mapGet g.region (64 * tile + 8 * i + j) Ace.cleared
def Workgroup.setAce (g : Workgroup) (tile i j : Nat) (e : Ace) : Workgroup :=
  { g with region := mapSet g.region (64 * tile + 8 * i + j) e }

/-- R177: the quarters that take part. -/
def State.quarters (s : State) : List Nat := (List.range 4).filter fun q => (List.range 8).any fun i => s.inE (8 * q + i)
/-- The tiles of a quarter, by number in the region; an error gives the slot or tile that is out of range. -/
def State.tilesOf (s : State) (acc n q : Nat) (tform : Bool) : Except Nat (List Nat) :=
  let g := s.wg s.cur.wg
  (List.range n).mapM fun i =>
    if tform then
      let t := (s.cur.wreg acc).toNat + q
      if t < g.tiles then .ok t else .error t
    else
      let k := (acc + n * q + i) % 32
      if k < g.slots then .ok (s.cur.index * g.slots + k) else .error k
/-- The tiles of every quarter that takes part. The error is the first slot or tile out of range in the lowest quarter, one
record for every lane of E (log entry 64). -/
def State.allTiles (s : State) (acc n : Nat) (tform : Bool) : Except Nat (List (Nat × List Nat)) :=
  s.quarters.mapM fun q => (s.tilesOf acc n q tform).map fun ts => (q, ts)
def tilesAt (m : List (Nat × List Nat)) (q i : Nat) : Nat :=
  match m.find? fun e => e.1 == q with
  | some e => e.2.getD i 0
  | none => 0

/-- The tiles of a tile operation's result (R203). -/
def TileOp.tiles (t : TileOp) : List Nat :=
  let m := wbits (t.desc.getD 1 0) 0 16 / 8
  let n := wbits (t.desc.getD 1 0) 16 16 / 8
  (List.range (m * n)).map fun i => wbits (t.desc.getD 3 0) 0 16 + i
/-- R204: some tile operation in flight holds one of the tiles. -/
def State.tilesBusy (s : State) (ts : List Nat) : Bool :=
  (s.wg s.cur.wg).tags.any fun e => e.2.inFlight && ts.any fun t => e.2.tiles.contains t
/-- R177, R411: the accumulator-range fault. -/
def State.rangeFault (s : State) (k : Nat) : TrapRec := { s.record 9 with arg1 := BitVec.ofNat 32 k }

/-- R103, R259: the register-overflow trap comes before every other fault of an instruction that leaves the `n` registers
from `d` on tagged G. -/
def State.withRows (s : State) (d n : Nat) (r : Res) : Res :=
  let w1 := s.claim d n
  if s.eff != 0 && n != 0 && decide (s.cur.budget < w1.rows) then .next (s.trapAll (s.overflowRec (rowsNeeded s.cur w1))) else r

/-- A class 0x8 instruction on tiles: nothing with an empty E, the range fault in every lane of E (R177), a wait while a
tile operation holds a tile (R204: it does not issue), else its effect. -/
def State.onTiles (s : State) (acc n : Nat) (tform : Bool) (f : List (Nat × List Nat) → State) : Res :=
  if s.eff = 0 then .next s.advance
  else match s.allTiles acc n tform with
    | .error k => .next (s.trapE (s.rangeFault k))
    | .ok m => if s.tilesBusy (m.flatMap Prod.snd) then .next s else .next (f m)

/-- The rows that an instruction changes (R178): lane, tile, row. -/
def State.rows (s : State) (m : List (Nat × List Nat)) : List (Nat × Nat × Nat) :=
  (lanesOf s.eff).map fun l => (l, tilesAt m (l / 8) 0, l % 8)
/-- Every element of the rows changed by a function. -/
def State.mapRows (s : State) (m : List (Nat × List Nat)) (f : Ace → Ace) : State :=
  s.modWg s.cur.wg fun g => (s.rows m).foldl (fun g r =>
    (List.range 8).foldl (fun g j => g.setAce r.2.1 r.2.2 j (f (g.ace r.2.1 r.2.2 j))) g) g

/-! ## MFMT (R179, R180) -/

def mfmtGroup (code : Nat) : Nat := match code with
  | 0 => 0
  | 5 => 2
  | 6 => 3
  | 7 => 3
  | _ => 1
/-- R180: a legal pair of codes, with SM only for codes 0 to 4. -/
def mfmtLegal (x : Nat) : Bool :=
  let af := bits x 0 4
  let bf := bits x 4 4
  decide (af < 8 ∧ bf < 8 ∧ mfmtGroup af = mfmtGroup bf) && (!bitAt x 8 || decide (af ≤ 4))
def execMfmt (i : BitVec 10) (s : State) : Res :=
  if s.acts = false then .next s.advance
  else .next (s.modCur fun w => { w with mfmt := i.setWidth 32 }).advance

/-! ## Quarter operations (R181 to R186) -/

/-- R181: rows, columns and slots of a shape; only `.KX2` doubles the depth. -/
structure Shape where
  rows : Nat
  cols : Nat
  slots : Nat
  halves : Nat
def shapeOf : Nat → Shape
  | 0 => ⟨8, 8, 1, 1⟩
  | 1 => ⟨8, 8, 1, 2⟩
  | 2 => ⟨8, 16, 2, 1⟩
  | 3 => ⟨16, 8, 2, 1⟩
  | _ => ⟨16, 16, 4, 1⟩

/-- R182: the elements of a fragment in four registers of a lane. -/
def Warp.frag (w : Warp) (r l code : Nat) : List FVal :=
  let v := (w.vlane r l).toNat + 2 ^ 32 * (w.vlane (r + 1) l).toNat + 2 ^ 64 * (w.vlane (r + 2) l).toNat
    + 2 ^ 96 * (w.vlane (r + 3) l).toNat
  let n := matWidth code
  (List.range (128 / n)).map fun k => matElem code (bits v (n * k) n)

/-- Where the scales of a quarter operation come from. -/
inductive Scales
  | none
  | entry (e : Nat)
  | reg (q i j : Nat)
def oneVal : FVal := .fin false 1 0
/-- One row of A (`col = false`) or column of B: its elements with their scales, and whether a poisoned scale entry was
used (R185, R186, R460). -/
def State.side (s : State) (sh : Shape) (q base code : Nat) (col : Bool) (sc : Scales) (idx : Nat) :
    List (FVal × FVal) × Bool :=
  let w := s.cur
  let g := s.wg w.wg
  let l := 8 * q + idx % 8
  let parts := (List.range sh.halves).map fun h =>
    let xs := w.frag (base + 4 * h + 4 * (idx / 8)) l code
    let r : FVal × Bool := match sc with
      | .none => (oneVal, false)
      | .reg v i j => (decodeE8 (wbits (w.vlane v l) (8 * (if col then j else i)) 8), false)
      | .entry e =>
        let e := e + (if h = 1 ∨ 8 ≤ idx then 1 else 0)
        (decodeE8 (memRead g.scale (64 * e + (if col then 32 else 0) + l)).toNat, g.scalePoison.contains e)
    (xs.map fun x => (x, r.1), r.2)
  (parts.flatMap Prod.fst, parts.any Prod.snd)

/-- The products of a row and a column, and whether one raises IV. -/
def dotProducts (neg : Bool) (a b : List (FVal × FVal)) : List Product × Bool :=
  let ps := List.zipWith (fun x y => product neg x.1 x.2 y.1 y.2) a b
  (ps.filterMap Prod.fst, ps.any Prod.snd)

/-- What an accumulation carries along: the workgroup, the lanes' flags, and the count of free pairs taken. -/
structure AccRun where
  g : Workgroup
  fl : AMap Flags := []
  tick : Nat

/-- One element receives the products of one instruction (R87 to R91, R273, R276). -/
def AccRun.accumulate (r : AccRun) (tile i j lane : Nat) (fresh integer : Bool) (ps : List Product) (iv pois : Bool) : AccRun :=
  let e := r.g.ace tile i j
  let e := if fresh then e.start else e
  let a := e.add integer ps
  let e := { a.1.repair (Config.sumWord r.tick) with pois := a.1.pois || pois }
  { g := r.g.setAce tile i j e, tick := r.tick + 1,
    fl := if iv || a.2 then mapSet r.fl lane (mapGet r.fl lane 0 ||| flIV) else r.fl }

/-- R183: every element of every quarter that takes part. -/
def State.quarterRun (s : State) (m : List (Nat × List Nat)) (sh : Shape) (a b : Nat) (sc : Scales) (neg fresh : Bool) :
    AccRun :=
  let fmt := s.cur.mfmt.toNat
  let af := bits fmt 0 4
  let bf := bits fmt 4 4
  m.foldl (fun r e =>
    let cols := (List.range sh.cols).map fun j => s.side sh e.1 b bf true sc j
    (List.range sh.rows).foldl (fun r i =>
      let l := 8 * e.1 + i % 8
      if s.inE l then
        let row := s.side sh e.1 a af false sc i
        cols.zipIdx.foldl (fun r c =>
          let p := dotProducts neg row.1 c.1.1
          let tile := e.2.getD (i / 8 * (sh.cols / 8) + c.2 / 8) 0
          r.accumulate tile (i % 8) (c.2 % 8) l fresh (af == 5) p.1 p.2 (row.2 || c.1.2)) r
      else r) r) { g := s.wg s.cur.wg, tick := s.tick }
/-- The accumulation is written back, and the flags reach their lanes (R178). -/
def State.quarterDone (s : State) (r : AccRun) : State :=
  let t := { s with tick := r.tick }
  (t.setWg s.cur.wg r.g).effect { flags := fun l => mapGet r.fl l 0 }

/-- R180, R185: a quarter operation without MMAS: an illegal MFMT, or a prefix X without SM, is an illegal instruction;
an entry beyond the scale window is an address fault, after the range fault of the accumulator (log entry 65). -/
def State.quarterOp (s : State) (sh acc a b : Nat) (neg fresh : Bool) : Res :=
  let fmt := s.cur.mfmt.toNat
  if !mfmtLegal fmt || (!bitAt fmt 8 && s.px != 0) then .next (s.trapAll (s.record 2))
  else
    let h := shapeOf sh
    s.onTiles acc h.slots false fun m =>
      if bitAt fmt 8 && decide ((s.wg s.cur.wg).scaleEntries < s.px % 1024 + (if sh = 0 then 1 else 2)) then
        s.trapE { s.record 6 with cause := 2 }
      else s.quarterDone (s.quarterRun m h (4 * a) (2 * b) (if bitAt fmt 8 then .entry (s.px % 1024) else .none) neg fresh)
def execMma (sh : BitVec 3) (g x : BitVec 5) (y : BitVec 6) (s : State) : Res :=
  s.markOut.quarterOp sh.toNat g.toNat x.toNat y.toNat false false
def execMman (sh : BitVec 3) (g x : BitVec 5) (y : BitVec 6) (s : State) : Res :=
  s.markOut.quarterOp sh.toNat g.toNat x.toNat y.toNat true false
def execMmaz (sh : BitVec 3) (g x : BitVec 5) (y : BitVec 6) (s : State) : Res :=
  s.quarterOp sh.toNat g.toNat x.toNat y.toNat false true
/-- R186: scales from v(Q); without a prefix it is an illegal instruction. -/
def execMmas (g x : BitVec 5) (y : BitVec 6) (s : State) : Res :=
  let s := s.markOut
  let fmt := s.cur.mfmt.toNat
  match s.prefix? with
  | none => .next (s.trapAll (s.record 2))
  | some p =>
    if !mfmtLegal fmt || decide (4 < bits fmt 0 4) then .next (s.trapAll (s.record 2))
    else s.onTiles g.toNat 1 false fun m =>
      s.quarterDone (s.quarterRun m (shapeOf 0) (4 * x.toNat) (2 * y.toNat) (.reg p.q (bits p.x 0 2) (bits p.x 2 2)) false false)

/-! ## Maintenance (R189 to R191) -/

def execAclr (sh : BitVec 1) (g : BitVec 5) (s : State) : Res :=
  s.onTiles g.toNat 1 (sh == 1) fun m => (s.mapRows m fun _ => Ace.cleared).advance
/-- R191: eleven bits of anchor, or twelve with a prefix. -/
def execAanc (sh : BitVec 1) (g : BitVec 5) (x : BitVec 11) (s : State) : Res :=
  let anc : BitVec 12 := match s.prefix? with
    | some p => BitVec.ofNat 12 (p.x % 2 * 2048 + x.toNat)
    | none => x.signExtend 12
  s.onTiles g.toNat 1 (sh == 1) fun m => (s.mapRows m fun _ => Ace.anchored anc).advance
def execAcanon (sh : BitVec 1) (g : BitVec 5) (s : State) : Res :=
  s.onTiles g.toNat 1 (sh == 1) fun m => (s.mapRows m Ace.canon).advance
/-- R190: SH[0] is the form of the source, SH[1] that of the destination. The source's range is tested first (log entry 64). -/
def execAmov (sh : BitVec 2) (g x : BitVec 5) (s : State) : Res :=
  s.onTiles x.toNat 1 (sh.getLsbD 0) fun src =>
    match s.allTiles g.toNat 1 (sh.getLsbD 1) with
    | .error k => s.trapE (s.rangeFault k)
    | .ok dst =>
      if s.tilesBusy (dst.flatMap Prod.snd) then s
      else
        let old := s.wg s.cur.wg
        (s.modWg s.cur.wg fun g => (lanesOf s.eff).foldl (fun g l =>
          (List.range 8).foldl (fun g j =>
            g.setAce (tilesAt dst (l / 8) 0) (l % 8) j (old.ace (tilesAt src (l / 8) 0) (l % 8) j)) g) g).advance

/-- R189: `n` entries from the scratchpad; poisoned granules poison the entries they reach. -/
def execScld (sh : BitVec 3) (e : BitVec 10) (y : BitVec 6) (s : State) : Res :=
  if s.acts = false then .next s.advance
  else
    let g := s.wg s.cur.wg
    let sa := (s.cur.wreg y.toNat).toNat
    let n := sh.toNat + 1
    if sa % 16 ≠ 0 then .next (s.trapE (s.alignFault (BitVec.ofNat 64 sa)))
    else if g.window < sa + 64 * n then .next (s.trapE (s.addrFault 1 (BitVec.ofNat 64 sa)))
    else if g.scaleEntries < e.toNat + n then .next (s.trapE { s.record 6 with cause := 2 })
    else
      let ps := padPlaces s.cur.wg sa (64 * n)
      if s.readWaits s.issue.set .consistent ps then .next s
      else
        let r := s.readNow ps
        .next (s.modWg s.cur.wg fun g => (List.range n).foldl (fun g i =>
          let bad := (s.readNow (padPlaces s.cur.wg (sa + 64 * i) 64)).2
          { g with scale := memWriteN g.scale (64 * (e.toNat + i)) ((r.1.drop (64 * i)).take 64)
                   scalePoison := if bad then markSet g.scalePoison (e.toNat + i) else markClear g.scalePoison (e.toNat + i) })
          g).advance

/-! ## Resolving and comparing (R193, R194, R277) -/

/-- The elements of a lane's row, resolved in increasing order; none when one of them is poisoned. -/
def State.resolveRow (s : State) (tile l code : Nat) (n : LaneNum) : Option (List Nat × LaneNum) :=
  let es := (List.range 8).map fun j => (s.wg s.cur.wg).ace tile (l % 8) j
  if es.any (·.pois) then none
  else some (es.foldl (fun r e => let x := e.resolve s.env code r.2; (r.1 ++ [x.1], x.2)) ([], n))
/-- Elements side by side, the first lowest. -/
def packBits (w : Nat) : List Nat → Nat
  | [] => 0
  | x :: xs => x % 2 ^ w + 2 ^ w * packBits w xs

def execAres (sh : BitVec 1) (g : BitVec 5) (f : BitVec 4) (y : BitVec 6) (s : State) : Res :=
  s.withRows (2 * y.toNat) ((resolveBits f.toNat + 3) / 4) <| s.onTiles g.toNat 1 (sh == 1) fun m =>
    let w := resolveBits f.toNat
    let row l := s.resolveRow (tilesAt m (l / 8) 0) l f.toNat (s.laneNum l)
    let val l := match row l with | some r => packBits w r.1 | none => 0
    let num l := match row l with | some r => r.2 | none => s.laneNum l
    s.effect {
      writes := (List.range ((w + 3) / 4)).map fun i => ⟨2 * y.toNat + i, fun l => BitVec.ofNat 32 (bits (val l) (32 * i) 32), none⟩
      flags := fun l => (num l).fl
      gen := some fun l => (num l).gen
      ends := fun l => match row l with
        | some _ => .next
        | none => .after { s.record 8 with async := true, after := true } }
def execAcmp (k : BitVec 2) (sh : BitVec 1) (g x : BitVec 5) (y : BitVec 6) (s : State) : Res :=
  s.withRows (2 * y.toNat) 1 <| s.onTiles g.toNat 1 (sh == 1) fun m =>
    let v l := (List.range 8).foldl (fun a j =>
      if ((s.wg s.cur.wg).ace (tilesAt m (l / 8) 0) (l % 8) j).compare k.toNat
          (decodeRaw F32 (s.cur.vlane (4 * x.toNat) l).toNat) then a + 2 ^ j else a) 0
    s.effect { writes := [⟨2 * y.toNat, fun l => BitVec.ofNat 32 (v l), none⟩] }

/-! ## Draining and loading (R195 to R200) -/

/-- R195: the address of a lane's row, or its fault: alignment of the base, then the faults of R160. `merge` also refuses
an element across a page (R280). ADDR is the row's first byte, but for such an element, whose own first byte it is (log
entry 66). -/
def State.rowCheck (s : State) (x l size8 : Nat) (k : Acc) (merge : Bool) : Check :=
  -- size8: bytes of a row
  let pitch := match s.prefix? with | some p => p.x * 16 | none => size8
  let pad := bitAt x 4
  let base := if pad then (s.cur.wreg (2 * (x % 16))).setWidth 64 else s.cur.wpair (2 * (x % 16))
  let ea := base + BitVec.ofNat 64 (l * pitch)
  let ea := if pad then (ea.setWidth 32).setWidth 64 else ea
  if base.toNat % 16 ≠ 0 then .bad (s.alignFault ea)
  else if pad then s.checkPad false size8 false ea.toNat
  else
    let split := (List.range 8).find? fun j => merge && decide (4072 < (ea.toNat + size8 / 8 * j) % 4096)
    match split with
    | some j => .bad (s.alignFault (ea + BitVec.ofNat 64 (size8 / 8 * j)))
    | none => s.checkGlobal k size8 false l ea

/-- R286, R291: `n` bytes from an address, cut where a line of `line` bytes ends; a page ends where a line does. -/
def cutAt (line : Nat) : Nat → Nat → List Nat
  | _, 0 => []
  | ea, n + 1 =>
    match cutAt line (ea + 1) n with
    | [] => [1]
    | k :: ks => if (ea + 1) % line = 0 then 1 :: k :: ks else (k + 1) :: ks
/-- A list in pieces of the given lengths. -/
def pieces {α : Type} : List Nat → List α → List (List α)
  | [], _ => []
  | n :: ns, xs => xs.take n :: pieces ns (xs.drop n)
/-- R286: the parts of elements `js` of a raw row at an address: each element's 24 bytes within one line of 128 bytes. -/
def rawParts {α : Type} (ea : Nat) (js : List Nat) (xs : List α) : List (List α) :=
  js.flatMap fun j => pieces (cutAt 128 (ea + 24 * j) 24) ((xs.drop (24 * j)).take 24)
/-- R286: the parts of a value row of 8 * w bits: each element's bytes, or the whole row for E2M1. -/
def valueParts {α : Type} (w : Nat) (js : List Nat) (xs : List α) : List (List α) :=
  if w < 8 then [xs] else js.map fun j => (xs.drop (w / 8 * j)).take (w / 8)
/-- R291: the elements of a row of `size8` bytes by the ordering kind of the pages that each lies on. -/
def State.rowKinds (s : State) (pad : Bool) (ea size8 : Nat) : List (OrdKind × List Nat) :=
  let asid := (s.launch s.cur.launch).asid
  let kind j := if pad then OrdKind.consistent else s.orderAt asid (ea + size8 * j / 8) (max 1 (size8 / 8))
  [OrdKind.strong, .consistent, .unordered].filterMap fun k =>
    match (List.range 8).filter fun j => kind j == k with
    | [] => none
    | js => some (k, js)

/-- The drain of E's rows: a row's checks, then its accesses, all counted; helper lanes make none (R196, R199). `mk` makes
the accesses of some elements of a lane's row at an address. -/
def State.drain (s : State) (x size8 : Nat) (k : Acc) (merge : Bool) (la : Nat) (val : Nat → Option LaneNum)
    (mk : Nat → Nat → List Place → List Nat → List FlightKind) : State :=
  let chk := (List.range 32).map fun l =>
    if s.inE l && !(s.cur.lane l).helper then some (s.rowCheck x l size8 k merge) else none
  let n := s.fresh
  let ok l := match chk.getD l none with | some c => c.isOk | none => false
  let t := chk.zipIdx.foldl (fun t c => match c.1 with
    | some (.ok ps _ ea) => (s.rowKinds (bitAt x 4) ea.toNat size8).foldl (fun t g => (mk c.2 ea.toNat ps g.2).foldl (fun t fk =>
        t.addFlight { (s.flight c.2 la n.1 fk).ordered g.1 0 5 (k == .a) true ea with
          counted := true, whole := fk.whole }) t) t
    | _ => t) n.2
  let num l : LaneNum := match ok l, val l with
    | true, some v => v
    | _, _ => s.laneNum l
  let t' := t.effect {
    flags := fun l => (num l).fl
    gen := some fun l => (num l).gen
    ends := fun l => match chk.getD l none with
      | some c => c.lend
      | none => .next }
  if (List.range 32).any fun l => match chk.getD l none with
      | some c => c.lend.isLease
      | none => false then t'.markCause s.cur.launch 4 else t'

def State.rawRow (s : State) (tile l : Nat) : List Ace := (List.range 8).map fun j => (s.wg s.cur.wg).ace tile (l % 8) j
def execAdrainRaw (l : BitVec 4) (sh : BitVec 1) (g x : BitVec 5) (s : State) : Res :=
  let s := s.markOut
  s.onTiles g.toNat 1 (sh == 1) fun m =>
    s.drain x.toNat 192 .w false l.toNat (fun _ => none) fun i ea ps js =>
      [.store (rawParts ea js (ps.zip ((s.rawRow (tilesAt m (i / 8) 0) i).flatMap Ace.bytes))) []]
/-- R198, R277: the row's elements, resolved one by one; a poisoned one gives nothing. -/
def State.resolveEach (s : State) (tile l code : Nat) : List (Option Nat) × LaneNum :=
  (s.rawRow tile l).foldl (fun r e =>
    if e.pois then (r.1 ++ [none], r.2) else let x := e.resolve s.env code r.2; (r.1 ++ [some x.1], x.2)) ([], s.laneNum l)
/-- R196, R277: mode 1; the bytes of a poisoned element are stored with a mark. -/
def execAdrainValue (l : BitVec 4) (sh : BitVec 1) (g x : BitVec 5) (f : BitVec 4) (s : State) : Res :=
  let s := s.markOut
  s.onTiles g.toNat 1 (sh == 1) fun m =>
    let w := resolveBits f.toNat
    let row i := s.resolveEach (tilesAt m (i / 8) 0) i f.toNat
    s.drain x.toNat w .w false l.toNat (fun i => some (row i).2) fun i _ ps js =>
      let r := (row i).1
      let bad := r.zipIdx.flatMap fun v => match v.1 with
        | some _ => []
        | none => (ps.drop (v.2 * w / 8)).take (max 1 (w / 8))
      [.store (valueParts w js (ps.zip (toBytes w (packBits w (r.map fun v => v.getD 0))))) bad]
def execAdrainAdd (l : BitVec 4) (sh : BitVec 1) (g x : BitVec 5) (s : State) : Res :=
  let s := s.markOut
  s.onTiles g.toNat 1 (sh == 1) fun m =>
    s.drain x.toNat 192 .a true l.toNat (fun _ => none) fun i _ ps js =>
      ((s.rawRow (tilesAt m (i / 8) 0) i).zipIdx.filter fun e => js.contains e.2).map fun e => .rawMerge ((ps.drop (24 * e.2)).take 24) e.1
def execAdrainValueAdd (l : BitVec 4) (sh : BitVec 1) (g x : BitVec 5) (f : BitVec 4) (s : State) : Res :=
  let s := s.markOut
  s.onTiles g.toNat 1 (sh == 1) fun m =>
    let w := resolveBits f.toNat
    let row i := s.resolveEach (tilesAt m (i / 8) 0) i f.toNat
    s.drain x.toNat w .a false l.toNat (fun i => some (row i).2) fun i _ ps js =>
      ((row i).1.zipIdx.filter fun v => js.contains v.2).map fun v =>
        .valueAdd ((ps.drop (w / 8 * v.2)).take (w / 8)) f.toNat (BitVec.ofNat 32 (v.1.getD 0)) v.1.isNone

/-- R197, R277: the home of a raw merge. -/
def State.performMerge (s : State) (f : Flight) : State :=
  match f.kind with
  | .rawMerge ps e =>
    let asid := s.asidOf f.warp
    let d := if ps.any s.placePoisoned then { Ace.cleared with pois := true } else Ace.ofBytes (ps.map s.placeByte)
    (((s.acquire f).dropFlight f.id).noteRead asid (physOf ps)).writeHome f.wg asid (ps.zip (d.merge e).bytes) false
  | _ => s
def execHomeRawMerge (f : Nat) (s : State) : Res :=
  match s.flight? f with
  | some x => .next (if s.canPerform x then s.performMerge x else s)
  | none => .next s
/-- R198, R277: the home of a value add-on-store: a poisoned element marks the granule and updates nothing; a poisoned
destination is not updated. -/
def State.performValueAdd (s : State) (f : Flight) : State :=
  match f.kind with
  | .valueAdd ps code x pois =>
    let asid := s.asidOf f.warp
    let t := ((s.acquire f).dropFlight f.id).noteRead asid (physOf ps)
    if pois then t.writeHome f.wg asid (ps.map fun p => (p, 0)) true
    else if ps.any s.placePoisoned then t
    else
      let old := ofBytes (ps.map s.placeByte)
      let new := match code with
        | 0 => fixedAdd F32 old x.toNat
        | 1 => fixedAdd F16 old x.toNat
        | 2 => fixedAdd BF16 old x.toNat
        | _ => old + x.toNat
      t.writeHome f.wg asid (ps.zip (toBytes ps.length new)) false
  | _ => s
def execHomeValueAdd (f : Nat) (s : State) : Res :=
  match s.flight? f with
  | some x => .next (if s.canPerform x then s.performValueAdd x else s)
  | none => .next s

/-- R195, R200: the rows of E whose lanes do not fault are loaded; `elem` makes the element of its start state and its
bytes, with the flag it raises. -/
def State.loadRows (s : State) (m : List (Nat × List Nat)) (x size8 : Nat) (elem : Ace → List Byte → Ace × Bool) : State :=
  let chk := (List.range 32).map fun l => if s.inE l then some (s.rowCheck x l size8 .r false) else none
  let places := chk.flatMap fun c => match c with
    | some (.ok ps _ _) => ps
    | _ => []
  let kinds := chk.map fun c => match c with
    | some (.ok _ _ ea) => s.rowKinds (bitAt x 4) ea.toNat size8
    | _ => []
  let waits := chk.zipIdx.any fun c => match c.1 with
    | some (.ok ps _ _) => (kinds.getD c.2 []).any fun g =>
        s.readWaits (maskOf (· == c.2)) g.1 (g.2.flatMap fun j => (ps.drop (size8 / 8 * j)).take (size8 / 8))
    | _ => false
  if waits then s
  else
    let k := size8 / 8
    let hurt := s.struck places
    let r : Workgroup × AMap Flags := chk.zipIdx.foldl (fun r c => match c.1 with
      | some (.ok ps _ _) => (List.range 8).foldl (fun r j =>
          let v := s.readHit hurt ((ps.drop (k * j)).take k)
          let t := tilesAt m (c.2 / 8) 0
          let e := if v.2 then ({ Ace.cleared with pois := true }, false) else elem (r.1.ace t (c.2 % 8) j) v.1
          (r.1.setAce t (c.2 % 8) j e.1, if e.2 then mapSet r.2 c.2 (mapGet r.2 c.2 0 ||| flIV) else r.2)) r
      | _ => r) (s.wg s.cur.wg, [])
    let u := s.readDone (kinds.flatten.any fun g => g.1 == .strong) places hurt
    let t := (u.modWg s.cur.wg fun g => { g with region := r.1.region }).effect {
      flags := fun l => mapGet r.2 l 0
      ends := fun l => match chk.getD l none with
        | some c => c.lend
        | none => .next }
    if chk.any fun c => match c with
        | some c => c.lend.isLease
        | none => false then t.markCause s.cur.launch 4 else t
/-- R195, R196, R200: raw rows. In R337's case 'AANC removed' the rules give sums that differ from the second iteration on where a grid has
several workgroups, since the slots of the others keep what was loaded before; the case says that OUT still matches. The model follows
the rules (DESIGN CHOICE, log entry 82). -/
def execAloadRaw (sh : BitVec 1) (g x : BitVec 5) (s : State) : Res :=
  s.onTiles g.toNat 1 (sh == 1) fun m => s.loadRows m x.toNat 192 fun _ bs => (Ace.ofBytes bs, false)
def execAloadValue (sh : BitVec 1) (g x : BitVec 5) (f : BitVec 4) (s : State) : Res :=
  s.onTiles g.toNat 1 (sh == 1) fun m => s.loadRows m x.toNat (resolveBits f.toNat) fun e bs =>
    let v : FVal := match f.toNat with
      | 0 => decodeRaw F32 (ofBytes bs)
      | 1 => decodeRaw F16 (ofBytes bs)
      | 2 => decodeRaw BF16 (ofBytes bs)
      | _ => let n := sextN 32 (ofBytes bs); .fin (decide (n < 0)) n.natAbs 0
    let p := product false v oneVal oneVal oneVal
    let a := e.start.add (f == 5) p.1.toList
    (a.1, a.2 || p.2)

/-! ## Tile operations (R201 to R205) -/

def kStep (code : Nat) : Nat := 512 / matWidth code
/-- R201, R203: the descriptor is legal for the workgroup. -/
def Workgroup.tmmaLegal (g : Workgroup) (d : List Word) : Bool :=
  let r i := (d.getD i 0).toNat
  let af := bits (r 0) 8 4
  let bf := bits (r 0) 12 4
  let m := bits (r 1) 0 16
  let n := bits (r 1) 16 16
  let k := bits (r 2) 0 24
  let sm := bitAt (r 0) 16
  let fmt := af + 16 * bf + (if sm then 256 else 0)
  let extra := if sm then kStep af / 32 else 0
  let ca := g.ringCfg (bits (r 0) 0 3)
  let cb := g.ringCfg (bits (r 0) 4 3)
  !bitAt (r 0) 3 && !bitAt (r 0) 7 && decide (r 0 < 2 ^ 20 ∧ r 2 < 2 ^ 24 ∧ r 3 < 2 ^ 16 ∧ r 4 = 0 ∧ r 5 = 0 ∧ r 6 = 0 ∧ r 7 = 0)
    && mfmtLegal fmt
    && decide (8 ≤ m ∧ m ≤ 256 ∧ m % 8 = 0 ∧ 8 ≤ n ∧ n ≤ 384 ∧ n % 8 = 0 ∧ k ≠ 0 ∧ k % kStep af = 0)
    && decide (m * (64 + extra) ≤ ca.size ∧ n * (64 + extra) ≤ cb.size ∧ r 3 + m / 8 * (n / 8) ≤ g.tiles)

/-- What an instruction that waits for an operation keeps of it, and whether one that waited waits for it. -/
def TileOp.named (op : TileOp) : AMap Word := [(512, BitVec.ofNat 32 op.serial)]
def Issue.names (i : Issue) (op : TileOp) : Bool := mapGet? i.kept 512 == some (BitVec.ofNat 32 op.serial)
/-- R267: the ring of a stopped operation is reported once. -/
def State.reportOld (s : State) (k ring : Nat) : State :=
  let s1 := s.modWg s.cur.wg fun g => { g with tags := mapMod g.tags k {} fun t => { t with unreported := none } }
  s1.trapE { s.record 15 with arg1 := BitVec.ofNat 32 ring }
def State.reportStop (s : State) (k ring : Nat) : State :=
  let s1 := s.modWg s.cur.wg fun g => { g with tags := mapMod g.tags k {} fun t => { t with stopped := none } }
  s1.trapE { s.record 15 with arg1 := BitVec.ofNat 32 ring }
/-- R201, R203, R236: the operation starts, or its fault; it waits while another operation in flight holds one of its
tiles (R204, R274). The descriptor is the one read at issue. The ring fault comes before the descriptor fault, and QA's before QB's: the
spec gives no order (DESIGN CHOICE, log entry 78). -/
def State.tmmaStart (s : State) (g : Workgroup) (k y : Nat) : State :=
  let d := (List.range 8).map fun i => s.wsrc (y + i)
  let qa := wbits (d.getD 0 0) 0 3
  let qb := wbits (d.getD 0 0) 4 3
  if (g.ringCfg qa).en = false then s.trapE { s.record 15 with arg1 := BitVec.ofNat 32 qa }
  else if (g.ringCfg qb).en = false then s.trapE { s.record 15 with arg1 := BitVec.ofNat 32 qb }
  else if g.tmmaLegal d then
    let old := mapGet g.tags k {}
    let op : TileOp := { inFlight := true, desc := d, serial := old.serial + 1
                         unreported := match old.stopped with
                           | some r => some (old.serial, r)
                           | none => old.unreported
                         warp := s.issue.warp, lanes := s.eff,
                         report := { s.record 3 with flags := flIV, after := true, async := true } }
    if s.tilesBusy op.tiles then s.holdRetry ((List.range 8).map (y + ·))
    else (s.modWg s.cur.wg fun g => { g with tags := mapSet g.tags k op }).advance
  else s.trapE (s.record 10)
def execTmma (t : BitVec 2) (y : BitVec 6) (s : State) : Res :=
  let s := s.markOut
  if s.acts = false then .next s.advance
  else
    let g := s.wg s.cur.wg
    let op := mapGet g.tags t.toNat {}
    let old := match op.unreported with
      | some (n, r) => if s.issue.names { op with serial := n } then some r else none
      | none => none
    if old.isSome then .next (s.reportOld t.toNat (old.getD 0))
    else if op.inFlight then .next (s.holdRetry ((List.range 8).map (y.toNat + ·)) op.named)
    else match op.stopped with
      | some r =>
        -- R267: only a TMMA that waited for the operation takes its fault
        if s.issue.names op then .next (s.reportStop t.toNat r) else .next (s.tmmaStart g t.toNat y.toNat)
      | none => .next (s.tmmaStart g t.toNat y.toNat)
/-- R204, R267. Both forms wait for the same point: the model's K-step reads its panels and releases their slots at once. One that
waited goes on for the operation that it waited for, also once the tag has another. -/
def State.twait (s : State) (t : Nat) : Res :=
  if s.eff = 0 then .next s.advance
  else
    let op := mapGet (s.wg s.cur.wg).tags t {}
    if s.issue.held.isSome && !s.issue.names op then
      match op.unreported with
      | some (n, r) => if s.issue.names { op with serial := n } then .next (s.reportOld t r) else .next s.advance
      | none => .next s.advance
    else if op.inFlight then .next (s.holdRetry [] op.named)
    else match op.stopped with
      | some r => .next (s.reportStop t r)
      | none => .next s.advance
def execTwait (t : BitVec 2) (s : State) : Res := s.twait t.toNat
def execTwaitOc (t : BitVec 2) (s : State) : Res := s.twait t.toNat

/-- R205: the window as an aligned granule of a panel is read: as it stood when the slots were taken, or as it stands. -/
def Workgroup.seen (g : Workgroup) (p : Panels) (pick off : Nat) : Workgroup :=
  if bitAt pick (off / 32) then g else { g with sp := p.sp, spPoison := p.marks }
def Workgroup.panelNat (g : Workgroup) (p : Panels) (pick off n : Nat) : Nat :=
  ofBytes ((List.range n).map fun i => (g.seen p pick (off + i)).spByte (off + i))
def Workgroup.panelBad (g : Workgroup) (p : Panels) (pick off n : Nat) : Bool :=
  (List.range n).any fun i => (g.seen p pick (off + i)).spPoison.contains ((off + i) / 32)
/-- A row of a panel: 64 bytes of elements, with their block scales (R202). -/
def Workgroup.panelRow (g : Workgroup) (p : Panels) (pick addr rows r code : Nat) (sm : Bool) : List (FVal × FVal) × Bool :=
  let w := matWidth code
  let n := kStep code
  let v := g.panelNat p pick (addr + 64 * r) 64
  let blocks := n / 32
  let sAt := addr + 64 * rows + blocks * r
  let bad := g.panelBad p pick (addr + 64 * r) 64 || (sm && g.panelBad p pick sAt blocks)
  ((List.range n).map fun k =>
    (matElem code (bits v (w * k) w), if sm then decodeE8 (g.panelNat p pick (sAt + k / 32) 1) else oneVal), bad)

/-- R202: a filled slot of each ring is taken for the next K-step, after the requests that reached the ring before (R237).
Nothing moves while a ring has no filled slot, or while the workgroup is to be saved (R281, R419). -/
def State.beginStep (s : State) (wg k : Nat) (op : TileOp) : State :=
  let g := s.wg wg
  let d := (op.desc.getD 0 0).toNat
  let qa := bits d 0 3
  let qb := bits d 4 3
  if (mapGet (s.launch g.launch).gangs g.gang {}).draining || !(s.ringQueue wg qa true).isEmpty || !(s.ringQueue wg qb true).isEmpty then s
  else match g.ringTake qa true with
    | none => s
    | some (ia, g1) => match g1.ringTake qb true with
      | none => s
      | some (ib, g2) =>
        let p : Panels := { slotA := ia, slotB := ib, addrA := (g.ringCfg qa).addr ia, addrB := (g.ringCfg qb).addr ib
                            sp := g2.sp, marks := g2.spPoison }
        s.setWg wg { g2 with tags := mapSet g2.tags k { op with panels := some p } }
/-- R203, R205: the panels of the K-step have been read, its products are placed, and its slots are released. Where the window
has changed since the slots were taken, each granule was read before or after. -/
def State.placeStep (s : State) (wg k : Nat) (op : TileOp) (p : Panels) : State :=
  let g := s.wg wg
  let d i := (op.desc.getD i 0).toNat
  let af := bits (d 0) 8 4
  let bf := bits (d 0) 12 4
  let sm := bitAt (d 0) 16
  let m := bits (d 1) 0 16
  let n := bits (d 1) 16 16
  let t0 := bits (d 3) 0 16
  let r := if p.sp = g.sp ∧ p.marks = g.spPoison then (0, s) else s.choose (2 ^ (g.window / 32))
  let cols := (List.range n).map fun c => g.panelRow p r.1 p.addrB n c bf sm
  let run := (List.range m).foldl (fun a i =>
    let row := g.panelRow p r.1 p.addrA m i af sm
    cols.zipIdx.foldl (fun a c =>
      let x := dotProducts (bitAt (d 0) 18) row.1 c.1.1
      a.accumulate (t0 + i / 8 * (n / 8) + c.2 / 8) (i % 8) (c.2 % 8) 0 (bitAt (d 0) 19 && op.next == 0) (af == 5)
        x.1 x.2 (row.2 || c.1.2)) a) ({ g := g, tick := r.2.tick } : AccRun)
  let g1 := if p.voidA then run.g else run.g.ringDone (bits (d 0) 0 3) p.slotA true
  let g2 := if p.voidB then g1 else g1.ringDone (bits (d 0) 4 3) p.slotB true
  let more := decide ((op.next + 1) * kStep af < bits (d 2) 0 24)
  let op := { op with
    next := op.next + 1, panels := none, inFlight := more && op.stopped.isNone, stopped := if more then op.stopped else none
    iv := op.iv || !run.fl.isEmpty }
  ({ (s.setWg wg { g2 with tags := mapSet g2.tags k op }) with tick := run.tick }).raiseTile op
/-- R202, R203: the next move of a tile operation of a resident workgroup. -/
def State.tmmaStep (s : State) (wg k : Nat) : State :=
  let g := s.wg wg
  let op := mapGet g.tags k {}
  if op.inFlight && g.resident then
    match op.panels with
    | none => s.beginStep wg k op
    | some p => s.placeStep wg k op p
  else s
def execTmmaKstep (wg tag : Nat) (s : State) : Res := .next (s.tmmaStep wg tag)

end Sys2Proof.Machine
end

