-- ==== Sys2Proof/Machine/Pixel.lean ====
section
/-! DEFINITION. Class 0x9, pixel operations (R206 to R221): edges, barycentrics, quads, textures, blending, compressed tiles,
and the hand-over of meshlets and bin work (14). -/

namespace Sys2Proof.Machine

/-- As `effect`, for an instruction whose lanes can take the lease fault (R403). -/
def State.effectMem (s : State) (x : Effect) : State :=
  let t := s.effect x
  if (lanesOf s.eff).any fun l => (x.ends l).isLease then t.markCause s.cur.launch 4 else t

/-! ## Exact fractions -/

/-- An exact fraction with a positive denominator. -/
structure Q where
  n : Int
  d : Nat
  deriving DecidableEq, Repr

def Q.add (x y : Q) : Q := ⟨x.n * y.d + y.n * x.d, x.d * y.d⟩
def Q.neg (x : Q) : Q := ⟨-x.n, x.d⟩
def Q.mul (x y : Q) : Q := ⟨x.n * y.n, x.d * y.d⟩
def Q.le (x y : Q) : Bool := decide (x.n * y.d ≤ y.n * x.d)
def Q.min (x y : Q) : Q := if x.le y then x else y
def Q.max (x y : Q) : Q := if x.le y then y else x
def Q.zero : Q := ⟨0, 1⟩
def Q.one : Q := ⟨1, 1⟩
def Q.clamp01 (x : Q) : Q := Q.min (Q.max x Q.zero) Q.one
/-- A fraction as a scaled integer with a tail, precise enough for every rounding of a 32-bit result (R76). -/
def Q.dy (x : Q) : Dy :=
  let k := 70 + Nat.log2 x.d
  let m := x.n * 2 ^ k
  ⟨m / x.d, -(k : Int), decide (m % x.d ≠ 0)⟩
/-- A finite value as a fraction; NaN is zero and infinity the bound. -/
def FVal.q (v : FVal) (bound : Nat) : Q :=
  match v with
  | .nan .. => Q.zero
  | .inf neg => ⟨if neg then -(bound : Int) else bound, 1⟩
  | .fin neg m e =>
    let m : Int := if neg then -(m : Int) else m
    if 0 ≤ e then ⟨m * 2 ^ e.toNat, 1⟩ else ⟨m, 2 ^ (-e).toNat⟩

/-! ## Triangles (R71, R207) -/

/-- The edges of a triangle: vertices and the coefficients a and b. -/
structure Tri where
  x : List Int
  y : List Int
  a : List Int
  b : List Int
  deriving DecidableEq, Repr

def Tri.ofWords (ws : List Nat) : Tri :=
  let c i : Int := sextN 24 (ws.getD i 0)
  let x := [c 0, c 2, c 4]
  let y := [c 1, c 3, c 5]
  let at' (v : List Int) i : Int := v.getD (i % 3) 0
  { x := x, y := y, a := (List.range 3).map fun k => at' y k - at' y (k + 1)
    b := (List.range 3).map fun k => at' x (k + 1) - at' x k }
def Tri.area (t : Tri) : Int :=
  let x i := t.x.getD i 0
  let y i := t.y.getD i 0
  (x 1 - x 0) * (y 2 - y 0) - (x 2 - x 0) * (y 1 - y 0)
/-- Every coefficient lies in S24. -/
def Tri.inS24 (t : Tri) : Bool := (t.a ++ t.b).all fun v => decide (-2 ^ 23 ≤ v ∧ v < 2 ^ 23)
def Tri.edge (t : Tri) (k : Nat) (px py : Int) : Int :=
  t.a.getD k 0 * (px - t.x.getD k 0) + t.b.getD k 0 * (py - t.y.getD k 0)
def topleft (a b : Int) : Bool := decide (0 < a ∨ a = 0 ∧ b < 0)
/-- The sample of a pixel. -/
def sampleAt (x : Int) : Int := 256 * x + 128
/-- R208: the coverage of the 8 by 8 tile at an origin. -/
def Tri.coverage (t : Tri) (x0 y0 : Int) : Nat :=
  let area := t.area
  if t.inS24 && area != 0 then
    let g : Int := if 0 < area then 1 else -1
    (List.range 64).foldl (fun c p =>
      let px := sampleAt (x0 + (p % 8 : Nat))
      let py := sampleAt (y0 + (p / 8 : Nat))
      let inside := (List.range 3).all fun k =>
        let bias : Int := if topleft (g * t.a.getD k 0) (g * t.b.getD k 0) then 0 else 1
        decide (0 ≤ g * t.edge k px py - bias)
      if inside then c + 2 ^ p else c) 0
  else 0

/-- The triangle of a lane, and IO for a coordinate that is no sign extension (R71, R207). -/
def State.laneTri (s : State) (r l : Nat) : Tri × Flags :=
  let ws := (List.range 6).map fun i => s.cur.vlane (r + i) l
  (Tri.ofWords (ws.map (·.toNat)), if ws.any fun w => (w.extractLsb' 0 24).signExtend 32 != w then flIO else 0)

/-- Signed halves of a word. -/
def loHalf (w : Word) : Int := sextN 16 w.toNat
def hiHalf (w : Word) : Int := sextN 16 (w.toNat / 65536)

/-- R208. -/
def execEdge (_l : BitVec 4) (g x : BitVec 5) (y : BitVec 6) (s : State) : Res :=
  let o := s.cur.wreg g.toNat
  let t l := s.laneTri (4 * x.toNat) l
  let cov l := (t l).1.coverage (loHalf o) (hiHalf o)
  .next (s.effect {
    writes := [⟨2 * y.toNat, fun l => BitVec.ofNat 32 (cov l), none⟩,
      ⟨2 * y.toNat + 1, fun l => BitVec.ofNat 32 (cov l / 2 ^ 32), none⟩]
    flags := fun l => (t l).2 ||| if (t l).1.inS24 then 0 else flIO })

/-- R209: the two weights of a lane. -/
def baryLane (env : NumEnv) (t : Tri) (px py : Int) (n : LaneNum) : Nat × Nat × LaneNum :=
  if t.area = 0 ∨ t.inS24 = false then
    let p := nanPat env F32 []
    (p, p, n.raise flIV)
  else
    let w k n := roundFin env F32 (Q.dy ⟨t.edge k px py * t.area.sign, t.area.natAbs⟩) false n
    let a := w 2 n
    let b := w 0 a.2
    (a.1, b.1, b.2)
def execBary (_l : BitVec 4) (x : BitVec 5) (y : BitVec 6) (s : State) : Res :=
  let r l :=
    let t := s.laneTri (4 * x.toNat) l
    let p := s.cur.vlane (2 * y.toNat) l
    baryLane s.env t.1 (sampleAt (loHalf p)) (sampleAt (hiHalf p)) ((s.laneNum l).raise t.2)
  .next (s.effect {
    writes := [⟨2 * y.toNat, fun l => BitVec.ofNat 32 (r l).1, none⟩,
      ⟨2 * y.toNat + 1, fun l => BitVec.ofNat 32 (r l).2.1, none⟩]
    flags := fun l => (r l).2.2.fl
    gen := some fun l => (r l).2.2.gen })

/-- R210: the quads covered in the lanes of E, as lane, quad and coverage. -/
def State.quads (s : State) (r : Nat) : List (Nat × Nat × Nat) :=
  (lanesOf s.eff).flatMap fun l =>
    let cov := (s.cur.vpair r l).toNat
    ((List.range 16).filter fun q =>
      [0, 1, 8, 9].any fun o => bitAt cov (16 * (q / 4) + 2 * (q % 4) + o)).map fun q => (l, q, cov)
/-- What a lane of a group receives: its value and its helper state. -/
def covpkLane (list : List (Nat × Nat × Nat)) (i k : Nat) : Word × Bool :=
  match list[i]? with
  | some (src, q, cov) =>
    let p := 8 * (2 * (q / 4) + k / 2) + 2 * (q % 4) + k % 2
    let h := !bitAt cov p
    (BitVec.ofNat 32 (p + 64 * src + (if h then 2 ^ 30 else 0) + 2 ^ 31), h)
  | none => (0, true)
def execCovpk (_l : BitVec 4) (g x : BitVec 5) (y : BitVec 6) (s : State) : Res :=
  let list := s.quads (2 * y.toNat)
  let groups := (List.range 8).filter fun q => (List.range 4).all fun k => s.inE (4 * q + k)
  let c := (s.cur.wreg g.toNat).toNat
  let n := min (list.length - c) groups.length
  let out l : Option (Word × Bool) :=
    match groups.findIdx? (· == l / 4) with
    | some t => if t < n then some (covpkLane list (c + t) (l % 4)) else some (0, true)
    | none => none
  let d := 4 * x.toNat
  .next (s.effect {
    writes := if groups.isEmpty then [] else [⟨d, fun l => match out l with
      | some v => v.1
      | none => s.cur.vlane d l, none⟩]
    post := fun w =>
      let w := w.mapLanes fun l z => match out l with
        | some v => { z with helper := v.2 }
        | none => z
      { w.setWreg g.toNat (BitVec.ofNat 32 (c + n)) with wc := setC w.wc (decide (c + n < list.length)) } })

/-! ## Surfaces (R211, R212) -/

structure Surface where
  base : Nat
  width : Nat
  height : Nat
  pitch : Nat
  layout : Nat
  wrap : Bool
  metaAt : Nat
  clear : Nat
  deriving DecidableEq, Repr

/-- R211: eight words of a descriptor; none when it is malformed. -/
def Surface.ofWords (ws : List Nat) : Option Surface :=
  let d i := ws.getD i 0
  let w := bits (d 2) 0 16
  let h := bits (d 2) 16 16
  let pitch := bits (d 3) 0 16
  let lay := bits (d 3) 16 2
  let am := bits (d 3) 18 2
  let base := d 0 + 2 ^ 32 * d 1
  let md := d 4 + 2 ^ 32 * d 5
  let tiled := lay == 1 || lay == 2
  if decide (w ≠ 0 ∧ h ≠ 0 ∧ lay ≠ 3 ∧ am ≤ 1 ∧ d 3 < 2 ^ 20 ∧ d 7 = 0 ∧ base % (if tiled then 256 else 4) = 0)
      && (!tiled || decide ((w + 7) / 8 ≤ pitch)) && (lay == 2 || md == 0) then
    some { base := base, width := w, height := h, pitch := pitch, layout := lay, wrap := am == 1, metaAt := md, clear := d 6 }
  else none
def State.surface (s : State) (r : Nat) : Option Surface :=
  Surface.ofWords ((List.range 8).map fun i => (s.cur.wreg (r + i)).toNat)
/-- R411: the descriptor fault of a descriptor in registers, or at a scratchpad address. -/
def State.descFault (s : State) (a : Nat) : TrapRec := { s.record 10 with addr := BitVec.ofNat 64 a }

/-- R212: the width of the deltas that a mode byte says, or 0. -/
def deltaBits (mode : Nat) : Nat := if 0x21 ≤ mode ∧ mode ≤ 0x27 then mode - 0x20 else 0
/-- R212: pixel `p` of a coded tile, whose bytes are a number. -/
def codedPixel (tile p k : Nat) : Nat :=
  if p = 0 then tile % 2 ^ 32
  else (List.range 4).foldl (fun a c =>
    let delta := sextN k (bits tile (32 + (4 * (p - 1) + c) * k) k)
    a + 2 ^ (8 * c) * bitsOf 8 ((bits tile (8 * c) 8 : Int) + delta)) 0
/-- The bytes of a tile that a pixel depends on, given the delta width (R212, R218). -/
def pixelBytes (p k : Nat) : List Nat :=
  if k = 0 then (List.range 4).map (4 * p + ·)
  else List.range 4 ++ if p = 0 then [] else
    let lo := (32 + 4 * (p - 1) * k) / 8
    let hi := (32 + 4 * p * k + 7) / 8
    (List.range (hi - lo)).map (lo + ·)
/-- R211: the address of texel (x, y) of a layout-0 surface; the tile's number and the pixel in it otherwise. -/
def Surface.linear (d : Surface) (x y : Nat) : Nat := d.base + 64 * d.pitch * y + 4 * x
def Surface.tile (d : Surface) (x y : Nat) : Nat := y / 8 * d.pitch + x / 8
def pixelIn (x y : Nat) : Nat := 8 * (y % 8) + x % 8

/-! ## Texture gathering (R213) -/

/-- What a lane's texel reads have met: the bytes read with the ordering kind of their page, and the first poisoned access. -/
structure Fetch where
  reads : List (OrdKind × List Place) := []
  bad : Option DWord := none
def Fetch.places (f : Fetch) : List Place := f.reads.flatMap Prod.snd

/-- R458, R466: some bytes arrive marked from outside; the access is named by its first byte. -/
def Fetch.strike (f : Fetch) (hurt : List Place) : Fetch :=
  { f with bad := f.bad <|> f.reads.findSome? fun g =>
      if g.2.any hurt.contains then g.2.head?.map fun p => BitVec.ofNat 64 p.va else none }
/-- Bytes read by a lane at an address, lowest first. -/
def State.texRead (s : State) (l : Nat) (f : Fetch) (va n : Nat) : Except TrapRec (Nat × Fetch) :=
  match s.checkExact .r n l va with
  | .bad r => .error r
  | .ok ps page ea =>
    let b := s.readNow ps
    .ok (ofBytes b.1, { reads := f.reads ++ [(page, ps)], bad := if b.2 then f.bad <|> some ea else f.bad })
/-- Scattered bytes of a tile as a number, each byte at its own place. -/
def State.texBytes (s : State) (l : Nat) (base : Nat) : Fetch → List Nat → Except TrapRec (Nat × Fetch)
  | f, [] => .ok (0, f)
  | f, i :: is =>
    match s.texRead l f (base + i) 1 with
    | .error r => .error r
    | .ok b => match s.texBytes l base b.2 is with
      | .error r => .error r
      | .ok c => .ok (b.1 * 2 ^ (8 * i) + c.1, c.2)
/-- R211, R212: a decoded texel. -/
def State.texel (s : State) (l : Nat) (d : Surface) (x y : Nat) (f : Fetch) : Except TrapRec (Nat × Fetch) :=
  if d.layout = 0 then s.texRead l f (d.linear x y) 4
  else
    let t := d.tile x y
    let p := pixelIn x y
    let base := d.base + 256 * t
    match (if d.layout = 2 then s.texRead l f (d.metaAt + t) 1 else .ok (0, f)) with
    | .error r => .error r
    | .ok m =>
      if m.1 = 1 then .ok (d.clear, m.2)
      else
        let k := deltaBits m.1
        if k = 0 then s.texRead l m.2 (base + 4 * p) 4
        else match s.texBytes l base m.2 (pixelBytes p k).eraseDups with
          | .error r => .error r
          | .ok b => .ok (codedPixel b.1 p k, b.2)
/-- R213: a coordinate's corner index, before its address mode. -/
def texCoord (v : FVal) : Int :=
  let q := v.q (2 ^ 24)
  let lim : Q := ⟨2 ^ 24, 1⟩
  let q := Q.min (Q.max q lim.neg) lim
  (q.add ⟨-1, 2⟩).n / (q.add ⟨-1, 2⟩).d
def addressMode (wrap : Bool) (v : Int) (n : Nat) : Nat :=
  if wrap then (v % (n : Int)).toNat else if v < 0 then 0 else min v.toNat (n - 1)
/-- R219: another warp's CPACK or CUNPK of the tile that some bytes lie in is in progress, and does not come before. -/
def State.tileRaces (s : State) (ps : List Place) : Bool :=
  s.flights.any fun g => g.tileStore && g.warp != s.issue.warp && !(g.wg == s.cur.wg && g.atCore) && overlaps g.span ps
/-- R219: a texel of such a tile is any value, by its lane and its corner, and takes no poison (log entry 10). -/
def State.anyTexel (s : State) (l n : Nat) : Nat :=
  ofBytes ((List.range 4).map fun i => Config.freeByte (2 ^ 40 + 512 * s.tick + 16 * l + 4 * n + i))
/-- The four corners of a lane. -/
def State.corners (s : State) (l : Nat) (d : Surface) (u v : FVal) : Except TrapRec (List Nat × Fetch) :=
  let tx := texCoord u
  let ty := texCoord v
  [((0 : Int), (0 : Int)), (1, 0), (0, 1), (1, 1)].foldlM (fun (a : List Nat × Fetch) o =>
    (s.texel l d (addressMode d.wrap (tx + o.1) d.width) (addressMode d.wrap (ty + o.2) d.height) { a.2 with reads := [] }).map
      fun r =>
        let race := s.tileRaces r.2.places
        (a.1 ++ [if race then s.anyTexel l a.1.length else r.1],
          { reads := a.2.reads ++ r.2.reads, bad := if race then a.2.bad else r.2.bad })) ([], {})

/-- R103, R160, R163, R213. The mode bytes and texels are read as the instruction issues; it waits where `readWaits` says. -/
def execTexg (_l g : BitVec 4) (x : BitVec 5) (y : BitVec 6) (s : State) : Res :=
  if s.eff = 0 then .next s.advance
  else s.withRows (2 * y.toNat) 4 <| match s.surface (8 * g.toNat) with
    | none => .next (s.trapE (s.descFault 0))
    | some d =>
      let r := 4 * x.toNat
      let dst := 2 * y.toNat
      let c := (List.range 32).map fun l =>
        if s.inE l then some (s.corners l d (decodeRaw F32 (s.cur.vlane r l).toNat) (decodeRaw F32 (s.cur.vlane (r + 1) l).toNat))
        else none
      let places := c.flatMap fun x => match x with
        | some (.ok v) => v.2.places
        | _ => []
      let hurt := s.struck places
      let got l : Option (List Nat × Fetch) := match c.getD l none with
        | some (.ok v) => some (v.1, v.2.strike hurt)
        | _ => none
      let val n l : Word := match got l with
        | some v => match v.2.bad with
          | some _ => 0
          | none => BitVec.ofNat 32 (v.1.getD n 0)
        | none => s.cur.vlane (dst + n) l
      let ws := (List.range 4).map fun n => (⟨dst + n, val n, none⟩ : VWrite)
      if (List.range 32).any fun l => match got l with
          | some v => v.2.reads.any fun g => s.readWaits (maskOf (· == l)) g.1 g.2
          | none => false then .next s
      else
        let any := (List.range 32).any fun l => (got l).isSome
        let s := if s.tileRaces places then (s.choose 1).2 else s
        let strong := (List.range 32).any fun l => match got l with
          | some v => v.2.reads.any fun g => g.1 == .strong
          | none => false
        .next ((s.readDone strong places hurt).effectMem {
          writes := if any || (s.pz && s.issue.set != s.eff) then ws else []
          ends := fun l => match c.getD l none with
            | some (.error r) => .trap r
            | some (.ok v) => match (v.2.strike hurt).bad with
              | some ea => .after { s.record 8 with async := true, after := true, addr := ea }
              | none => .next
            | none => .next })

/-! ## Filtering (R214) -/

/-- R214: 0 to 255; NaN and infinities give 0. -/
def frac256 (v : FVal) : Nat :=
  match v with
  | .fin .. => let z := (v.q 0).add ⟨-1, 2⟩; (256 * z.n / z.d % 256).toNat
  | _ => 0
/-- R214: one channel, from the weighted sum of its corners. -/
def filtChannel (env : NumEnv) (sh : Nat) (tc : Q) (sum : Nat) (old : FVal) (n : LaneNum) : Nat × LaneNum :=
  let x : Q := ⟨sum, 65536 * 255⟩
  match sh with
  | 0 => roundFin env F32 x.dy false n
  | 1 => roundFin env F32 ((Q.one.add tc.neg).mul x).dy false n
  | _ => match old with
    | .nan .. => nanResult env F32 [old] n
    | .inf _ => roundVal env F32 old n
    | .fin neg _ _ => roundFin env F32 ((old.q 0).add (tc.mul x)).dy (zeroSumSign env.rm neg false) n
def execFilt (_l : BitVec 4) (sh : BitVec 3) (g x : BitVec 5) (y : BitVec 6) (s : State) : Res :=
  let f r l := decodeRaw F32 (s.cur.vlane r l).toNat
  let a := 4 * x.toNat
  let d := 4 * g.toNat
  let lane l : List Nat × LaneNum :=
    let fu := frac256 (f a l)
    let fv := frac256 (f (a + 1) l)
    let wt := [(256 - fu) * (256 - fv), fu * (256 - fv), (256 - fu) * fv, fu * fv]
    let tc := ((f (a + 2) l).q 1).clamp01
    (List.range 4).foldl (fun r ch =>
      let sum := (List.range 4).foldl (fun t n => t + wt.getD n 0 * wbits (s.cur.vlane (2 * y.toNat + n) l) (8 * ch) 8) 0
      let o := filtChannel s.env sh.toNat tc sum (f (d + ch) l) r.2
      (r.1 ++ [o.1], o.2)) ([], s.laneNum l)
  .next (s.effect {
    writes := (List.range 4).map fun ch => ⟨d + ch, fun l => BitVec.ofNat 32 ((lane l).1.getD ch 0), none⟩
    flags := fun l => (lane l).2.fl
    gen := some fun l => (lane l).2.gen })

/-! ## Blending (R215, R216) -/

def blendFactor (code : Nat) (sc dc sa da : Q) : Q :=
  let om (x : Q) := Q.one.add x.neg
  match code with
  | 1 => Q.one
  | 2 => sa
  | 3 => om sa
  | 4 => da
  | 5 => om da
  | 6 => sc
  | 7 => om sc
  | 8 => dc
  | 9 => om dc
  | _ => Q.zero
def blendOp (code : Nat) (a b : Q) : Q :=
  match code with
  | 1 => a.add b.neg
  | 2 => b.add a.neg
  | 3 => a.min b
  | 4 => a.max b
  | _ => a.add b
/-- R215: the control word has a code or a bit that is not defined. -/
def blendBad (ctl : Nat) : Bool :=
  (List.range 4).any (fun i => decide (9 < bits ctl (4 * i) 4)) || decide (4 < bits ctl 16 3) || decide (4 < bits ctl 19 3)
    || decide (2 ^ 26 ≤ ctl)
/-- R216: the new bytes of a pixel. -/
def blendPixel (rm : Rounding) (ctl : Nat) (src : List Q) (old : List Nat) : List Nat :=
  let env : NumEnv := ⟨if rm = .rsto then .rne else rm, false, false, false, false⟩
  let d i : Q := ⟨old.getD i 0, 255⟩
  let c i := src.getD i Q.zero
  (List.range 4).map fun i =>
    let fs := bits ctl (if i < 3 then 0 else 8) 4
    let fd := bits ctl (if i < 3 then 4 else 12) 4
    let op := bits ctl (if i < 3 then 16 else 19) 3
    let y := (blendOp op ((c i).mul (blendFactor fs (c i) (d i) (c 3) (d 3)))
      ((d i).mul (blendFactor fd (c i) (d i) (c 3) (d 3)))).clamp01
    if bitAt ctl (22 + i) then (clampInt ⟨8, false⟩ (roundInt env.rm (Q.mul ⟨255, 1⟩ y).dy ⟨0, 0⟩).1).toNat else old.getD i 0

/-- An instruction that changes the scratchpad as it issues waits, for its lanes `who`, for an earlier access of its warp to the
same bytes (R162) and for an earlier acquire or fence (R297, R298). -/
def State.updateWaits (s : State) (who : Mask) (ps : List Place) : Bool :=
  let f : Flight := { id := 0, warp := s.issue.warp, wg := s.cur.wg, lane := 0, set := s.issue.set, who := who, group := s.nextId,
                      kind := .atomic ps 0 0 0 0 none }
  s.flights.any fun g => g.before f || g.acquiresBefore f || g.fenceBefore f
/-- One lane's pixel, updated at the port, in lane order; a poisoned pixel is left as it is. -/
def State.blendLane (s : State) (x l sa : Nat) (ctl : Nat) : State :=
  let ps := padPlaces s.cur.wg sa 4
  if ps.any s.placePoisoned then s
  else
    let src := (List.range 4).map fun c => ((decodeRaw F32 (s.cur.vlane (x + c) l).toNat).q 1).clamp01
    (s.ownWrite s.cur.wg ps).putBytes 0
      (ps.zip ((blendPixel s.env.rm ctl src (ps.map fun p => (s.placeByte p).toNat)).map (BitVec.ofNat 8))) false
def execBlnd (_l : BitVec 4) (g x : BitVec 5) (y : BitVec 6) (s : State) : Res :=
  let s := s.markOut
  let base := (s.cur.wreg g.toNat).toNat
  let ctl := (s.cur.wreg (g.toNat + 1)).toNat
  let lanes := (lanesOf s.eff).filter fun l => !(s.cur.lane l).helper
  let sa l := base + 4 * ((s.cur.vlane (2 * y.toNat) l).toNat % 64)
  let chk l := s.checkPad false 4 true (sa l)
  let good := lanes.filter fun l => (chk l).isOk
  if s.updateWaits s.eff (good.flatMap fun l => padPlaces s.cur.wg (sa l) 4) then .next s
  else
    let t := good.foldl (fun t l => t.blendLane (4 * x.toNat) l (sa l) ctl) s
    .next (t.effect {
      flags := fun l => if blendBad ctl && good.contains l then flIV else 0
      ends := fun l => if lanes.contains l then (chk l).lend else .next })

/-! ## Compressed tiles (R217, R218) -/

/-- R217: the smallest coding of 64 pixels with `k`-bit deltas, as a number; none where a delta does not fit. -/
def encodeTile (px : List Nat) (k : Nat) : Option Nat :=
  let base := px.headD 0
  let delta p c : Int := sextN 8 (bitsOf 8 ((bits (px.getD p 0) (8 * c) 8 : Int) - (bits base (8 * c) 8 : Int)))
  let all := (List.range 63).flatMap fun p => (List.range 4).map fun c => delta (p + 1) c
  if all.all fun v => decide (-2 ^ (k - 1) ≤ v ∧ v < 2 ^ (k - 1)) then
    some (base + 2 ^ 32 * packBits k (all.map (bitsOf k)))
  else none
/-- R217: the mode and the bytes written for an unpoisoned tile of a layout-2 surface. -/
def packTile (px : List Nat) (clear : Nat) : Nat × List Byte :=
  if px.all (· == clear) then (1, [])
  else match (List.range 7).findSome? fun i => (encodeTile px (i + 1)).map fun v => (i + 1, v) with
    | some (k, v) => (0x20 + k, toBytes ((32 + 252 * k + 7) / 8) v)
    | none => (0, px.flatMap (toBytes 4))

/-- A list in pieces of `n`. -/
def chunks {α : Type} (n : Nat) (xs : List α) : List (List α) :=
  (List.range ((xs.length + n - 1) / n)).map fun i => (xs.drop (n * i)).take n
/-- A store made once per issue, counted for SCWAIT (R217, R235), in parts of 16 bytes (R286). -/
def State.issueStore (s : State) (la group : Nat) (bytes : List (Place × Byte)) (bad : List Place) (page : OrdKind)
    (ea : DWord) (ord : Nat) (image : List Place := []) : State :=
  if bytes.isEmpty then s
  else
    let lane := (lanesOf s.issue.set).headD 0
    let fk : FlightKind := .store (chunks 16 bytes) bad
    s.addFlight { (s.flight lane la group fk).ordered page ord 5 false true ea with
      counted := true, whole := fk.whole, image := image, who := s.issue.set, windows := (lanesOf s.issue.set).map fun i => (i, la) }
/-- The tile's data, with its granules marked or not, and then the mode byte by a release at device scope (R217, R218). -/
def State.writeTile (s : State) (la : Nat) (bytes : List (Place × Byte)) (bad : Nat → Bool) (page : OrdKind) (ea : DWord)
    (mode : Option (Place × Byte × OrdKind × DWord)) (tile : List Place) : State :=
  let n := s.fresh
  let image := if mode.isSome then tile ++ (mode.map Prod.fst).toList else []
  let t := n.2.issueStore la n.1 bytes ((bytes.zipIdx.filter fun e => bad (e.2 / 32)).map fun e => e.1.1) page ea 0 image
  match mode with
  | some (p, b, pg, a) => t.issueStore la n.1 [(p, b)] [] pg a 2 image
  | none => t
/-- The bytes of a tile at an address that the launch may write. -/
def State.tilePlaces (s : State) (lane a : Nat) : List Place := (List.range 256).flatMap fun i => match s.checkExact .w 1 lane (a + i) with
  | .ok ps _ _ => ps
  | .bad _ => []

/-- The tile that an operand word names, when it lies within a tiled surface. -/
def Surface.tileAt? (d : Surface) (c : Nat) : Option Nat :=
  let col := bits c 0 16
  let row := bits c 16 16
  if d.layout ≠ 0 ∧ 8 * col < d.width ∧ 8 * row < d.height then some (row * d.pitch + col) else none

/-- R294, R295: the release of a CPACK or CUNPK that writes no mode byte, for helper lanes, for no lane or with a fault. -/
def State.tilePoint (s : State) : State := s.addFence false true false false 5
/-- R217. A fault is every lane's of E. -/
def execCpack (l : BitVec 4) (g x : BitVec 5) (y : BitVec 4) (s : State) : Res :=
  if s.acts = false then .next s.tilePoint.advance
  else
    let sa := (s.cur.wreg g.toNat).toNat
    let win := (s.wg s.cur.wg).window
    if sa % 16 ≠ 0 then .next (s.tilePoint.trapE (s.alignFault (BitVec.ofNat 64 sa)))
    else if win < sa + 256 then .next (s.tilePoint.trapE (s.addrFault 1 (BitVec.ofNat 64 sa)))
    else match s.surface (8 * y.toNat) with
      | none => .next (s.tilePoint.trapE (s.descFault 0))
      | some d => match d.tileAt? (s.cur.wreg x.toNat).toNat with
        | none => .next (s.tilePoint.trapE (s.descFault 0))
        | some t =>
          let ps := padPlaces s.cur.wg sa 256
          if s.readWaits s.issue.set .consistent ps then .next s
          else
            let r := s.readNow ps
            let poisoned := (List.range 256).filter fun i => (s.readNow (padPlaces s.cur.wg (sa + i) 1)).2
            let px := (List.range 64).map fun p => ofBytes ((r.1.drop (4 * p)).take 4)
            let out : Nat × List Byte := if d.layout = 2 ∧ r.2 = false then packTile px d.clear else (0, r.1)
            let chkD := s.checkExact .w out.2.length ((lanesOf s.eff).headD 0) (d.base + 256 * t)
            let chkM := s.checkExact .w 1 ((lanesOf s.eff).headD 0) (d.metaAt + t)
            let data : Except TrapRec (List Place × OrdKind × DWord) := match out.2, chkD with
              | [], _ => .ok ([], .consistent, 0)
              | _, .ok ps pg ea => .ok (ps, pg, ea)
              | _, .bad e => .error e
            let mode : Except TrapRec (Option (Place × Byte × OrdKind × DWord)) := if d.layout = 2 then match chkM with
                | .ok (p :: _) pg ea => .ok (some (p, BitVec.ofNat 8 out.1, pg, ea))
                | .ok [] _ _ => .ok none
                | .bad e => .error e
              else .ok none
            match data, mode with
            | .error e, _ => .next (s.tilePoint.effectMem { ends := fun _ => .trap e })
            | _, .error e => .next (s.tilePoint.effectMem { ends := fun _ => .trap e })
            | .ok p, .ok m =>
              .next (s.writeTile l.toNat (p.1.zip out.2) (fun j => poisoned.any fun i => i / 32 == j) p.2.1 p.2.2 m
                (s.tilePlaces ((lanesOf s.eff).headD 0) (d.base + 256 * t))).advance

/-- R218: the decoded bytes of a tile with a mode other than 0x00, and which of its granules are marked. -/
def unpackTile (mode clear : Nat) (raw : List Byte) (badBytes : List Nat) : List Byte × (Nat → Bool) :=
  let k := deltaBits mode
  let v := ofBytes raw
  let px p := if mode = 1 then clear else if k = 0 then bits v (32 * p) 32 else codedPixel v p k
  ((List.range 64).flatMap fun p => toBytes 4 (px p),
    fun j => mode != 1 && (List.range 8).any fun i => (pixelBytes (8 * j + i) k).any badBytes.contains)
/-- R218, R219: the tile and its mode byte are read as the instruction issues, once no other CPACK or CUNPK of it is in progress, and
past older values that the L1 may hold: with some of those the result would be none of the images that R219 allows. -/
def execCunpk (l : BitVec 4) (x : BitVec 5) (y : BitVec 4) (s : State) : Res :=
  if s.acts = false then .next s.tilePoint.advance
  else match s.surface (8 * y.toNat) with
    | none => .next (s.tilePoint.trapE (s.descFault 0))
    | some d =>
      if d.layout = 1 then .next s.tilePoint.advance
      else match d.tileAt? (s.cur.wreg x.toNat).toNat with
        | none => .next (s.tilePoint.trapE (s.descFault 0))
        | some t =>
          let lane := (lanesOf s.eff).headD 0
          let chk k n a := s.checkExact k n lane a
          let tile := d.base + 256 * t
          match chk .r 1 (d.metaAt + t), chk .w 1 (d.metaAt + t), chk .r 256 tile, chk .w 256 tile with
          | .ok mp mpg mea, .ok .., .ok dp dpg dea, .ok .. =>
            let other := s.flights.any fun g => g.tileStore && overlaps g.span (mp ++ dp)
            if other || s.readWaits s.issue.set mpg mp || s.readWaits s.issue.set dpg dp then .next s
            else
              let fresh := s.ownWrite s.cur.wg (mp ++ dp)
              let hurt := s.struck (mp ++ dp)
              let m := fresh.readHit hurt mp
              let mode := if m.2 then 0 else ofBytes m.1
              let read := if mode = 0 ∨ mode = 1 then mp else mp ++ dp
              let strong := mpg == .strong || (read != mp && dpg == .strong)
              let s2 := s.readDone strong read (hurt.filter read.contains)
              if mode = 0 then .next s2.tilePoint.advance
              else
                let raw := fresh.readHit hurt dp
                let badBytes := if raw.2 then (List.range 256).filter fun i => (fresh.readHit hurt ((dp.drop i).take 1)).2 else []
                let out := unpackTile mode d.clear raw.1 badBytes
                .next (s2.writeTile l.toNat (dp.zip out.1) out.2 dpg dea (mp.head?.map fun p => (p, 0, mpg, mea)) dp).advance
          | a, b, c, e =>
            let bad := [a, b, c, e].findSome? fun z => match z with
              | .bad r => some r
              | .ok .. => none
            .next (s.tilePoint.effectMem { ends := fun _ => match bad with
              | some r => .trap r
              | none => .next })

/-! ## Meshlets and bin work (R220, R221, R377) -/

/-- A render pass's stage of a gang: gangs of stage n have keys from n times 2^24 (R371). -/
def gangStage (key : Nat) : Nat := key / 2 ^ 24

/-- R220: the record's counts, zero fields and indices are right. A count past the range that the table gives is a descriptor fault too,
though the rule's list does not name it (DESIGN CHOICE, log entry 86). -/
def recordLegal (b : List Byte) : Bool :=
  let w o := ofBytes ((b.drop o).take 4)
  let v := bits (w 0) 0 8
  let t := bits (w 0) 8 8
  decide (w 0 < 65536 ∧ w 8 = 0 ∧ w 12 = 0 ∧ v ≤ 64 ∧ t ≤ 32) && (t == 0 || v != 0) &&
    (List.range t).all fun i =>
      let x := w (784 + 4 * i)
      decide (x &&& 0xFFC0C0C0 = 0) && [0, 8, 16].all fun o => decide (bits x o 6 < v)
/-- The word of the render-pass block at a byte offset (R372). -/
def Render.at (r : Render) (off : Nat) : Nat := (r.block.getD (off / 4) 0).toNat

/-- The instructions of a stage: outside it the illegal-instruction trap; nothing for helpers alone; then the operand's
faults. -/
def State.inStage (s : State) (stage : Nat) (sa n : Nat) (f : Render → State) : Res :=
  match s.curLaunch.render with
  | none => .next (s.trapAll (s.record 2))
  | some r =>
    if gangStage s.cur.gang ≠ stage then .next (s.trapAll (s.record 2))
    else if s.acts = false then .next s.advance
    else if sa % 16 ≠ 0 then .next (s.trapE (s.alignFault (BitVec.ofNat 64 sa)))
    else if (s.wg s.cur.wg).window < sa + n then .next (s.trapE (s.addrFault 1 (BitVec.ofNat 64 sa)))
    else .next (f r)
/-- R220, R377, R380: the record is copied into the window, or the issue set holds. -/
def execMeshemit (_l : BitVec 4) (flush : BitVec 1) (g : BitVec 5) (s : State) : Res :=
  let s := s.markOut
  let sa := (s.wsrc g.toNat).toNat
  s.inStage 1 sa 912 fun r =>
    let ps := padPlaces s.cur.wg sa 912
    if s.readWaits s.issue.set .consistent ps then s
    else
      let b := s.readNow ps
      let i := ofBytes ((b.1.drop 4).take 4)
      if !recordLegal b.1 || decide (i < r.nextMeshlet ∨ r.at 8 ≤ i) || (mapGet? r.records i).isSome then s.trapE (s.descFault sa)
      else if !r.batches.isEmpty || decide (r.nextMeshlet + 256 ≤ i) then s.holdRetry [g.toNat]
      else
        (s.modLaunch s.cur.launch fun x => { x with
          render := some { r with records := mapSet r.records i (flush == 1, b.1) } }).advance
/-- R221: the issue set holds until Shale hands a batch to it. -/
def execBinnext (_l : BitVec 4) (g : BitVec 5) (y : BitVec 6) (s : State) : Res :=
  let s := s.markOut
  let sa := (s.cur.wreg y.toNat).toNat
  s.inStage 3 sa 1536 fun _ => s.fresh.2.holdLanes (fun _ => true) (.batch s.nextId sa g.toNat s.len)

end Sys2Proof.Machine
end

