-- ==== Sys2Proof/Machine/Sync.lean ====
section
/-! DEFINITION. Class 0xA beyond barriers: ordered sections at the core, SEQNEXT, puts, put counters, fences (R226 to R235, R489). -/

namespace Sys2Proof.Machine

/-! ## Shapes of grids (R347, R348, R372) -/

structure GridShape where
  entry : Nat := 0
  /-- warps per workgroup, workgroups per gang -/
  warps : Nat := 1
  gwg : Nat := 1
  rows : Nat := 0
  /-- 0 concurrent, 1 parallel, 2 weakly parallel -/
  cls : Nat := 0
  ngang : Nat := 0
  part : Word := 0
  deriving DecidableEq, Repr

/-- The shape of a stage: stage 1 and a compute launch take the descriptor's, the others the block's. -/
def Launch.shape (x : Launch) (stage : Nat) : GridShape :=
  let d := x.desc
  let one : GridShape := {
    entry := d.entry.toNat, warps := wbits d.ctl0 12 5 + 1, gwg := wbits d.ctl0 17 3 + 1, rows := wbits d.ctl1 0 8,
    cls := wbits d.ctl0 10 2, ngang := wbits d.ngang 0 24, part := d.part }
  match x.render with
  | none => one
  | some r =>
    if stage < 2 then one
    else
      let o := if stage = 2 then 0x30 else 0x40
      let c := r.at (o + 4)
      { entry := r.at o, warps := bits c 0 5 + 1, gwg := bits c 5 3 + 1, rows := bits c 8 8, cls := bits c 16 2
        ngang := bits (r.at (o + 8)) 0 24, part := BitVec.ofNat 32 (r.at (o + 12)) }
/-- The shape of the issuing warp's grid. -/
def State.curShape (s : State) : GridShape := s.curLaunch.shape (gangStage s.cur.gang)
def gangIndex (key : Nat) : Nat := key % 2 ^ 24

/-! ## Homes and places (R319, R320, R464) -/

/-- R319: the hash of a key. -/
def keyHash (k : DWord) : DWord :=
  let z := (k ^^^ (k >>> 33)) * 0xFF51AFD7ED558CCD
  z ^^^ (z >>> 33)
def keyHomeIndex (k : DWord) : Nat := (keyHash k).toNat / 2 ^ 32 * 192 / 2 ^ 32
def keySet (k : DWord) : Nat := (keyHash k).toNat % 128
/-- The slice that serves a home index: its own, or the one a retired slice was remapped to. -/
def State.sliceAt (s : State) (i : Nat) : Nat := mapGet s.dev.remap i i
def State.keySlice (s : State) (k : DWord) : Nat := s.sliceAt (keyHomeIndex k)
/-- R467: the key's home is on a failed die. -/
def State.keyLost (s : State) (k : DWord) : Bool := s.dev.diesFailed.contains (keyHomeIndex k / 96)
/-- Two keys share a set of a slice. -/
def State.sameSet (s : State) (a b : DWord) : Bool := s.keySlice a == s.keySlice b && keySet a == keySet b

/-! ## Ordered sections at the core (R227 to R229, R375) -/

/-- R227, R375: the domain's tag where it is declared for the warp; domain 31 of a render pass is declared for stage 3. -/
def State.domain? (s : State) (d : Nat) : Option DomTag :=
  let x := s.curLaunch
  if d = 31 ∧ x.render.isSome = true then
    if gangStage s.cur.gang = 3 then some (.priv s.cur.launch 31) else none
  else (mapGet? x.domains d).map fun e => e.2.2
/-- The entry of a key, if there is one. -/
def State.keyEntry? (s : State) (tag : DomTag) (key : DWord) : Option KeyEntry :=
  s.keys.find? fun e => e.tag == tag && e.key == key
/-- R411: the record of an ordered-section fault; N is the entry's where there is one. -/
def State.ordFault (s : State) (cause : Nat) (tag : Option DomTag) (key : DWord) (num : Word) : TrapRec :=
  { s.record 12 with cause := cause, addr := key, arg1 := num,
                     arg2 := match tag.bind fun t => s.keyEntry? t key with
                       | some e => e.n
                       | none => 0 }
/-- R228 step 1, R325. -/
def Lane.mayEnter (x : Lane) (d : Nat) (key : DWord) : Bool :=
  decide (x.held.length < 4) && x.held.all fun h => decide (h.dom < d) || (h.dom == d && decide (h.key < key))

/-- The request of a lane on its way to the home; the lane holds (R228, R489). `grp` is what the lanes' requests of one
instruction share. -/
def State.askHome (s : State) (grp op : Nat) (tag : DomTag) (d l : Nat) (key : DWord) (num : Word) : State :=
  let n := s.fresh
  let f := { s.flight l 0 grp (.ordReq op tag d key num 0) with id := n.1, windows := [] }
  ({ n.2 with flights := n.2.flights ++ [f] }).modCur fun w =>
    w.setLane l { w.lane l with status := .hold, wait := .order n.1, unpended := false }
/-- R295: the ordering point of an instruction of class 0xA for the lanes of its issue set that have no part in it. -/
def State.pointRest (s : State) (served : Nat → Bool) (acquire release : Bool) (scope : Nat) : State :=
  if (lanesOf s.issue.set).all served then s else s.addFence acquire release false false scope

/-- The requests of the lanes of E that are no helpers, each with its own check at issue. ORDENTER and ORDTEST are acquires
at device scope, ORDSKIP (`op` 1) orders nothing (R294, R305). -/
def State.ordRequests (s : State) (op : Nat) (a : Nat) (b : Nat) (d : Nat) (check : Lane → DWord → Bool) : Res :=
  let key l : DWord := (s.cur.vlane (a + 1) l) ++ (s.cur.vlane a l)
  let num l : Word := s.cur.vlane b l
  let helper l := (s.cur.lane l).helper
  let point (t : State) (p : Nat → Bool) : State := if op = 1 then t else t.pointRest p true false 5
  match s.domain? d with
  | none => .next ((point s fun _ => false).finish fun l => if helper l then .next else .trap (s.ordFault 4 none (key l) (num l)))
  | some tag =>
    let good l := !helper l && check (s.cur.lane l) (key l)
    let t := (lanesOf s.issue.set).foldl (fun t l => if good l then t.askHome s.nextId op tag d l (key l) (num l) else t) s
    .next ((point t good).finish fun l =>
      if helper l then .next else if good l then .stay else .trap (s.ordFault 0 (some tag) (key l) (num l)))

def execOrdenter (a b : BitVec 7) (z : BitVec 5) (s : State) : Res :=
  s.markOut.ordRequests 0 a.toNat b.toNat z.toNat fun x k => x.mayEnter z.toNat k
def execOrdskip (a b : BitVec 7) (z : BitVec 5) (s : State) : Res :=
  s.ordRequests 1 a.toNat b.toNat z.toNat fun _ _ => true
def execOrdtest (a b : BitVec 7) (z : BitVec 5) (s : State) : Res :=
  s.ordRequests 2 a.toNat b.toNat z.toNat fun _ _ => true

/-- The section of a domain and key that a lane holds. -/
def Lane.section? (x : Lane) (d : Nat) (key : DWord) : Option Held := x.held.find? fun h => h.dom == d && h.key == key
/-- R229, R295: the leaves are releases at device scope; the lanes go on. -/
def execOrdleave (a : BitVec 7) (z : BitVec 5) (s : State) : Res :=
  let s := s.markOut
  let d := z.toNat
  let key l : DWord := (s.cur.vlane (a.toNat + 1) l) ++ (s.cur.vlane a.toNat l)
  -- R227: the number in a fault's record is v(B)'s, and B is 0 here
  let num l : Word := s.cur.vlane 0 l
  let helper l := (s.cur.lane l).helper
  match s.domain? d with
  | none =>
    .next ((s.pointRest (fun _ => false) false true 5).finish fun l =>
      if helper l then .next else .trap (s.ordFault 4 none (key l) (num l)))
  | some tag =>
    let sec l := if helper l then none else (s.cur.lane l).section? d (key l)
    let t := (lanesOf s.issue.set).foldl (fun t l => match sec l with
      | some h =>
        let t := t.addFlight { t.flight l 0 t.nextId (.ordLeave tag h.key h.s false) with
          rel := true, counted := true, windows := [], ea := h.key }
        t.modCur fun w => w.setLane l { w.lane l with held := (w.lane l).held.filter fun x => x != h }
      | none => t) s
    .next ((t.pointRest (fun l => (sec l).isSome) false true 5).finish fun l =>
      if helper l || (sec l).isSome then .next else .trap (s.ordFault 2 (some tag) (key l) (num l)))

/-! ## SEQNEXT (R230, R318) -/

/-- The counter of a domain, or the domain's base number while none was handed out. -/
def State.seqCounter (s : State) (tag : DomTag) (base : Word) : Word :=
  match s.seqNext.find? fun e => e.1 == tag with
  | some e => e.2
  | none => base
def State.setSeq (s : State) (tag : DomTag) (n : Word) : State :=
  { s with seqNext := (tag, n) :: s.seqNext.filter fun e => e.1 != tag }
/-- R226, R317: the base number of a domain, private or shared: that of the launch's descriptor (log entry 69). -/
def State.domBase (s : State) (launch d : Nat) : Word :=
  match mapGet? (s.launch launch).domains d with
  | some e => e.1
  | none => 0
/-- The numbers handed out: the first one and what is left behind; none when the gang's block is exhausted. -/
def State.handOut (s : State) (tag : DomTag) (d n : Nat) : Option (Word × State) :=
  if s.curShape.cls = 2 then
    let g := mapGet s.curLaunch.gangs s.cur.gang {}
    let b := mapGet g.blocks d (0, 0)
    if b.2 < n then none
    else some (b.1, s.modLaunch s.cur.launch fun x => { x with
      gangs := mapSet x.gangs s.cur.gang { g with blocks := mapSet g.blocks d (b.1 + BitVec.ofNat 32 n, b.2 - n) } })
  else
    let c := s.seqCounter tag (s.domBase s.cur.launch d)
    some (c, s.setSeq tag (c + BitVec.ofNat 32 n))
/-- R230, R318: the counter lives at the home slice of the domain number, which may be lost (R467; log entry 70). -/
def execSeqnext (a : BitVec 7) (z : BitVec 5) (s : State) : Res :=
  let s := s.markOut
  if s.eff = 0 then .next s.advance else
  let d := z.toNat
  let lanes := lanesOf s.eff
  let seqRec (c : Nat) : TrapRec := { s.record 12 with cause := c }
  match s.domain? d with
  | none => .next (s.trapE (seqRec 4))
  | some tag =>
    if d = 31 ∧ s.curLaunch.render.isSome = true then .next (s.trapE (seqRec 8))
    else
      let val (c : Word) l : Word := c + BitVec.ofNat 32 (lanes.findIdx (· == l))
      let w (c : Word) : VWrite := ⟨a.toNat, val c, some (.a c 1)⟩
      let w1 := s.cur.write s.eff s.issue.set s.pz [w 0]
      if s.cur.budget < w1.rows then .next (s.trapAll (s.overflowRec (rowsNeeded s.cur w1)))
      else if s.curShape.cls ≠ 2 ∧ s.keyLost (BitVec.ofNat 64 d) = true then .next (s.trapE (seqRec 6))
      else match s.handOut tag d lanes.length with
        | none => .next (s.trapE (seqRec 5))
        | some (c, t) => .next (t.effect { writes := [w c] })

/-! ## Puts (R231 to R234) -/

/-- R231: a workgroup of the issuing gang, or of the grid of a concurrent launch. -/
def State.putAllowed (s : State) (i : Nat) : Bool :=
  let h := s.curShape
  decide (i < h.gwg * h.ngang) && (h.cls == 0 || i / h.gwg == gangIndex s.cur.gang)
/-- The workgroup with a linear index in the issuing warp's grid, while it exists. -/
def State.putTarget? (s : State) (i : Nat) : Option Nat :=
  lowest (fun g => let w := s.wg g
    w.launch == s.cur.launch && gangStage w.gang == gangStage s.cur.gang && w.wgid == i) (s.wgs.map Prod.fst)
def State.putFault (s : State) (i : Nat) : TrapRec := { s.record 14 with arg1 := BitVec.ofNat 32 i }
/-- A put on its way. A target that has ended takes nothing; name 0 stands for it. Its release covers the sender's earlier accesses only
towards agents in its scope, and the target's agents alone observe it (R303). -/
def State.sendPut (s : State) (lane : Nat) (who : Mask) (i sa : Nat) (bytes : List (Byte × Bool)) (counter n scope : Nat) : State :=
  let target := (s.putTarget? i).getD 0
  let cells := bytes.zipIdx.map fun e => (sa + e.2, e.1.1)
  let bad := (bytes.zipIdx.filter fun e => e.1.2).map fun e => sa + e.2
  s.addFlight { s.flight lane 0 s.nextId (.put target cells bad counter n) with
    who := who, windows := [], whole := if bytes.length ≤ 16 then [] else padPlaces target sa bytes.length
    rel := s.inScope scope s.cur.wg target, scope := scope, counted := true }
/-- R231, R295: the put is a release at SCOPE before its data leaves. Source bytes are read as it issues. -/
def execPut (e : BitVec 3) (a : BitVec 7) (z : BitVec 5) (s : State) : Res :=
  let s := s.markOut
  let rest := s.addFence false true false false e.toNat
  if s.acts = false then .next rest.advance
  else
    let d i := (s.cur.wreg (a.toNat + i)).toNat
    let win := (s.wg s.cur.wg).window
    if s.putAllowed (d 3) && decide (d 0 % 16 = 0 ∧ d 1 % 16 = 0 ∧ d 2 % 16 = 0 ∧ 16 ≤ d 2 ∧ d 2 ≤ 65536 ∧
        d 0 + d 2 ≤ win ∧ d 1 + d 2 ≤ win) then
      let ps := padPlaces s.cur.wg (d 0) (d 2)
      if s.readWaits s.issue.set .consistent ps then .next s
      else
        let bs := ps.map fun p => s.viewByte s.cur.wg p
        .next (s.sendPut ((lanesOf s.issue.set).headD 0) s.issue.set (d 3) (d 1) bs z.toNat (d 2) e.toNat).advance
    else .next (rest.trapE (s.putFault (d 3)))
/-- R232: one word for each lane of E that is no helper. -/
def execPutw (e : BitVec 3) (a b : BitVec 7) (z : BitVec 5) (s : State) : Res :=
  let s := s.markOut
  let win := (s.wg s.cur.wg).window
  let sa l := (s.cur.vlane a.toNat l).toNat
  let tg l := (s.cur.vlane (a.toNat + 1) l).toNat
  let good l := s.putAllowed (tg l) && decide (sa l % 4 = 0 ∧ sa l + 4 ≤ win)
  let helper l := (s.cur.lane l).helper
  let t := (lanesOf s.eff).foldl (fun t l =>
    if !helper l && good l then
      t.sendPut l (maskOf (· == l)) (tg l) (sa l) ((toBytes 4 (s.cur.vlane b.toNat l).toNat).map fun x => (x, false)) z.toNat 4 e.toNat
    else t) s
  .next ((t.pointRest (fun l => s.inE l && !helper l && good l) false true e.toNat).finish fun l =>
    if s.inE l && !helper l && !good l then .trap (s.putFault (tg l)) else .next)
/-- R263: put counter c of a workgroup. -/
def Workgroup.counterAt (g : Workgroup) (c : Nat) : Nat := g.window - 256 + 8 * c
/-- R286: the next bytes of a put: one of its 16-byte pieces, any of them. -/
def State.putPiece (s : State) (bytes : List (Nat × Byte)) : Nat × State :=
  let as := (bytes.map fun c => c.1 / 16).eraseDups
  if as.length ≤ 1 then (as.headD 0, s) else let r := s.choose as.length; (as.getD r.1 0, r.2)
/-- R233: the bytes land piece by piece, and then the counter is added to. A poisoned counter keeps its mark and is not added
to. A target that has ended, or has no window, takes nothing. Reads that no acquire orders after it may miss the bytes (R303, R307). -/
def State.landPut (s : State) (f : Flight) : State :=
  match f.kind with
  | .put target bytes bad counter n =>
    let g := s.wg target
    if target = 0 ∨ g.ended = true ∨ g.window = 0 then s.dropFlight f.id
    else if bytes.isEmpty then
      let s := s.dropFlight f.id
      let at_ := g.counterAt counter
      if g.spPoison.contains (at_ / 32) then s else s.modWg target fun g => g.poke at_ 8 (g.peek at_ 8 + n)
    else
      let r := s.putPiece bytes
      let now := bytes.filter fun c => c.1 / 16 == r.1
      let rest := bytes.filter fun c => c.1 / 16 != r.1
      let part b := now.filter fun c => bad.contains c.1 == b
      let s := if target = f.wg then r.2.ownWrite target (now.map fun c => .sp target c.1) else r.2.keepPad target (now.map Prod.fst)
      let s := s.spStore target (part false) false
      let s := if (part true).isEmpty then s else s.spStore target (part true) true
      let s := if rest.isEmpty && !f.whole.isEmpty then
          s.clearMarks (f.whole.filter fun p => !bad.any fun b => sameGranule p (.sp target b)) else s
      s.setFlight { f with kind := .put target rest bad counter n }
  | _ => s
def execPutArrival (f : Nat) (s : State) : Res :=
  match s.flight? f with
  | some x => .next (if s.canPerform x then s.landPut x else s)
  | none => .next s
/-- R234, R263: HOLD until the counter is at or above the threshold; the fault of a workgroup without a window. The counter is
read after the warp's earlier accesses to it (R162, R300). -/
def execCwait (e : BitVec 3) (a : BitVec 7) (z : BitVec 5) (s : State) : Res :=
  let g := s.wg s.cur.wg
  let at_ := g.counterAt z.toNat
  if g.window = 0 then .next ((s.addFence true false false false e.toNat).trapE (s.putFault g.wgid))
  else if s.readWaits s.issue.set .consistent (padPlaces s.cur.wg at_ 8) then .next s
  else if (s.wsrcPair a.toNat).toNat ≤ g.spNat at_ 8 then .next (s.refresh s.cur.wg e.toNat).advance
  else .next (s.holdRetry [a.toNat, a.toNat + 1])

/-! ## Fences (R235, R298, R299) -/

/-- R298: a fence orders the accesses on either side of it (`State.fenceDone`), and its lanes go on. `FENCE.AR` and `FENCE.SC`
take in unordered pages. -/
def execFenceAcq (e : BitVec 3) (s : State) : Res := .next (s.addFence true false false false e.toNat).advance
def execFenceRel (e : BitVec 3) (s : State) : Res := .next (s.addFence false true false false e.toNat).advance
def execFenceAr (e : BitVec 3) (s : State) : Res := .next (s.addFence true true true false e.toNat).advance
def execFenceSc (e : BitVec 3) (s : State) : Res := .next (s.addFence true true true true e.toNat).advance
/-- R235: HOLD until the warp's count of unacknowledged stores is zero. -/
def execScwait (s : State) : Res :=
  if s.flights.any fun g => g.warp == s.issue.warp && g.counted then .next (s.holdRetry []) else .next s.advance

end Sys2Proof.Machine
end

