-- ==== Sys2Proof/Machine/OrdSec.lean ====
section
/-! DEFINITION. The home slices of ordered sections (R226, R228, R229, R305, R320 to R329, R382, R383, R489): key table, grants,
leaves, quiet counts. -/

namespace Sys2Proof.Machine

/-- R226. -/
def aheadBy (e : KeyEntry) (num : Word) : Nat := (num - e.n).toNat
def behindN (e : KeyEntry) (num : Word) : Bool := decide (2 ^ 31 ≤ aheadBy e num)
def KeyEntry.posts (e : KeyEntry) (num : Word) : Bool := match e.posted with
  | some l => l.any fun x => x.1 == num
  | none => true

/-- R226: bit j of the window stands for N + 1 + j. N moves past the numbers retired ahead; `fuel` bounds the window. -/
def slideWindow : Nat → Word → BitVec 64 → Word × BitVec 64
  | 0, n, w => (n, w)
  | fuel + 1, n, w => if w.getLsbD 0 then slideWindow fuel (n + 1) (w >>> 1) else (n + 1, w >>> 1)
/-- R226, R382, R383: `retire`. -/
def KeyEntry.retire (e : KeyEntry) (num : Word) : KeyEntry :=
  match e.posted with
  | some l =>
    let l := l.map fun x => if x.1 = num then (x.1, true) else x
    let rest := l.dropWhile Prod.snd
    let n := match rest with
      | x :: _ => x.1
      | [] => match l.getLast? with
        | some x => x.1 + 1
        | none => e.n
    { e with posted := some rest, n := n }
  | none =>
    let d := aheadBy e num
    if d = 0 then let r := slideWindow 65 e.n e.w; { e with n := r.1, w := r.2 }
    else { e with w := e.w ||| (1 <<< (d - 1)) }

def State.setKey (s : State) (e : KeyEntry) : State :=
  { s with keys := s.keys.map fun x => if x.tag = e.tag ∧ x.key = e.key then e else x }
/-- A waiting request of an entry. -/
def Flight.waitsAt (f : Flight) (tag : DomTag) (key : DWord) : Bool := match f.kind with
  | .ordReq _ t _ k _ st => t == tag && k == key && st == 1
  | _ => false
/-- R321: the time of a use of an entry, later than those of all uses so far. -/
def State.nextUse (s : State) : Nat := (s.keys.foldl (fun m e => max m e.lastUse) 0) + 1
/-- R320. -/
def State.idleKey (s : State) (e : KeyEntry) : Bool :=
  e.holder.isNone && !e.ab && !s.flights.any fun f => f.waitsAt e.tag e.key

/-! ## Table capacity (R320 to R322) -/

/-- R322: the size of the overflow area, while it is enabled. -/
def Device.overflowLog? (d : Device) : Option Nat :=
  if d.ovfCtl.getLsbD 31 then some (wbits d.ovfCtl 0 5) else none
/-- R322: the free place on the probe path of an entry. -/
def State.overflowPlace (s : State) (key : DWord) : Option Nat :=
  s.dev.overflowLog?.bind fun n =>
    let start := bits (keyHash key).toNat 8 24
    lowest (fun p => s.keys.all fun e => e.overflow != some p) ((List.range 8).map fun i => (start + i) % 2 ^ n)
/-- The bytes of a place of the overflow area: the spec gives no layout, so they are free values (log entry 36). -/
def State.touchPlace (s : State) (p : Nat) : State :=
  let base := s.dev.ovfLo.toNat / 4096 * 4096 + 2 ^ 32 * wbits s.dev.ovfHi 0 20
  let n := s.fresh
  n.2.physWrite ((List.range 32).map fun i => (base + 32 * p + i, Config.freeByte (2 ^ 42 + 32 * n.1 + i))) false
/-- R321: a way in the key's set: a free one, or that of the least recently used idle entry, which is spilled. -/
def State.keyRoom (s : State) (key : DWord) : Option State :=
  let here := s.keys.filter fun e => e.overflow.isNone && !e.placeless && s.sameSet e.key key
  if here.length < 8 then some s
  else
    let idle := here.filter s.idleKey
    let lru := idle.foldl (fun (a : Option KeyEntry) e => match a with
      | some b => if e.lastUse < b.lastUse then some e else a
      | none => some e) none
    match lru with
    | some v => (s.overflowPlace v.key).map fun p => (s.setKey { v with overflow := some p }).touchPlace p
    | none => none
/-- R321: the entry of a tag and key, brought into its set or created with N `base`; none while there is no room. -/
def State.keyEnter (s : State) (tag : DomTag) (key : DWord) (base : Word) (posted : Option (List (Word × Bool))) :
    Option (KeyEntry × State) :=
  match s.keyEntry? tag key with
  | some e =>
    let e' := { e with overflow := none, lastUse := s.nextUse }
    match e.overflow with
    | none => some (e', s.setKey e')
    | some p => (s.keyRoom key).map fun t => (e', (t.setKey e').touchPlace p)
  | none => (s.keyRoom key).map fun t =>
    let e : KeyEntry := { tag := tag, key := key, n := base, posted := posted, lastUse := s.nextUse }
    (e, { t with keys := t.keys ++ [e] })

/-! ## Answers to lanes (R228, R489) -/

/-- The lane leaves HOLD and goes on at the next word, with bit l of m0 written where there is one. -/
def State.answerLane (s : State) (f : Flight) (bit : Option Bool) : State :=
  (s.dropFlight f.id).modWarp f.warp fun w =>
    let w := match bit with
      | some b => (w.setMask 0 (maskOf fun l => if l = f.lane then b else (w.mask 0).getLsbD l)).mend [384]
      | none => w
    let x := w.lane f.lane
    w.setLane f.lane { x.release w.handlerMode with pc := x.pc + 1 }
/-- The lane leaves HOLD with a trap found at the home, its program counter on the instruction. -/
def State.faultLane (s : State) (f : Flight) (r : TrapRec) : State :=
  (s.dropFlight f.id).modWarp f.warp fun w =>
    let x := w.lane f.lane
    w.setLane f.lane ((x.release w.handlerMode).pend r)
def Flight.homeRec (f : Flight) (kind cause : Nat) (key : DWord) (num n : Word) (after : Bool) : TrapRec :=
  { kind := kind, cause := cause, async := true, after := after, widx := BitVec.ofNat 32 f.pc, word := f.word
    addr := key, arg1 := num, arg2 := n }

/-- R326: a grant in a domain at a slice. -/
def State.quietGrant (s : State) (slice : Nat) (tag : DomTag) : State :=
  { s with quiets := s.quiets.map fun q => if q.slice = slice ∧ q.tag = tag then { q with count := 0, granted := true } else q }
/-- R228: the grant of a section to the lane of a request: an acquire at device scope (R294). -/
def State.grantKey (s : State) (f : Flight) (e : KeyEntry) (dom : Nat) (num : Word) : State :=
  let s := s.setKey { e with holder := some (f.warp, f.lane), heldS := num, ab := false, lastUse := s.nextUse }
  let s := s.quietGrant (s.keySlice e.key) e.tag
  let s := (s.answerLane f (some e.ab)).refresh f.wg 5
  s.modWarp f.warp fun w =>
    let x := w.lane f.lane
    w.setLane f.lane { x with held := x.held ++ [{ dom := dom, key := e.key, s := num }] }

/-- R324: where N has changed: the waiting request whose number it is now is granted; of two, either one. -/
def State.grantNext (s : State) (tag : DomTag) (key : DWord) : State :=
  match s.keyEntry? tag key with
  | none => s
  | some e =>
    let due := s.flights.filter fun f => match f.kind with
      | .ordReq 0 t _ k n 1 => t == tag && k == key && n == e.n
      | _ => false
    if e.holder.isSome || e.poisoned then s
    else
      let r := if due.length ≤ 1 then (0, s) else s.choose due.length
      match due[r.1]? with
      | some f => match f.kind with
        | .ordReq _ _ dom _ num _ => r.2.grantKey f e dom num
        | _ => s
      | none => s
/-- R226, R229: a number is retired, by a leave, an abandonment or an ORDSKIP; a grant may follow. -/
def State.retireKey (s : State) (e : KeyEntry) (num : Word) : State :=
  (s.setKey { e.retire num with lastUse := s.nextUse }).grantNext e.tag e.key
/-- The state of a waiting request changes; one that waits for table space goes to the end of its queue. -/
def State.setReq (s : State) (f : Flight) (st : Nat) : State :=
  match f.kind with
  | .ordReq op tag dom key num _ =>
    let g := { f with kind := .ordReq op tag dom key num st }
    if st = 2 then { s with flights := (s.dropFlight f.id).flights ++ [g] } else s.setFlight g
  | _ => s

/-- R228, R229, R383, R489: a request at its entry. -/
def State.serveReq (s : State) (f : Flight) (op dom : Nat) (num : Word) (e : KeyEntry) : State :=
  let bad c := s.faultLane f (f.homeRec 12 c e.key num e.n false)
  if e.poisoned then bad 6
  else if op = 2 then
    let t := s.answerLane f (some (behindN e num))
    if behindN e num then t.refresh f.wg 5 else t
  else if !behindN e num && !e.posts num then bad 7
  else if op = 0 then
    if behindN e num then bad 1
    else if e.holder.isNone && num == e.n then s.grantKey f e dom num
    else s.setReq f 1
  else
    if behindN e num then s.answerLane f none
    else if num = e.n ∧ e.holder.isSome = true then bad 3
    else if e.posted.isNone && decide (64 < aheadBy e num) then s.setReq f 1
    else (s.answerLane f none).retireKey e num

/-- R456: a request does not overtake an earlier one of its core to the slice, nor a leave of its warp on its key. -/
def State.reqWaits (s : State) (f : Flight) (tag : DomTag) (key : DWord) : Bool :=
  (s.earlier f.id).any fun g => match g.kind with
    | .ordReq _ _ _ k _ st => st == 0 && (s.warp g.warp).core == (s.warp f.warp).core && s.keySlice k == s.keySlice key
    | .ordLeave t k _ _ => g.warp == f.warp && t == tag && k == key
    | _ => false
/-- R321: an earlier request waits for table space in the same set. -/
def State.tableQueueBefore (s : State) (f : Flight) (st : Nat) (key : DWord) : Bool :=
  (if st = 2 then s.earlier f.id else s.flights).any fun g => match g.kind with
    | .ordReq _ _ _ k _ 2 => g.id != f.id && s.sameSet k key
    | _ => false
/-- A request at its home slice: at its entry, or in the table queue while there is no room. A tile key that was never posted
has no entry and gets none (R383). -/
def State.arriveReq (s : State) (f : Flight) : State :=
  match f.kind with
  | .ordReq op tag dom key num st =>
    if st = 1 ∨ (st = 0 ∧ s.reqWaits f tag key = true) then s
    else
      if s.keyLost key then s.faultLane f (f.homeRec 12 6 key num 0 false) else
      let x := s.launch (s.warp f.warp).launch
      let found := s.keyEntry? tag key
      let resident := match found with
        | some e => e.overflow.isNone
        | none => false
      if dom = 31 ∧ x.render.isSome = true ∧ found.isNone = true then
        if op = 2 then s.answerLane f (some false) else s.faultLane f (f.homeRec 12 7 key num 0 false)
      else if !resident && s.tableQueueBefore f st key then (if st = 0 then s.setReq f 2 else s)
      else match s.keyEnter tag key (s.domBase (s.warp f.warp).launch dom) none with
        | some (e, t) => t.serveReq f op dom num e
        | none => if st = 0 then s.setReq f 2 else s
  | _ => s
/-- The requests that are served with a request: those of the other lanes of one ORDTEST at the slice, whose answers come at
once (R489), so that the lanes go on together. Log entry 55. -/
def State.together (s : State) (f : Flight) : List Flight :=
  match f.kind with
  | .ordReq 2 _ _ key _ 0 => s.flights.filter fun g => g.warp == f.warp && g.group == f.group && match g.kind with
    | .ordReq 2 _ _ k _ 0 => s.keySlice k == s.keySlice key
    | _ => false
  | _ => [f]
def execOrdRequestAtHome (f : Nat) (s : State) : Res :=
  match s.flight? f with
  | some x => .next ((s.together x).foldl State.arriveReq s)
  | none => .next s

/-- R324, R229: a waiting request whose condition holds is served: a grant, a retirement, or the fault of a number behind N. -/
def State.serveWaiter (s : State) (f : Flight) : State :=
  match f.kind with
  | .ordReq op tag dom key num 1 =>
    if s.keyLost key then s.faultLane f (f.homeRec 12 6 key num 0 false) else
    match s.keyEntry? tag key with
    | some e =>
      if op = 0 then
        if behindN e num then s.faultLane f (f.homeRec 12 1 key num e.n false)
        else if e.holder.isNone && num == e.n then s.grantKey f e dom num
        else s
      else if behindN e num then s.answerLane f none
      else if aheadBy e num ≤ 64 ∧ !(num = e.n ∧ e.holder.isSome = true) then (s.answerLane f none).retireKey e num
      else s
    | none => s
  | _ => s
def execOrdGrant (f : Nat) (s : State) : Res :=
  match s.flight? f with
  | some x => .next (s.serveWaiter x)
  | none => .next s

/-- R229, R305, R323, R329: a leave or an abandonment, once every access that it covers is performed. -/
def State.leaveKey (s : State) (f : Flight) : State :=
  match f.kind with
  | .ordLeave tag key num abandon =>
    let t := s.dropFlight f.id
    let fault (n : Word) : State := t.modWarp f.warp fun w =>
      let x := w.lane f.lane
      if x.status = .done then w else w.setLane f.lane (x.pend (f.homeRec 12 6 key num n true))
    if s.keyLost key then (if abandon then t else fault 0) else
    match s.keyEntry? tag key with
    | some e =>
      if e.poisoned && !abandon then fault e.n
      else if e.holder = some (f.warp, f.lane) ∧ e.heldS = num then
        t.retireKey { e with holder := none, ab := e.ab || abandon } num
      else t
    | none => t
  | _ => s
/-- R329: an earlier abandonment of the lane comes first. -/
def State.abandonWaits (s : State) (f : Flight) : Bool :=
  (s.earlier f.id).any fun g => g.warp == f.warp && g.lane == f.lane && match g.kind, f.kind with
    | .ordLeave _ _ _ a, .ordLeave _ _ _ b => a && b
    | _, _ => false
def execOrdLeaveAtHome (f : Nat) (s : State) : Res :=
  match s.flight? f with
  | some x => .next (if s.canPerform x && !s.abandonWaits x then s.leaveKey x else s)
  | none => .next s

/-! ## Quiet counts (R326, R327) -/

/-- A request of a domain waits at a slice, at an entry or for table space. -/
def State.waiting (s : State) (slice : Nat) (tag : DomTag) : Bool :=
  s.flights.any fun f => match f.kind with
    | .ordReq _ t _ k _ st => t == tag && st != 0 && s.keySlice k == slice
    | _ => false
def Flight.reqNum (f : Flight) : DWord × Word := match f.kind with
  | .ordReq _ _ _ k n _ => (k, n)
  | _ => (0, 0)
/-- R327: the waiters of an entry whose number is nearest ahead of N: several where they have one number. -/
def State.nearestWaiters (s : State) (e : KeyEntry) : List Flight :=
  let ws := s.flights.filter fun f => f.waitsAt e.tag e.key
  ws.filter fun f => ws.all fun g => decide (aheadBy e f.reqNum.2 ≤ aheadBy e g.reqNum.2)
/-- R327: ORDSTALL in a domain at a slice. -/
def State.stall (s : State) (slice : Nat) (tag : DomTag) : State :=
  let hit := s.keys.filterMap fun e =>
    if e.tag = tag ∧ s.keySlice e.key = slice ∧ e.holder.isNone = true ∧ (s.nearestWaiters e).isEmpty = false then
      some (s.nearestWaiters e, e.n) else none
  if hit.isEmpty then
    match s.flights.find? fun f => match f.kind with
      | .ordReq _ t _ k _ 2 => t == tag && s.keySlice k == slice
      | _ => false with
    | some f => s.faultLane f (f.homeRec 13 1 f.reqNum.1 f.reqNum.2 0 false)
    | none => s
  else hit.foldl (fun s h =>
    let r := if h.1.length ≤ 1 then (0, s) else s.choose h.1.length
    match h.1[r.1]? with
    | some f => r.2.faultLane f (f.homeRec 13 0 f.reqNum.1 f.reqNum.2 h.2 false)
    | none => r.2) s
/-- R326: one domain at the end of an interval of a slice. -/
def State.quietStep (s : State) (slice : Nat) (tag : DomTag) : State :=
  let q := (s.quiets.find? fun q => q.slice == slice && q.tag == tag).getD { slice := slice, tag := tag }
  let th := wbits s.dev.ordQuiet 0 16
  let c := if q.waitingAtStart && s.waiting slice tag && !q.granted then q.count + 1 else q.count
  let hit := decide (th ≠ 0 ∧ th ≤ c)
  let t := if hit then s.stall slice tag else s
  let q := { q with count := if hit then 0 else c, waitingAtStart := t.waiting slice tag, granted := false }
  let rest := t.quiets.filter fun x => !(x.slice == slice && x.tag == tag)
  { t with quiets := if q.count = 0 ∧ q.waitingAtStart = false then rest else rest ++ [q] }
/-- R229, R324: the waiters of a slice whose condition holds are served, before the slice looks for stalled ones; `fuel` bounds how
many. -/
def State.serveSlice (s : State) (slice : Nat) : Nat → State
  | 0 => s
  | fuel + 1 =>
    let hit := s.flights.find? fun f => match f.kind with
      | .ordReq _ _ _ k _ st => st == 1 && s.keySlice k == slice && s.serveWaiter f != s
      | _ => false
    match hit with
    | some f => (s.serveWaiter f).serveSlice slice fuel
    | none => s
def execQuietIntervalEnd (slice : Nat) (s : State) : Res :=
  let s := s.serveSlice slice s.flights.length
  let tags := (s.quiets.filterMap fun q => if q.slice = slice then some q.tag else none)
    ++ s.flights.filterMap fun f => match f.kind with
      | .ordReq _ t _ k _ st => if st ≠ 0 ∧ s.keySlice k = slice then some t else none
      | _ => none
  .next (tags.eraseDups.foldl (fun s t => s.quietStep slice t) s)

/-! ## Postings of the render domain (R382, R383) -/

/-- The entry's list has room for a batch. -/
def State.postRoom (s : State) (tag : DomTag) (key : DWord) : Bool := match s.keyEntry? tag key with
  | some e => match e.posted with
    | some l => decide (l.length ≤ 32)
    | none => false
  | none => true
/-- R382, R383: numbers posted to a tile key; none while the key table has no room. -/
def State.postKey (s : State) (tag : DomTag) (key : DWord) (ns : List Word) : Option State :=
  (s.keyEnter tag key (ns.headD 0) (some [])).map fun r =>
    let e := r.1
    let l := e.posted.getD []
    r.2.setKey { e with posted := some (l ++ ns.map fun n => (n, false)), n := if l.isEmpty then ns.headD e.n else e.n }

/-! ## The ends of entries (R226, R317, R369) -/

/-- Entries, counters and quiet counts of tags are discarded. -/
def State.dropTags (s : State) (p : DomTag → Bool) : State :=
  { s with keys := s.keys.filter fun e => !p e.tag
           seqNext := s.seqNext.filter fun e => !p e.1
           quiets := s.quiets.filter fun q => !p q.tag }

end Sys2Proof.Machine
end

