-- ==== Sys2Proof/Machine/Streams.lean ====
section
/-! DEFINITION. Class 0xB, warp forms: rings, copy commands, starting and stopping address programs (R236 to R242, R268, R301). -/

namespace Sys2Proof.Machine

/-! ## Rings (R236 to R238) -/

def State.ringFault (s : State) (n : Nat) : TrapRec := { s.record 15 with arg1 := BitVec.ofNat 32 n }
/-- R237, R238: a slot is taken as consumer or as producer; the issue set holds while there is none, or an earlier request
waits. The take is an acquire at workgroup scope (R294, R295). -/
def State.acquireSlot (s : State) (cons : Bool) (d n : Nat) : Res :=
  let s := s.markOut
  let rest := s.addFence true false false false 2
  if s.acts = false then .next rest.advance
  else
    let g := s.wg s.cur.wg
    if (g.ringCfg n).en = false then .next (rest.trapE (s.ringFault n))
    else match if s.ringTurn s.cur.wg n cons s.turn then g.ringTake n cons else none with
      | none => .next (s.holdRetry [])
      | some (i, g1) =>
        .next ((s.setWg s.cur.wg g1).modCur fun w => w.setWreg d (BitVec.ofNat 32 ((g.ringCfg n).addr i))).advance
def execQacq (d : BitVec 4) (q : BitVec 3) (s : State) : Res := s.acquireSlot true d.toNat q.toNat
def execQpacq (d : BitVec 4) (q : BitVec 3) (s : State) : Res := s.acquireSlot false d.toNat q.toNat
/-- R237, R238, R296: a slot is released or committed, after every access that the release covers. -/
def State.finishSlot (s : State) (cons : Bool) (a n : Nat) : Res :=
  if s.releaseWaits 2 then .next s
  else
    let s := s.markOut
    if s.acts = false then .next s.advance
    else
      let g := s.wg s.cur.wg
      let c := g.ringCfg n
      if c.en = false then .next (s.trapE (s.ringFault n))
      else match c.slotAt? (s.cur.wreg a).toNat with
        | some i =>
          if (g.ringOf n).slot i = (if cons then SlotState.consuming else .producing) then
            .next (s.setWg s.cur.wg (g.ringDone n i cons)).advance
          else .next (s.trapE (s.ringFault n))
        | none => .next (s.trapE (s.ringFault n))
def execQrel (a : BitVec 4) (q : BitVec 3) (s : State) : Res := s.finishSlot true a.toNat q.toNat
def execQpcommit (a : BitVec 4) (q : BitVec 3) (s : State) : Res := s.finishSlot false a.toNat q.toNat

/-! ## Copy commands (R239 to R241, R301) -/

/-- A copy descriptor, once it is read. -/
structure CopyDesc where
  gbase : Nat
  sbase : Nat
  size : Nat
  ring : Option Nat
  acq : Bool
  rel : Bool
  scope : Nat
  bar : Option Nat
  /-- extents and byte strides of the five dimensions -/
  ext : List Nat
  str : List Int
  deriving DecidableEq, Repr

def CopyDesc.total (c : CopyDesc) : Nat := c.size * c.ext.foldl (· * ·) 1
/-- R239: sixteen words; none when a limit is broken. -/
def CopyDesc.ofWords (ws : List Nat) : Option CopyDesc :=
  let d i := ws.getD i 0
  let elem := bits (d 3) 0 3
  let ndim := bits (d 3) 3 3
  let ext := [bits (d 4) 0 16, bits (d 4) 16 16, bits (d 5) 0 16, bits (d 5) 16 16, bits (d 6) 0 16]
  let str : List Int := [(2 ^ elem : Nat), sextN 32 (d 7), sextN 32 (d 8), sextN 32 (d 9), sextN 32 (d 10)]
  let c : CopyDesc := {
    gbase := d 0 + 2 ^ 32 * d 1, sbase := d 2, size := 2 ^ elem
    ring := if bitAt (d 3) 6 then some (bits (d 3) 7 3) else none
    acq := bitAt (d 3) 10, rel := bitAt (d 3) 11, scope := bits (d 3) 12 3
    bar := if bitAt (d 3) 15 then some (bits (d 3) 16 4) else none
    ext := ext, str := str }
  let unused := (List.range 5).all fun i => decide (i ≤ ndim) || (ext.getD i 0 == 1 && str.getD i 0 == 0)
  if decide (elem ≤ 4 ∧ ndim ≤ 4 ∧ c.scope ≠ 7 ∧ d 3 < 2 ^ 22 ∧ d 6 < 2 ^ 16 ∧ c.gbase % c.size = 0)
      && (List.range 5).all (fun i => d (11 + i) == 0) && unused && ext.all (· != 0) && decide (c.total ≤ 2 ^ 20)
      && (bitAt (d 3) 6 || d 2 % 16 == 0) then some c else none
/-- R240: the lowest and the highest global byte. -/
def CopyDesc.span (c : CopyDesc) : Int × Int :=
  let far i : Int := ((c.ext.getD i 1 : Nat) - 1 : Int) * c.str.getD i 0
  let g : Int := c.gbase
  ((List.range 5).foldl (fun a i => a + min 0 (far i)) g,
    (List.range 5).foldl (fun a i => a + max 0 (far i)) (g + c.size - 1))
/-- Global addresses of the elements in scratchpad order, dimension 0 fastest; from the slowest dimension down. -/
def copyAddrs : List (Nat × Int) → Int → List Int
  | [], a => [a]
  | (n, st) :: rest, a => (List.range n).flatMap fun (i : Nat) => copyAddrs rest (a + i * st)
def CopyDesc.addrs (c : CopyDesc) : List Int := copyAddrs (c.ext.zip c.str).reverse c.gbase

/-- R241: the parity of the phase in which the issuing warp would next arrive. -/
def State.nextParity (s : State) (b : Nat) : Nat :=
  let x := s.bar (.wg s.cur.wg b)
  (if s.cur.hasArrived (.wg s.cur.wg b) x.phase then x.phase + 1 else x.phase).toNat % 2
/-- The elements of a command: their global places and their offsets from the start; a misaligned one goes byte by byte
(R239, R286). -/
def State.copyElems (s : State) (asid : Nat) (c : CopyDesc) : List (List Place × Nat) :=
  c.addrs.zipIdx.flatMap fun e =>
    let ps := s.placesAt asid e.1.toNat c.size
    if e.1 % (c.size : Int) = 0 then [(ps, e.2 * c.size)] else ps.zipIdx.map fun p => ([p.1], e.2 * c.size + p.2)
/-- R240, R268: the command queue of the issuing core's engine is full. A command that waits for a ring slot holds back no other. -/
def State.copyFull (s : State) : Bool :=
  match s.flights.countP (fun f => f.warp != 0 && (s.wg f.wg).core == s.cur.core && match f.kind with
    | .copy c => c.start?.isSome
    | _ => false) with
  | 0 => false
  | n + 1 => decide (Config.copyQueue ≤ n)
/-- R295, R301: the ordering point of a command that moves nothing. -/
def State.copyPoint (s : State) (c : Option CopyDesc) : State := match c with
  | some c => if c.acq || c.rel then s.addFence c.acq c.rel false false c.scope else s
  | none => s
/-- R240: a command is validated and accepted whole, or its fault is taken by every lane of E; it holds while the queue is
full. -/
def State.copyCommand (s : State) (store : Bool) (d : Nat) : Res :=
  let s := s.markOut
  let desc := CopyDesc.ofWords ((List.range 16).map fun i => (s.wsrc (16 * d + i)).toNat)
  let rest := s.copyPoint desc
  if s.acts = false then .next rest.advance
  else match desc with
    | none => .next (s.trapE (s.descFault 0))
    | some c =>
      let x := s.curLaunch
      let g := s.wg s.cur.wg
      let k := if store then Acc.w else .r
      let lo := c.span.1
      let n := (c.span.2 - lo + 1).toNat
      if lo < 0 ∨ x.grantsSpan k lo.toNat n = false ∨ s.inSaveSpan x.asid lo.toNat n = true then
        .next (rest.effectMem { ends := fun _ => .trap (s.leaseFault k (BitVec.ofInt 64 lo)) })
      else
        let pad : Option TrapRec := match c.ring with
          | some q =>
            if (g.ringCfg q).en = false then some (s.ringFault q)
            else if (g.ringCfg q).size < c.total then some (s.addrFault 1 0) else none
          | none => if g.window < c.sbase + c.total then some (s.addrFault 1 (BitVec.ofNat 64 c.sbase)) else none
        match pad with
        | some r => .next (rest.trapE r)
        | none =>
          if s.copyFull then .next (s.holdRetry ((List.range 16).map (16 * d + ·)))
          else
            let page := s.orderAt x.asid lo.toNat n
            let cmd : CopyCmd := {
              store := store, wg := s.cur.wg, ring := c.ring, slot := none, sbase := c.sbase, elems := s.copyElems x.asid c
              total := c.total, acq := c.acq, rel := c.rel, scope := c.scope, bar := c.bar.map fun b => (b, s.nextParity b)
              strong := page == .strong }
            let f := s.flight ((lanesOf s.issue.set).headD 0) 0 s.nextId (.copy cmd)
            .next (s.addFlight { f with
              who := s.issue.set, windows := [], page := page, acq := c.acq, rel := c.acq, scope := c.scope
              counted := true, ea := BitVec.ofInt 64 lo }).advance
def execTcopy (d : BitVec 4) (s : State) : Res := s.copyCommand false d.toNat
def execTstore (d : BitVec 4) (s : State) : Res := s.copyCommand true d.toNat

/-- R238, R241, R268: a command of a resident workgroup takes its slot when there is one, in the order of the requests. One that waits
while its ring is disabled waits on, and moves its whole total from the slot that it takes in the end, even past the end of a smaller
one: R267 speaks of commands that hold a slot (DESIGN CHOICE, log entry 79). -/
def State.copySlot (s : State) (f : Flight) : State :=
  match f.kind with
  | .copy c =>
    match c.ring, c.slot with
    | some q, none =>
      let g := s.wg c.wg
      if g.resident && (g.ringCfg q).en && s.ringTurn c.wg q c.store f.id then
        match g.ringTake q c.store with
        | some (i, g1) => (s.setWg c.wg g1).setFlight { f with kind := .copy { c with slot := some (i, (g.ringCfg q).addr i) } }
        | none => s
      else s
    | _, _ => s
  | _ => s
def execCopySlotAcquire (f : Nat) (s : State) : Res :=
  match s.flight? f with
  | some x => .next (s.copySlot x)
  | none => .next s

/-- Bytes with their poison moved to places on behalf of a workgroup: marked ones and plain ones. -/
def State.moveBytes (s : State) (wg asid : Nat) (dst : List Place) (bytes : List (Byte × Bool)) : State :=
  let cells := dst.zip bytes
  let part b := (cells.filter fun e => e.2.2 == b).map fun e => (e.1, e.2.1)
  let s := if (part false).isEmpty then s else s.writeHome wg asid (part false) false
  if (part true).isEmpty then s else s.writeHome wg asid (part true) true
/-- A marked place that a write reaches. -/
def State.marked (s : State) (p : Place) : Bool :=
  s.placePoisoned p && match p with
  | .mem a _ => s.paLands a
  | .sp _ _ => true
  | .gone => false
/-- R459, R478: the elements of one command that together cover a granule, or an expander's line, write it whole: its mark
is cleared when the last of them lands. The places that wait for that are the second part. -/
def State.wholeByParts (s : State) (fresh dst : List Place) (bytes : List (Byte × Bool)) : State × List Place :=
  let plain := ((dst.zip bytes).filter fun e => !e.2.2).map Prod.fst
  let kept := fresh.filter fun p => !dst.contains p
  let now := (plain.filter s.marked).eraseDups
  if now.isEmpty then (s, kept)
  else
    let near p := now.any (sameLine p)
    let t := s.clearMarks (now ++ kept.filter near)
    (t, (now ++ kept).filter fun p => !near p || t.marked p)
/-- R241: landed bytes of a command count on its barrier. -/
def State.countBytes (s : State) (c : CopyCmd) (n : Nat) : State :=
  match c.bar with
  | some (b, p) =>
    let ref := BarRef.wg c.wg b
    (s.setBar ref ((s.bar ref).addCount (BitVec.ofNat 32 p) (0 - BitVec.ofNat 32 n))).checkBarrier ref
  | none => s
/-- R301: what follows all of a command's writes: its slot is committed or released, and it is acknowledged; with REL, after every
access that the release covers, and its bytes count on the barrier then, each subtraction being such a release (log entry 89). -/
def State.finishCopy (s : State) (f : Flight) (c : CopyCmd) : State :=
  if c.rel && !s.released (s.earlier f.id) f.wg f.warp f.set c.scope then s
  else
    let s := (if c.rel then s.countBytes c c.total else s).dropFlight f.id
    match c.ring, c.slot with
    | some q, some x => if c.void then s else s.modWg c.wg fun g => g.ringDone q x.1 c.store
    | _, _ => s
/-- The next element of a command: any of them (R241), or on strong pages the lowest left (R289). -/
def State.nextElem (s : State) (c : CopyCmd) : Nat × State := if c.strong then (0, s) else s.choose c.elems.length
/-- R241: one element of a command is moved, and its bytes count. A sector that arrives marked is noted with the last element that reads it (R477,
R486). `bad`: its data arrives marked, from a link or as a read that timed out (R458, R466). -/
def State.landAt (s : State) (f : Flight) (c : CopyCmd) (start : Nat) (bad : Bool) (i : Nat) : State :=
  match c.elems[i]? with
  | none => s
  | some e =>
    let s := if c.acq && !c.begun then s.refresh c.wg c.scope else s
    let asid := (s.launch (s.wg c.wg).launch).asid
    let pad := padPlaces c.wg (start + e.2) e.1.length
    let src := if c.store then pad else e.1
    let dst := if c.store then e.1 else pad
    let bytes := if bad then src.map fun _ => (0, true) else src.map (s.viewByte c.wg)
    let rest := c.elems.eraseIdx i
    let s := if c.store then s else s.noteRead asid (physOf ((src.filter s.placePoisoned).filter fun p =>
      !rest.any fun e => e.1.any (sameGranule p)))
    let s := s.moveBytes c.wg asid dst bytes
    let (s, fresh) := s.wholeByParts c.fresh dst bytes
    let s := s.modCore (s.wg c.wg).core fun k => { k with landed := k.landed + BitVec.ofNat 64 e.1.length }
    -- a reconfiguration by the bytes just written may have cut the command from its slot
    let s := match s.flight? f.id with
      | some g => match g.kind with
        | .copy d => s.setFlight { g with kind := .copy { d with elems := rest, fresh := fresh, begun := true } }
        | _ => s
      | none => s
    if c.rel then s else s.countBytes c e.1.length
/-- The next element of a command is moved; after the last, the command ends. -/
def State.landElement (s : State) (f : Flight) (c : CopyCmd) (start : Nat) (bad : Bool) : State :=
  if c.elems.isEmpty then s.finishCopy f c else (s.nextElem c).2.landAt f c start bad (s.nextElem c).1
/-- R466: an element of a copy to global memory whose write was not performed, and counts as acknowledged. -/
def State.dropAt (s : State) (f : Flight) (c : CopyCmd) (i : Nat) : State :=
  let n := (c.elems[i]?.map fun e => e.1.length).getD 0
  let t := s.modCore (s.wg c.wg).core fun k => { k with landed := k.landed + BitVec.ofNat 64 n }
  let t := t.setFlight { f with kind := .copy { c with elems := c.elems.eraseIdx i, begun := true } }
  if c.rel then t else t.countBytes c n
/-- R289: the strong accesses of an address program come one at a time, in its order. One that reads comes before its later accesses to
consistent pages, one that writes after the earlier ones. -/
def State.programWaits (s : State) (f : Flight) (c : CopyCmd) : Bool :=
  c.flint.isSome && (s.earlier f.id).any fun g => g.program == f.program && match g.kind with
    | .copy d => (g.page == .strong && (f.page == .strong || (!d.store && f.page == .consistent))) ||
        (g.page == .consistent && f.page == .strong && c.store)
    | _ => false
def execCopyBytesLand (f : Nat) (s : State) : Res :=
  match s.flight? f with
  | some x => match x.kind with
    | .copy c => match c.start? with
      | some a => .next (if s.canPerform x && !s.programWaits x c then s.landElement x c a false else s)
      | none => .next s
    | _ => .next s
  | none => .next s

/-! ## Address programs, from the warp's side (R242) -/

def State.flintSlot (s : State) (core p : Nat) : FlintSlot := mapGet (s.core core).flint p {}
def State.setFlint (s : State) (core p : Nat) (x : FlintSlot) : State :=
  s.modCore core fun c => { c with flint := mapSet c.flint p x }
def FlintSlot.live (x : FlintSlot) : Bool := x.status == .running || x.status == .waiting
/-- R242, R411: the fault of an APSTART. -/
def State.apFault (s : State) (cause p : Nat) (pc addr : DWord) : TrapRec :=
  { s.record 16 with cause := cause, widx := 0, addr := pc, arg1 := BitVec.ofNat 32 p, arg2 := addr.setWidth 32 }
/-- R242. A slot of a ring that a stopped or faulted program held is forgotten when its program slot is started again: the spec is silent
there (DESIGN CHOICE, log entry 80). The program's accesses follow as after an acquire at device scope (R294, R302). -/
def execApstart (p : BitVec 2) (a : BitVec 4) (s : State) : Res :=
  if s.releaseWaits 5 then .next s
  else
    let s := s.markOut
    if s.acts = false then .next s.advance
    else
      let old := s.flintSlot s.cur.core p.toNat
      let code := s.cur.wpair (2 * a.toNat)
      if old.live then .next (s.trapE (s.apFault 5 p.toNat old.pc 0))
      else if code.toNat % 4 ≠ 0 then .next (s.trapE (s.apFault 1 p.toNat code code))
      else
        .next ((s.refresh s.cur.wg 5).setFlint s.cur.core p.toNat {
          owner := s.cur.wg, status := .running, pc := code, x := mapSet [] 0 (s.cur.wpair (2 * a.toNat + 2)) }).advance
def execApstop (p : BitVec 2) (s : State) : Res :=
  let s := s.markOut
  if s.acts = false then .next s.advance
  else
    let x := s.flintSlot s.cur.core p.toNat
    .next (if x.live then s.setFlint s.cur.core p.toNat { x with status := .stopped, waitsOn := none } else s).advance

end Sys2Proof.Machine
end

