-- ==== Sys2Proof/Machine/Flint.lean ====
section
/-! DEFINITION. Class 0xB, Flint forms: the instructions of address programs and their faults (R243, R269 to R271, R431). -/

namespace Sys2Proof.Machine

/-- The core and the slot of the program whose instruction is executed. -/
def State.flintAt (s : State) : Nat × Nat := s.issue.flint.getD (0, 0)
def State.prog (s : State) : FlintSlot := s.flintSlot s.flintAt.1 s.flintAt.2
def State.setProg (s : State) (x : FlintSlot) : State := s.setFlint s.flintAt.1 s.flintAt.2 x
def FlintSlot.xr (p : FlintSlot) (i : Nat) : DWord := mapGet p.x i 0
def FlintSlot.setX (p : FlintSlot) (i : Nat) (v : DWord) : FlintSlot := { p with x := mapSet p.x i v }
def FlintSlot.step (p : FlintSlot) : FlintSlot := { p with pc := p.pc + 4 }
/-- An instruction that only changes the program's own registers. -/
def State.flintOp (s : State) (f : FlintSlot → FlintSlot) : Res := .next (s.setProg (f s.prog).step)

def execXli (d : BitVec 4) (i : BitVec 10) (s : State) : Res := s.flintOp fun p => p.setX d.toNat (i.signExtend 64)
def execXlih (d : BitVec 4) (i : BitVec 10) (s : State) : Res :=
  s.flintOp fun p => p.setX d.toNat (p.xr d.toNat * 1024 + i.setWidth 64)
def execXadd (d a : BitVec 4) (i : BitVec 10) (s : State) : Res :=
  s.flintOp fun p => p.setX d.toNat (p.xr d.toNat + p.xr a.toNat + i.signExtend 64)
def execXmad (d a : BitVec 4) (i : BitVec 10) (s : State) : Res :=
  s.flintOp fun p => p.setX d.toNat (p.xr d.toNat + p.xr a.toNat * i.signExtend 64)
/-- R243, R270: a target is counted from the XLOOP word. -/
def execXloop (k : BitVec 2) (o : BitVec 10) (s : State) : Res :=
  let p := s.prog
  let n := mapGet p.n k.toNat 0 - 1
  let p' := { p with n := mapSet p.n k.toNat n }
  .next (s.setProg (if n = 0 then p'.step else { p' with pc := p.pc + 4 * o.signExtend 64 }))
def execXloopSet (k : BitVec 2) (a : BitVec 4) (s : State) : Res :=
  s.flintOp fun p => { p with n := mapSet p.n k.toNat ((p.xr a.toNat).setWidth 32) }
/-- R243: the program stops, with the next word as its program counter. -/
def execXend (s : State) : Res := s.flintOp fun p => { p with status := .stopped }

/-! ## Faults (R431) -/

/-- The oldest warp of a workgroup that has not ended, and its lowest lane that is not DONE. -/
def State.flintReport? (s : State) (g : Nat) : Option (Nat × Nat) :=
  let ws := s.warps.filter fun e => e.2.wg == g && !e.2.allDone
  let old := ws.foldl (fun (a : Option (Nat × Warp)) e => match a with
    | some b => if e.2.age < b.2.age then some e else a
    | none => some e) none
  old.map fun e => (e.1, (lowest (fun l => (e.2.lane l).status != .done) (List.range 32)).getD 0)
/-- R270, R431: the program of a slot faults and stops; a trap is pending in its owner, or is unhandled where every warp has
ended. The record's word index is 0 (R410). -/
def State.flintFault (s : State) (core p cause : Nat) (word : Word) (addr : DWord) : State :=
  let x := s.flintSlot core p
  let r : TrapRec := { kind := 16, cause := cause, async := true, word := word, addr := x.pc, arg1 := BitVec.ofNat 32 p
                       arg2 := addr.setWidth 32 }
  let t := s.setFlint core p { x with status := .faulted, waitsOn := none }
  match s.flintReport? x.owner with
  | some (w, l) => t.modWarp w fun y => y.setLane l ((y.lane l).pend r)
  | none => t.endLaunch (s.wg x.owner).launch 3
/-- R270, R412: an address program may read the code word. -/
def State.codeGranted (s : State) (x : Launch) (pc : Nat) : Bool := x.grants .r pc 4 && !s.inSaveSpan x.asid pc 4
def State.progFault (s : State) (cause : Nat) (addr : DWord) : Res :=
  .next (s.flintFault s.flintAt.1 s.flintAt.2 cause s.issue.word addr)
def execFlintIllegalInstruction (core slot : Nat) (s : State) : Res :=
  .next (if (s.flintSlot core slot).status = .running then
    s.flintFault core slot 0 (if s.issue.flint = some (core, slot) then s.issue.word else 0) 0 else s)
/-- R270: a code word lies outside a range that grants `r`, or in a save area (R412): the launch is marked (R403). One that arrives
poisoned has cause 2 too, where the spec names none (DESIGN CHOICE, log entry 81). -/
def execFlintCodeFetchFault (core slot : Nat) (s : State) : Res :=
  let p := s.flintSlot core slot
  let i := (s.wg p.owner).launch
  let x := s.launch i
  .next (if p.status = .running then
    (if s.codeGranted x p.pc.toNat then s.vnote x.asid p.pc.toNat 4 else s.markCause i 4).flintFault core slot 2 0 p.pc else s)

/-! ## Transfers (R243, R271) -/

/-- The place of a program's request: that of its wait, or the next one. -/
def FlintSlot.turn (p : FlintSlot) (next : Nat) : Nat := match p.waitsOn with
  | some (.slot _ _ q) => q
  | _ => next
/-- The slot that the program holds of a ring, taking one first if it holds none; none while there is no slot to take, or an
earlier request waits (R238). -/
def State.progSlot (s : State) (q : Nat) (cons : Bool) : Option (HeldSlot × State) :=
  let p := s.prog
  match mapGet? (if cons then p.cons else p.prod) q with
  | some h => some (h, s)
  | none =>
    let g := s.wg p.owner
    let c := g.ringCfg q
    if c.en && s.ringTurn p.owner q cons (p.turn s.nextId) then (g.ringTake q cons).map fun r =>
      ({ slot := r.1, off := 0, addr := c.addr r.1, size := c.size }, s.setWg p.owner r.2)
    else none
def FlintSlot.hold (p : FlintSlot) (q : Nat) (cons : Bool) (h : HeldSlot) : FlintSlot :=
  if cons then { p with cons := mapSet p.cons q h } else { p with prod := mapSet p.prod q h }
/-- The program waits. -/
def FlintSlot.waits (p : FlintSlot) (w : FlintWait) : FlintSlot := { p with status := .waiting, waitsOn := some w }
/-- R271: requests of 128 bytes that the commands and transfers of a core's copy engine still have to make: no more can be outstanding. -/
def State.outstanding (s : State) (core : Nat) : Nat :=
  (s.flights.map fun f => match f.kind with
    | .copy c => if (s.wg c.wg).core = core ∧ c.start?.isSome = true then
        ((physOf (c.elems.flatMap Prod.fst)).map (· / 128)).eraseDups.length else 0
    | _ => 0).foldl (· + ·) 0
/-- R271: the tracker takes some more requests: surely where all of them fit, and where they do not, as the engine's arbitration has
it (a free choice). -/
def State.trackerRoom (s : State) (core n : Nat) : Bool × State :=
  if s.outstanding core + n ≤ 2048 then (true, s) else let r := s.choose 2; (r.1 == 0, r.2)
/-- R243, R271, R291: a transfer on its way: the accesses of an address program, 32 bytes each, under the kinds of their pages. -/
def State.transfer (s : State) (cons : Bool) (va sp n q : Nat) : State :=
  let p := s.prog
  let asid := (s.launch (s.wg p.owner).launch).asid
  let kind i := s.orderAt asid (va + 32 * i) 32
  [OrdKind.strong, .consistent, .unordered].foldl (fun t page =>
    match (List.range (n / 32)).filter fun i => kind i == page with
    | [] => t
    | is =>
      let cmd : CopyCmd := {
        store := cons, wg := p.owner, ring := none, slot := none, sbase := sp, flint := some (s.flintAt.1, s.flintAt.2, q, cons)
        elems := is.map fun i => (s.placesAt asid (va + 32 * i) 32, 32 * i)
        total := 32 * is.length, acq := false, rel := false, scope := 5, bar := none, strong := page == .strong }
      t.addFlight { id := 0, warp := 0, wg := p.owner, lane := 0, set := 0, group := s.nextId, kind := .copy cmd, page := page
                    word := s.issue.word, ea := BitVec.ofNat 64 va }) s
/-- XFETCH and XSTORE: the checks of the group count, the address and the lease, then the slot, then its end, then room in the
tracker; the transfer is on its way and the program goes on. -/
def State.progTransfer (s : State) (cons : Bool) (a g q : Nat) : Res :=
  let p := s.prog
  let va := p.xr a
  let n := 32 * g
  let owner := s.wg p.owner
  let x := s.launch owner.launch
  if g = 0 then s.progFault 0 0
  else if va.toNat % 32 ≠ 0 then s.progFault 1 va
  else if x.grants (if cons then .w else .r) va.toNat n = false ∨ s.inSaveSpan x.asid va.toNat n = true then
    (s.markCause owner.launch 4).progFault 2 va
  else match s.progSlot q cons with
    | none => .next (s.fresh.2.setProg (p.waits (.slot q cons (p.turn s.nextId))))
    | some (h, t) =>
      let lines := (va.toNat + n + 127) / 128 - va.toNat / 128
      if h.size < h.off + n then (t.setProg (p.hold q cons h)).progFault 3 va
      else if (t.trackerRoom s.flintAt.1 lines).1 = false then
        .next ((t.trackerRoom s.flintAt.1 lines).2.setProg ((p.hold q cons h).waits (.room lines)))
      else
        .next ((((t.trackerRoom s.flintAt.1 lines).2.transfer cons va.toNat (h.addr + h.off) n q)).setProg ((p.hold q cons { h with off := h.off + n }).step))
def execXfetch (a : BitVec 4) (g : BitVec 7) (q : BitVec 3) (s : State) : Res := s.progTransfer false a.toNat g.toNat q.toNat
def execXstore (a : BitVec 4) (g : BitVec 7) (q : BitVec 3) (s : State) : Res := s.progTransfer true a.toNat g.toNat q.toNat
/-- R243, R302: transfers of a program with a ring and side are on their way. -/
def State.moving (s : State) (at_ : Nat × Nat) (q : Nat) (cons : Bool) : Bool :=
  s.flights.any fun f => match f.kind with
    | .copy c => c.flint == some (at_.1, at_.2, q, cons)
    | _ => false
/-- R243, R271, R302: the held slot is committed or released, once the program's own transfers with it have been performed;
after a reconfiguration that has no effect on the ring. -/
def State.progSignal (s : State) (cons : Bool) (q : Nat) : Res :=
  let p := s.prog
  match mapGet? (if cons then p.cons else p.prod) q with
  | none => s.progFault 4 0
  | some h =>
    if s.moving s.flintAt q cons then .next (s.setProg (p.waits (.moved q cons)))
    else
      let p' := (if cons then { p with cons := mapErase p.cons q } else { p with prod := mapErase p.prod q }).step
      let t := s.setProg p'
      .next (if h.void then t else t.modWg p.owner fun g => g.ringDone q h.slot cons)
def execXsigFill (q : BitVec 3) (s : State) : Res := s.progSignal false q.toNat
def execXsigFree (q : BitVec 3) (s : State) : Res := s.progSignal true q.toNat

/-- R419: the workgroup's gang is being drained: its programs stop after their current instruction and keep their status. -/
def State.wgDrains (s : State) (g : Nat) : Bool :=
  (mapGet (s.launch (s.wg g).launch).gangs (s.wg g).gang {}).draining
/-- R271: what a WAITING program of a resident workgroup waits for is there; a slot is taken for it at once. -/
def State.flintReady (s : State) (core slot : Nat) : Option State :=
  let p := s.flintSlot core slot
  let g := s.wg p.owner
  if p.status ≠ .waiting ∨ g.resident = false ∨ s.wgDrains p.owner = true then none
  else match p.waitsOn with
    | some (.slot q cons seq) =>
      let c := g.ringCfg q
      if c.en && s.ringTurn p.owner q cons seq then (g.ringTake q cons).map fun r =>
        (s.setWg p.owner r.2).setFlint core slot
          ({ p with status := .running, waitsOn := none }.hold q cons { slot := r.1, off := 0, addr := c.addr r.1, size := c.size })
      else none
    | some (.room _) => some (s.setFlint core slot { p with status := .running, waitsOn := none })
    | some (.moved q cons) =>
      if s.moving (core, slot) q cons then none else some (s.setFlint core slot { p with status := .running, waitsOn := none })
    | none => none
def execFlintRequestResume (core slot : Nat) (s : State) : Res := .next ((s.flintReady core slot).getD s)

end Sys2Proof.Machine
end

