-- ==== Sys2Proof/Machine/Frame.lean ====
section
/-! DEFINITION. The warp record, which is also the trap frame: its writing and its reading (R410, R412, R426, R427). -/

namespace Sys2Proof.Machine

def LaneStatus.code : LaneStatus → Nat
  | .run => 0
  | .join => 1
  | .hold => 2
  | .done => 3
/-- R426: the control word of a lane. -/
def Lane.control (x : Lane) : Nat :=
  x.status.code + 4 * (x.joinTarget % 8) + bNat x.helper 32 + bNat x.handler 64 + bNat x.parked 128 + bNat x.trap.isSome 256
    + bNat x.region.inside 512
/-- The sixteen words of a lane's record; zeros without one (R410). -/
def Lane.recordWords (x : Lane) : List Word := (List.range 16).map fun i => x.record.getD i 0
def wordsBytes (ws : List Word) : List Byte := ws.flatMap fun w => toBytes 4 w.toNat
def dwordBytes (w : DWord) : List Byte := toBytes 8 w.toNat

/-- Bytes written into the record of a warp, at an offset. -/
def State.framePut (s : State) (w off : Nat) (bs : List Byte) : State :=
  s.vputs (s.asidOf w) ((s.frameVa w).toNat + off) bs
def State.frameGet (s : State) (w off n : Nat) : Nat := s.vget (s.asidOf w) ((s.frameVa w).toNat + off) n
def laneList {α : Type} (f : Nat → α) : List α := (List.range 32).map f

/-! ## Parts of the record -/

/-- The lane program counters, from `x`, and control words, from `y` (R412). -/
def State.putLanes (s : State) (w : Nat) (x y : Warp) : State :=
  (s.framePut w 0 (wordsBytes (laneList fun l => BitVec.ofNat 32 (x.lane l).pc))).framePut w 0x80
    (wordsBytes (laneList fun l => BitVec.ofNat 32 (y.lane l).control))
def State.putJoins (s : State) (w : Nat) (x : Warp) : State :=
  s.framePut w 0x100 (wordsBytes ((List.range 8).map x.join))
def State.putMasks (s : State) (w : Nat) (x : Warp) : State :=
  (s.putJoins w x).framePut w 0x120 (wordsBytes ((List.range 8).map x.mask))
def State.putRecord (s : State) (w l : Nat) (x : Lane) : State := s.framePut w (0x2000 + 64 * l) (wordsBytes x.recordWords)
def State.putRecords (s : State) (w : Nat) (x : Warp) : State :=
  s.framePut w 0x2000 (wordsBytes ((List.range 32).flatMap fun l => (x.lane l).recordWords))
/-- The entry part of the frame (R412): lane program counters and rejoin masks as they stand before the entry (`x`), the
control words (R450) and the records as the entry leaves them (`y`): whole for the lanes `p`, word 0 for the others (R410). -/
def State.putEntry (s : State) (w : Nat) (x y : Warp) (p : Nat → Bool) : State :=
  (List.range 32).foldl (fun s l =>
    if p l then s.putRecord w l (y.lane l) else s.framePut w (0x2000 + 64 * l) (wordsBytes [0])) ((s.putLanes w x y).putJoins w x)
def State.putUniform (s : State) (w : Nat) (x : Warp) : State :=
  (s.framePut w 0x400 (wordsBytes ((List.range 256).map x.wreg))).framePut w 0x148 (wordsBytes [x.wc])
def State.putMode (s : State) (w : Nat) (x : Warp) : State :=
  (s.framePut w 0x140 (wordsBytes [x.mode, x.mfmt])).framePut w 0x200 ((laneList fun l => dwordBytes (x.lane l).gen).flatten)

def VReg.code : VReg → Nat
  | .v => 0
  | .u _ => 1
  | .a .. => 2
  | .g _ => 3
/-- R256: the compact words; that of a register tagged G is the number of its row. Those that the table calls ignored are written zero
(DESIGN CHOICE, log entry 88). -/
def VReg.compact (r : VReg) (row : Nat) : List Word :=
  match r with
  | .v => [0, 0]
  | .u x => [x, 0]
  | .a b st => [b, st]
  | .g _ => [BitVec.ofNat 32 row, 0]
/-- A free number, named by another. -/
def freeNat (k : Nat) : Nat := ofBytes ((List.range 4).map fun i => Config.freeByte (4 * k + i))
/-- R253, R256: row numbers for registers that have none yet, among the rows that are left: any of them (log entry 10). -/
def rowNumbers (k : Nat) : List Nat → List Nat → AMap Nat
  | _, [] => []
  | left, r :: rs => let i := freeNat (128 * k + r) % left.length; (r, left.getD i 0) :: rowNumbers k (left.eraseIdx i) rs
/-- R253: granules of row storage. -/
def State.rowGranules (s : State) (core : Nat) : Nat :=
  s.wgs.foldl (fun a e => if e.2.core = core ∧ e.2.resident = true then max a (wbits e.2.part 0 9) else a) 16
/-- The row numbers of a warp's registers tagged G. -/
def Warp.rowsShown (x : Warp) : AMap Nat := x.rowNums.filter fun e => (x.vreg e.1).isG
/-- R253, R256: each register tagged G has a row of its scheduler's to itself; those that no record has shown yet get a number. -/
def State.numberRows (s : State) (w : Nat) : State :=
  let x := s.warp w
  let taken := s.warps.flatMap fun e =>
    if e.1 ≠ w ∧ e.2.core = x.core ∧ e.2.slot % 4 = x.slot % 4 ∧ e.2.resident = true ∧ e.2.evicted = false then e.2.rowsShown.map Prod.snd else []
  let kept := x.rowsShown.filter fun e => !taken.contains e.2
  let left := (List.range (8 * s.rowGranules x.core)).filter fun n => !taken.contains n && !kept.any fun e => e.2 == n
  let new := (List.range 128).filter fun r => (x.vreg r).isG && (mapGet? kept r).isNone
  { s.setWarp w { x with rowNums := (rowNumbers s.tick left new).foldl (fun m e => mapSet m e.1 e.2) kept } with tick := s.tick + 1 }
/-- The tags of 128 registers, two bits each. -/
def tagBytes (regs : Nat → VReg) : List Byte :=
  (List.range 32).map fun i => BitVec.ofNat 8 ((List.range 4).foldl (fun a j => a + (regs (4 * i + j)).code * 4 ^ j) 0)
/-- R412, R426: tags, compact words and images; registers from `nv` upwards as V. -/
def State.putVector (s : State) (w : Nat) (x : Warp) (nv : Nat) : State :=
  let r i := if i < nv then x.vreg i else VReg.v
  let s := (s.numberRows w).framePut w 0x160 (tagBytes r)
  let s := s.framePut w 0x800 (wordsBytes ((List.range 128).flatMap fun i => (r i).compact (mapGet (s.warp w).rowNums i 0)))
  s.framePut w 0x4000 (wordsBytes ((List.range 128).flatMap fun i => laneList (r i).lane))

/-! ## Reading the register groups back -/

/-- A register of the record, by its tag: U and A from the image (R412) or from the compact words (R428). -/
def State.getVreg (s : State) (w i : Nat) (compact : Bool) : VReg :=
  let word off := BitVec.ofNat 32 (s.frameGet w off 4)
  let img l := word (0x4000 + 128 * i + 4 * l)
  match bits (s.frameGet w (0x160 + i / 4) 1) (2 * (i % 4)) 2 with
  | 0 => .v
  | 1 => .u (if compact then word (0x800 + 8 * i) else img 0)
  | 2 => if compact then .a (word (0x800 + 8 * i)) (word (0x804 + 8 * i)) else .a (img 0) (img 1 - img 0)
  | _ => .g (laneList img)
def State.getVector (s : State) (w : Nat) (x : Warp) (compact : Bool) : Warp :=
  { x with vregs := ((List.range 128).map fun i => (i, s.getVreg w i compact)).filter fun e => e.2 != .v }
def State.getUniform (s : State) (w : Nat) (x : Warp) : Warp :=
  { x with wregs := (List.range 256).map fun i => (i, BitVec.ofNat 32 (s.frameGet w (0x400 + 4 * i) 4))
           wc := BitVec.ofNat 32 (s.frameGet w 0x148 4) &&& 3 }
def State.getMasks (s : State) (w : Nat) (x : Warp) : Warp :=
  { x with joins := (List.range 8).map fun i => (i, BitVec.ofNat 32 (s.frameGet w (0x100 + 4 * i) 4))
           masks := (List.range 8).map fun i => (i, BitVec.ofNat 32 (s.frameGet w (0x120 + 4 * i) 4)) }
def State.getMode (s : State) (w : Nat) (x : Warp) : Warp :=
  { x.mapLanes (fun l y => { y with gen := BitVec.ofNat 64 (s.frameGet w (0x200 + 8 * l) 8) }) with
    mode := modeStored (BitVec.ofNat 32 (s.frameGet w 0x140 4))
    mfmt := BitVec.ofNat 32 (s.frameGet w 0x144 4) &&& 0x3FF }
/-- R246: the groups of FRSAVE and FRLOAD: bit 0 vector, 1 uniform and WC, 2 masks, 3 MODE, MFMT and generators. -/
def State.putGroups (s : State) (w : Nat) (groups : BitVec 4) : State :=
  let x := s.warp w
  let s := if groups.getLsbD 0 then s.putVector w x 128 else s
  let s := if groups.getLsbD 1 then s.putUniform w x else s
  let s := if groups.getLsbD 2 then s.putMasks w x else s
  if groups.getLsbD 3 then s.putMode w x else s
/-- R459, R460: the items of some groups, by the numbers of `Warp.bad`, whose bytes of the record arrive poisoned. -/
def State.hurtItems (s : State) (w : Nat) (groups : BitVec 4) (compact : Bool) : List Nat :=
  let at_ (off n size : Nat) : List Nat := s.hurtPieces (s.asidOf w) ((s.frameVa w).toNat + off) n size
  let vec :=
    let tags := at_ 0x160 32 1
    let words := at_ 0x800 0x400 8
    let images := at_ 0x4000 0x4000 128
    (List.range 128).filter fun r => tags.contains (r / 4) || match s.getVreg w r compact with
      | .v => false
      | .g _ => images.contains r
      | _ => if compact then words.contains r else images.contains r
  let rest (ps : List Nat) : List Nat := if ps.isEmpty then [] else [400]
  if s.spanClean (s.asidOf w) (s.frameVa w).toNat 0x8000 then []
  else (if groups.getLsbD 0 then vec else []) ++
    (if groups.getLsbD 1 then (at_ 0x400 0x400 4).map (128 + ·) ++ rest (at_ 0x148 4 4) else []) ++
    (if groups.getLsbD 2 then (at_ 0x120 32 4).map (384 + ·) ++ (at_ 0x100 32 4).map (392 + ·) else []) ++
    (if groups.getLsbD 3 then rest (at_ 0x140 8 8 ++ at_ 0x200 256 256) else [])
/-- The items of some groups. -/
def groupItem (groups : BitVec 4) (b : Nat) : Bool :=
  groups.getLsbD (if b < 128 then 0 else if b < 384 then 1 else if b < 400 then 2 else 3)
def State.getGroups (s : State) (w : Nat) (groups : BitVec 4) (compact : Bool) : Warp :=
  let x := s.warp w
  let x := { x with bad := (s.hurtItems w groups compact).foldl markSet (x.bad.filter fun b => !groupItem groups b) }
  let x := if groups.getLsbD 0 then s.getVector w x compact else x
  let x := if groups.getLsbD 1 then s.getUniform w x else x
  let x := if groups.getLsbD 2 then s.getMasks w x else x
  if groups.getLsbD 3 then s.getMode w x else x
/-- What the reading of some groups of the record does beside returning them (R469, R476). -/
def State.noteGroups (s : State) (w : Nat) (groups : BitVec 4) : State :=
  let t := if groups &&& 0xE = 0 then s else s.vnote (s.asidOf w) (s.frameVa w).toNat 0x800
  if groups.getLsbD 0 then t.vnote (t.asidOf w) ((t.frameVa w).toNat + 0x160) 0x7EA0 else t

/-- R58: a long-latency instruction of a warp has not completed: an access of classes 0x6 to 0x9 is on its way (a copy command
is complete once it is accepted, R57), or LAUNCH's copy. -/
def State.latencyPending (s : State) (w : Nat) : Bool :=
  s.flights.any fun f => f.warp == w && (!f.windows.isEmpty || match f.kind with
    | .launchCopy .. => true
    | _ => false)

/-- R427: accesses of a warp to its own record that are still on their way. -/
def State.frameBusy (s : State) (w : Nat) : Bool :=
  let a := (s.frameVa w).toNat
  s.flights.any fun f => f.warp == w && decide (a ≤ f.ea.toNat ∧ f.ea.toNat < a + 0x8000)

/-! ## Requests for rows that wait (R260) -/

/-- The requests of the lane groups of a warp: the number each waits under, and its rows. -/
def Warp.grows (x : Warp) : List (Nat × Nat) :=
  ((List.range 32).filterMap fun l => match (x.lane l).wait with
    | .grow q n _ => if (x.lane l).status = .hold then some (q, n) else none
    | _ => none).eraseDups
/-- The first of them. -/
def Warp.grow? (x : Warp) : Option (Nat × Nat) := x.grows.foldl (fun a e => match a with
  | some b => if e.1 < b.1 then some e else a
  | none => some e) none

/-! ## The store buffer (R306, R417) -/

/-- A store of a lane that has not been performed at any stage: it may still be in the core's store buffer. -/
def Flight.buffered (f : Flight) : Bool :=
  wbits f.word 27 4 == 6 && f.coreAt.isNone && match f.kind with
    | .store [_] [] => true
    | _ => false
/-- The stores of a warp that can be saved as entries, in issue order (log entry 23). -/
def State.storeBuffer (s : State) (w : Nat) : List Flight := s.flights.filter fun f => f.warp == w && f.buffered
/-- R426: an entry of the store buffer. -/
def Flight.entry (f : Flight) : List Byte :=
  let bs := match f.kind with
    | .store [ps] _ => ps.map Prod.snd
    | _ => []
  let pad := f.places.any Place.isPad
  let ord := bNat f.acq 1 + bNat f.rel 2
  toBytes 8 f.ea.toNat ++ bs ++ toBytes (16 - bs.length) 0 ++ toBytes 1 f.lane ++
    toBytes 1 (Nat.log2 bs.length + 8 * ord + 32 * f.scope) ++ toBytes 1 (bNat pad 1) ++ toBytes 5 0
/-- R306, R428: entry `e` of a warp's record issues again from the core. -/
def State.reissue (s : State) (w e : Nat) : State :=
  let x := s.warp w
  let at_ := 0x1800 + 32 * e
  let get o n := s.frameGet w (at_ + o) n
  let ctl := get 25 1
  let n := 2 ^ bits ctl 0 3
  let va := get 0 8
  let pad := bitAt (get 26 1) 0
  let asid := s.asidOf w
  let ps := if pad then padPlaces x.wg va n else s.placesAt asid va n
  let lane := get 24 1 % 32
  let f : Flight := { id := 0, warp := w, wg := x.wg, lane := lane, set := allLanes, who := maskOf (· == lane), group := s.nextId,
                      kind := .store [ps.zip (toBytes n (get 8 n))] [], word := 0x30000000, counted := true }
  s.addFlight (f.ordered (if pad then .consistent else s.orderAt asid va n) (bits ctl 3 2) (bits ctl 5 3) false true (BitVec.ofNat 64 va))

/-! ## The whole record (R426, R427) -/

/-- The parts of the record that are no part of the frame: the budget, the warp's modes, `TBA`, the regions, the sections held
and the saved entries of the store buffer. -/
def State.putContext (s : State) (w : Nat) (full : Bool) : State :=
  let x := s.warp w
  let grow := match x.grow? with
    | some e => 256 * e.2 + 2 ^ 21
    | none => 0
  let buf := s.storeBuffer w
  let s := s.framePut w 0x14C (wordsBytes [BitVec.ofNat 32 (x.budget + grow),
    BitVec.ofNat 32 (bNat x.handlerMode 1 + bNat full 2 + bNat x.halted 4), BitVec.ofNat 32 buf.length])
  let s := s.framePut w 0x158 (dwordBytes x.tba)
  let s := s.framePut w 0x300 ((laneList fun l =>
    let r := (x.lane l).region
    wordsBytes [BitVec.ofNat 32 r.entry, BitVec.ofNat 32 (r.nv % 256 + 256 * r.ns)]).flatten)
  let s := s.framePut w 0x1000 ((laneList fun l =>
    (List.range 4).flatMap fun i => match (x.lane l).held[i]? with
      | some h => wordsBytes [BitVec.ofNat 32 (h.dom + 2 ^ 31), h.s] ++ dwordBytes h.key
      | none => toBytes 16 0).flatten)
  let es := (buf.take 64).flatMap Flight.entry
  s.framePut w 0x1800 (es ++ toBytes (2048 - es.length) 0)
/-- The whole record; `full` is the full form, otherwise registers up to `nv` and `ns` are kept. -/
def State.putWhole (s : State) (w : Nat) (full : Bool) (nv ns : Nat) : State :=
  let x := s.warp w
  let s := s.framePut w 0 ((List.range 0x8000).map fun _ => 0)
  let s := (s.putLanes w x x).putMasks w x
  let s := s.putMode w x
  let s := s.putUniform w { x with wregs := x.wregs.filter fun e => decide (e.1 < ns) }
  ((s.putContext w full).putRecords w x).putVector w x nv
/-- R427: a warp in handler mode keeps the frame as its handler left it. -/
def State.putWarp (s : State) (w : Nat) (full : Bool) (nv ns : Nat) : State :=
  if (s.warp w).handlerMode then s.putContext w full else s.putWhole w full nv ns

/-! ## A warp from its record (R428) -/

/-- What a lane's control word says (R426). A trap that is pending stays, one that became so since the save among them (R431). -/
def Lane.ofControl (x : Lane) (c : Nat) : Lane :=
  { x with status := (match bits c 0 2 with
             | 0 => .run
             | 1 => .join
             | 2 => .hold
             | _ => .done)
           joinTarget := bits c 2 3, helper := bitAt c 5, handler := bitAt c 6, parked := bitAt c 7
           wait := .none
           region := { x.region with inside := bitAt c 9 } }
/-- The sections that the record says a lane holds. -/
def State.getHeld (s : State) (w l : Nat) : List Held :=
  (List.range 4).filterMap fun i =>
    let at_ := 0x1000 + 64 * l + 16 * i
    let d := s.frameGet w at_ 4
    if bitAt d 31 then some { dom := bits d 0 5, key := BitVec.ofNat 64 (s.frameGet w (at_ + 8) 8)
                              s := BitVec.ofNat 32 (s.frameGet w (at_ + 4) 4) } else none
/-- The parts outside the frame. -/
def State.getContext (s : State) (w : Nat) (x : Warp) : Warp :=
  { x.mapLanes (fun l y =>
      let a := 0x300 + 8 * l
      let n := s.frameGet w (a + 4) 4
      { y with held := s.getHeld w l
               region := { y.region with entry := s.frameGet w a 4, nv := bits n 0 8, ns := bits n 8 9 } }) with
    budget := s.frameGet w 0x14C 1
    halted := bitAt (s.frameGet w 0x150 1) 2
    tba := BitVec.ofNat 64 (s.frameGet w 0x158 8) }
/-- R428: a warp comes back from its record, and its entries of the store buffer issue again; the registers, the program counters
and the control words of one in handler mode are no part of the frame, and stay with the warp (R427). -/
def State.reload (s : State) (w : Nat) : State :=
  let s := s.vnote (s.asidOf w) (s.frameVa w).toNat 0x8000
  let x := s.getContext w (s.warp w)
  let s := if x.handlerMode then s.setWarp w x
    else
      let s := s.setWarp w (x.mapLanes fun l y =>
        { y.ofControl (s.frameGet w (0x80 + 4 * l) 4) with pc := bits (s.frameGet w (4 * l) 4) 0 31 })
      let y := s.getGroups w 0xF true
      s.setWarp w (if (s.hurtPieces (s.asidOf w) (s.frameVa w).toNat 0x400 32).any (fun i => decide (i < 8) || decide (24 ≤ i)) then
        { y with bad := markSet y.bad 400 } else y)
  (List.range (s.frameGet w 0x154 1 % 128)).foldl (fun s e => s.reissue w e) s

/-! ## Where a waiting lane goes when its warp is taken off its core (R418) -/

/-- A word of a launch's code segment, through its pinned pages; none where it arrives poisoned (R37, R400, R459). -/
def State.codeWord? (s : State) (x : Launch) (i : Nat) : Option Word :=
  match s.placeAt x.asid (x.desc.code.toNat + 4 * i) with
  | .mem pa via => s.fetchAt pa via
  | _ => none
/-- R418: a lane in HOLD is withdrawn, and its instruction issues again on resumption; a BARSYNC does not arrive again then (`Lane.sync`).
A lane in REGGROW.WAIT stays recorded with its rows (R262, R426). -/
def State.withdraw (s : State) (w : Nat) (x : Lane) : Lane :=
  if x.status = .hold ∧ x.parked = false then
    match x.wait with
    | .grow .. => x
    | _ => x.release (s.warp w).handlerMode
  else x

end Sys2Proof.Machine
end

