-- ==== Sys2Proof/Machine/Address.lean ====
section
/-! DEFINITION. Page tables and walks, residency requests, and the invalidation queue (R388 to R401). -/

namespace Sys2Proof.Machine

/-! ## The dispatcher's accesses (R352) -/

/-- A byte read through the tables without pinning; a failed walk or a poisoned byte is an error. -/
def State.walkByte (s : State) (asid va : Nat) : Except WalkFail Byte :=
  match s.walk asid va with
  | .error e => .error e
  | .ok l =>
    let pa := 4096 * l.ppage + va % 4096
    if !l.r then .error .permission else if s.paPoisoned pa then .error .poisoned else .ok (s.physRead pa)
/-- R352: bytes read by the dispatcher through a context's tables. -/
def State.walkBytes (s : State) (asid va n : Nat) : Except WalkFail (List Byte) :=
  (List.range n).mapM fun i => s.walkByte asid (va + i)
/-- The physical addresses of the part of a span in the page of its first byte, where it may be read. -/
def State.readPas (s : State) (asid va n : Nat) : List Nat := match s.walk asid va with
  | .ok l => if l.r then (List.range (min n (4096 - va % 4096))).map (4096 * l.ppage + va % 4096 + ·) else []
  | .error _ => []
/-- R394, R469, R476: what the dispatcher's read of a span does beside returning it. -/
def State.noteWalk (s : State) (asid va n : Nat) : State :=
  (s.tlbNote asid va n).noteRead asid ((spanPages va n).flatMap fun a => s.readPas asid a (va + n - a))
/-- The physical address of a byte to write; none where the walk fails, or grants no write. -/
def State.writePa? (s : State) (asid va i : Nat) : Option Nat :=
  match s.walk asid (va + i) with
  | .ok l => if l.w then some (4096 * l.ppage + (va + i) % 4096) else none
  | .error _ => none
/-- R352: bytes written by the dispatcher through a context's tables; nothing where a walk fails. -/
def State.walkPut (s : State) (asid va : Nat) (bs : List Byte) : State :=
  match (List.range bs.length).mapM (s.writePa? asid va) with
  | some pas =>
    let via (pa : Nat) : Nat := ((pas.zipIdx.find? fun e => e.1 == pa).map fun e => viaOf asid (va + e.2)).getD 0
    (s.tlbNote asid va bs.length).sendWrite asid (pas.zip bs) false via
  | none => s

/-! ## Residency requests (R401) -/

/-- The record of a request is written to the ring, and its tail advances. -/
def State.postRequest (s : State) (page asid reason index addr : Nat) : State :=
  let q := s.dev.rq
  let bs := toBytes 8 page ++ toBytes 2 asid ++ toBytes 1 reason ++ toBytes 1 index ++ toBytes 4 0 ++ toBytes 8 addr ++ toBytes 8 0
  let a := q.base + 32 * (q.tail.toNat % q.size)
  let s := s.sendWrite asid (bs.zipIdx.map fun e => (a + e.2, e.1)) false
  { s with dev := { s.dev with rq := { q with tail := BitVec.ofNat 32 ((q.tail.toNat + 1) % q.size) } } }

/-! ## Pins (R400, R402) -/

def State.dropPins (s : State) (owner : Nat) : State := { s with pins := s.pins.filter fun p => p.owner != owner }
/-- R398: a page of a range is pinned, in the half and the ASID that the command names. -/
def State.pinnedIn (s : State) (asid base size : Nat) : Bool :=
  s.pins.any fun p => decide (base / 4096 ≤ p.vpage ∧ p.vpage < (base + size) / 4096) && (bitAt base 55 || p.asid == asid)

/-! ## The invalidation queue (R396 to R399) -/

/-- A command's fields (R397). -/
structure IqCmd where
  base : Nat
  size : Nat
  asid : Nat
  op : Nat
  ctl : Nat
  rest : Nat
  ack : Nat
  deriving DecidableEq, Repr
def IqCmd.ofBytes (bs : List Byte) : IqCmd :=
  let f o n := Machine.ofBytes ((bs.drop o).take n)
  ⟨f 0 8, f 8 8, f 16 2, f 18 1, f 19 1, f 20 4, f 24 8⟩
def IqCmd.all (c : IqCmd) : Bool := bitAt c.size 63
/-- The range of an INVAL: its first byte and its length; with ALL, the whole half. -/
def IqCmd.range (c : IqCmd) : Nat × Nat := if c.all then (c.base / 2 ^ 55 * 2 ^ 55, 2 ^ 55) else (c.base, bits c.size 0 52)
/-- A launch that waits for the driver, by its descriptor's address and its ASID (R397). -/
def State.waitingLaunch? (s : State) (addr asid : Nat) : Option Request :=
  s.dev.requests.find? fun r => r.addr.toNat == addr && (s.launch r.launch).asid == asid
/-- R397: the command does not stop the queue. -/
def IqCmd.legal (c : IqCmd) (s : State) : Bool :=
  c.rest == 0 && c.ack % 8 == 0 &&
  match c.op with
  | 0 =>
    let r := c.range
    decide (c.base % 4096 = 0 ∧ c.ctl < 8 ∧ bits c.size 52 11 = 0 ∧ c.base < 2 ^ 56) &&
      (c.all || decide (bits c.size 0 52 ≠ 0 ∧ bits c.size 0 52 % 4096 = 0 ∧ c.base / 2 ^ 55 = (r.1 + r.2 - 1) / 2 ^ 55)) &&
      (!c.all || bits c.size 0 52 == 0)
  | 1 => c.size == 0 && c.ctl == 0 && (s.waitingLaunch? c.base c.asid).isSome
  | 2 => c.size == 0 && c.ctl == 0 && (s.waitingLaunch? c.base c.asid).isSome
  | 3 => c.base == 0 && c.size == 0 && c.asid == 0 && c.ctl == 0
  | _ => false

def State.setIq (s : State) (q : QRegs) : State := { s with dev := { s.dev with iq := q } }
/-- The command at the head of the queue, while the queue runs. -/
def State.iqHead? (s : State) : Option IqCmd :=
  let q := s.dev.iq
  if q.enabled && q.going && q.head.toNat % q.size != q.tail.toNat % q.size && s.dev.iqBusy.isNone then
    some (IqCmd.ofBytes (s.physReadN (q.base + 32 * (q.head.toNat % q.size)) 32))
  else none
/-- R344, R396: a doorbell; a tail outside the ring stops the queue. -/
def QRegs.doorbell (q : QRegs) (v : Word) : QRegs :=
  let q := { q with tail := v &&& 0xFFFF }
  if q.enabled = false then q
  else if q.size ≤ q.tail.toNat then { q with ctl := q.ctl ||| 0x40000000, going := false }
  else if q.ctl.getLsbD 30 then q else { q with going := true }
def execIqDoorbell (v : Word) (s : State) : Res := .next (s.setIq (s.dev.iq.doorbell v))
/-- R469, R476: what the reading of a command does beside returning it. -/
def State.iqRead (s : State) : State :=
  let q := s.dev.iq
  s.noteRead 0 ((List.range 32).map (q.base + 32 * (q.head.toNat % q.size) + ·))
/-- R396: a bad command stops the queue. -/
def State.iqStop (s : State) : State := s.iqRead.setIq { s.dev.iq with ctl := s.dev.iq.ctl ||| 0x40000000, going := false }
/-- A command is taken from the queue, to be acknowledged by its completion; its words are kept meanwhile. -/
def State.iqTake (s : State) (rejected : Bool) : State :=
  let q := s.dev.iq
  let ws := (List.range 8).map fun i => BitVec.ofNat 32 (s.physNat (q.base + 32 * (q.head.toNat % q.size) + 4 * i) 4)
  { s.iqRead with dev := { s.iqRead.dev with iqBusy := some (ws ++ [if rejected then 1 else 0]) } }
/-- The command at the head, when it has an operation code; the queue stops on a command that is not legal. -/
def State.iqPerform (s : State) (op : Nat) (f : IqCmd → State) : Res :=
  match s.iqHead? with
  | none => .next s
  | some c => if c.legal s = false then .next s.iqStop else if c.op = op then .next (f c) else .next s
/-- R398: an INVAL is taken; without WAITPIN, levels 0 and 1 reject a range that holds a pinned page. -/
def execInval (s : State) : Res := s.iqPerform 0 fun c =>
  let r := c.range
  s.iqTake (decide (bits c.ctl 0 2 < 2) && !bitAt c.ctl 2 && s.pinnedIn c.asid r.1 r.2)
def execSync (s : State) : Res := s.iqPerform 3 fun _ => s.iqTake false

/-- The command being performed. -/
def State.iqBusy? (s : State) : Option (IqCmd × Bool) :=
  s.dev.iqBusy.map fun ws => (IqCmd.ofBytes ((ws.take 8).flatMap fun w => toBytes 4 w.toNat), ws.getD 8 0 == 1)
/-- R398: an INVAL that waits for pins. -/
def State.iqWaits (s : State) : Bool := match s.iqBusy? with
  | some (c, false) => c.op == 0 && decide (bits c.ctl 0 2 < 2) && bitAt c.ctl 2 && s.pinnedIn c.asid c.range.1 c.range.2
  | _ => false
/-- R398: while a waiting INVAL has not been acknowledged, no residency walk walks a page of its range. -/
def State.walkBlocked (s : State) (asid vpage : Nat) : Bool := match s.iqBusy? with
  | some (c, _) => c.op == 0 && bitAt c.ctl 2 && decide (bits c.ctl 0 2 < 2) &&
      decide (c.range.1 / 4096 ≤ vpage ∧ vpage < (c.range.1 + c.range.2) / 4096) && (bitAt c.base 55 || c.asid == asid)
  | none => false
/-- The pages of an INVAL's range, with their address space. -/
def IqCmd.pages (c : IqCmd) : Nat × Nat × Nat :=
  (if bitAt c.base 55 then 65536 else c.asid, c.range.1 / 4096, (c.range.1 + c.range.2) / 4096)
/-- R398: what an INVAL removes at its level. -/
def State.iqRemove (s : State) (c : IqCmd) : State :=
  if c.op ≠ 0 then s
  else
    let r := c.pages
    match bits c.ctl 0 2 with
    | 0 => ((s.dropTlb r).dropLines r).dropCode r
    | 1 => s.dropTlb r
    | 2 => s.dropLines r
    | _ => s.dropCode r
/-- R399: an access that may use an entry or a line of an INVAL's range is on its way, or a store stands at its core. -/
def State.rangeBusy (s : State) (c : IqCmd) : Bool :=
  c.op == 0 && s.flights.any fun f => f.memory && f.places.any fun p => match p with
    | .mem _ via => inRanges [c.pages] via
    | _ => false
/-- R399: accesses that may use a removed entry or line are performed; the command is acknowledged and counted. -/
def execInvalCompletion (s : State) : Res :=
  match s.iqBusy? with
  | none => .next s
  | some (c, rejected) =>
    if s.iqWaits || (!rejected && s.rangeBusy c) then .next s
    else
      let done := s.dev.iqDone + 1
      let v := done.toNat % 2 ^ 63 + (if rejected then 2 ^ 63 else 0)
      let s := if rejected then s else s.iqRemove c
      let s := if c.ack = 0 then s else s.sendWrite 0 ((toBytes 8 v).zipIdx.map fun e => (c.ack + e.2, e.1)) false
      let q := s.dev.iq
      .next { s with dev := { s.dev with
        iqBusy := none, iqDone := BitVec.ofNat 64 (done.toNat % 2 ^ 32), iq := { q with head := BitVec.ofNat 32 ((q.head.toNat + 1) % q.size) } } }

/-! ## Control registers of the rings (R342, R396, R401, R468) -/

/-- A write of a control register: while enabled, only a write that clears EN is taken; ERR clears by a one. -/
def QRegs.writeCtl (q : QRegs) (v keep : Word) : QRegs :=
  let kept := if v.getLsbD 30 then 0 else q.ctl &&& 0x40000000
  if q.enabled then
    if v.getLsbD 31 then q else { q with ctl := (ctlStored v keep &&& 0x3FFFFFFF) ||| kept, going := false }
  else { q with ctl := (ctlStored v keep &&& 0xBFFFFFFF) ||| kept }
def execIqctlWrite (v : Word) (s : State) : Res := .next (s.setIq (s.dev.iq.writeCtl v 0x8000000F))
def execRqctlWrite (v : Word) (s : State) : Res :=
  .next { s with dev := { s.dev with rq := s.dev.rq.writeCtl v 0x8000000F } }
def execElctlWrite (v : Word) (s : State) : Res :=
  .next { s with dev := { s.dev with el := s.dev.el.writeCtl v 0x8000000F } }

end Sys2Proof.Machine
end

