-- ==== Sys2Proof/Machine/System.lean ====
section
/-! DEFINITION. Class 0xC: system registers, traps and their return, frames, regions, the register budget, queries, LAUNCH and
events (R244 to R249, R258 to R260, R366, R367, R409, R412, R413). -/

namespace Sys2Proof.Machine

def execNop (s : State) : Res := .next s.advance

/-- R384: an instruction of this class that executes once per issue. -/
def State.once (s : State) (f : State → State) : Res := .next (if s.acts then f s else s.advance)
/-- A change of the warp by such an instruction. -/
def State.onceWarp (s : State) (f : Warp → Warp) : Res := s.once fun s => (s.modCur f).advance

/-! ## System registers (R244) -/

/-- R244: the core runs at level 1 for a launch with the system flag. -/
def State.level (s : State) : Nat := if s.curLaunch.desc.ctl0.getLsbD 25 then 1 else 0
/-- What the table grants at a level: none, or whether writes are granted too. -/
def sysAccess (n level : Nat) : Option Bool :=
  match n with
  | 0x000 => some true
  | 0x001 => some true
  | 0x002 => some true
  | 0x010 => some false
  | 0x011 => some false
  | 0x012 => some false
  | 0x013 => some false
  | 0x014 => some false
  | 0x018 => some false
  | 0x019 => some false
  | 0x020 => some (level == 1)
  | 0x021 => some (level == 1)
  | 0x030 => if level = 1 then some true else none
  | 0x040 => some (level == 1)
  | 0x050 => some false
  | _ => none
/-- R348: the footprint of a gang of `g` workgroups. -/
def footprint (g : Nat) : Nat := if g ≤ 1 then 0 else if g = 2 then 1 else if g ≤ 4 then 2 else 3
/-- Cores are named by 96 times their die, plus their number in it. -/
def State.place (s : State) : Word :=
  let w := s.cur
  BitVec.ofNat 32 (w.core % 96 + 128 * (w.core / 96 % 2) + 256 * ((s.wg w.wg).gpos % 8) + 2048 * footprint s.curShape.gwg
    + 8192 * (w.slot % 64))
def State.sysRead (s : State) (n : Nat) : Word :=
  let w := s.cur
  let x := s.curLaunch
  match n with
  | 0x000 => w.mode
  | 0x001 => w.mfmt
  | 0x002 => w.wc
  | 0x010 => s.place
  | 0x011 => BitVec.ofNat 32 (s.wg w.wg).wgid
  | 0x012 => BitVec.ofNat 32 (gangIndex w.gang)
  | 0x013 => BitVec.ofNat 32 (s.curShape.gwg * s.curShape.ngang)
  | 0x014 => BitVec.ofNat 32 w.index
  | 0x018 => x.desc.seed.setWidth 32
  | 0x019 => (x.desc.seed >>> 32).setWidth 32
  | 0x020 => w.tba.setWidth 32
  | 0x021 => (w.tba >>> 32).setWidth 32
  | 0x030 => (s.core w.core).issueCtl
  | 0x040 => match x.render with
    | some r => r.threshold &&& 0xFFFF
    | none => 0
  | _ => s.dev.ordQuiet &&& 0xFFFF
/-- R64: every operand latch of a core is emptied. -/
def State.emptyLatches (s : State) (core : Nat) : State :=
  { s with warps := s.warps.map fun e => if e.2.core = core ∧ e.2.latch ≠ [] then (e.1, { e.2 with latch := [] }) else e }
/-- R62. -/
def State.writeIssueCtl (s : State) (core : Nat) (v : Word) : State :=
  let t := s.modCore core fun c => { c with issueCtl := v &&& 7 }
  if v.getLsbD 1 then t.emptyLatches core else t
def State.sysWrite (s : State) (n : Nat) (v : Word) : State :=
  match n with
  | 0x000 => s.modCur fun w => { w with mode := modeStored v }
  | 0x001 => s.modCur fun w => { w with mfmt := v &&& 0x3FF }
  | 0x002 => s.modCur fun w => { w with wc := v &&& 3 }
  | 0x020 => s.modCur fun w => { w with tba := ((w.tba >>> 32).setWidth 32 : Word) ++ v }
  | 0x021 => s.modCur fun w => { w with tba := v ++ (w.tba.setWidth 32 : Word) }
  | 0x030 => s.writeIssueCtl s.cur.core v
  | 0x040 => s.modLaunch s.cur.launch fun x => { x with render := x.render.map fun r => { r with threshold := v &&& 0xFFFF } }
  | _ => s
def State.privFault (s : State) (n : Nat) : TrapRec := { s.record 17 with arg1 := BitVec.ofNat 32 n }
def execSysrd (p : BitVec 8) (m : BitVec 14) (s : State) : Res := s.once fun s =>
  match sysAccess m.toNat s.level with
  | none => s.trapE (s.privFault m.toNat)
  | some _ => (s.modCur fun w => w.setWreg p.toNat (s.sysRead m.toNat)).advance
def execSyswr (p : BitVec 8) (m : BitVec 14) (s : State) : Res :=
  s.markOut.once fun s =>
    if sysAccess m.toNat s.level = some true then (s.sysWrite m.toNat (s.cur.wreg p.toNat)).advance
    else s.trapE (s.privFault m.toNat)

/-! ## MODE, generators, queries (R245) -/

def execModesetWrite (m : BitVec 14) (s : State) : Res := s.onceWarp fun w =>
  { w with mode := modeStored ((w.mode &&& 0xFFFFC000) ||| m.setWidth 32) }
def execModesetOr (m : BitVec 14) (s : State) : Res := s.onceWarp fun w =>
  { w with mode := modeStored (w.mode ||| m.setWidth 32) }
def execModesetAndn (m : BitVec 14) (s : State) : Res := s.onceWarp fun w =>
  { w with mode := modeStored (w.mode &&& ~~~(m.setWidth 32)) }
def execModesetTen (m : BitVec 6) (s : State) : Res := s.onceWarp fun w =>
  { w with mode := modeStored ((w.mode &&& 0xFFC0FFFF) ||| (m.setWidth 32 <<< 16)) }
def execRngseed (p : BitVec 7) (s : State) : Res :=
  let w := s.cur
  .next (s.modCur fun x => x.mapLanes fun l y => if s.inE l then { y with gen := w.vpair p.toNat l } else y).advance

def State.queryItem (s : State) (n : Nat) : Word :=
  let g := s.wg s.cur.wg
  match n with
  | 0 => BitVec.ofNat 32 s.curLaunch.profile
  | 1 => 192
  | 2 => 64
  | 3 => 192
  | 4 => 1024
  | 5 => BitVec.ofNat 32 g.window
  | 6 => BitVec.ofNat 32 g.slots
  | 7 => BitVec.ofNat 32 s.cur.budget
  | 8 => BitVec.ofNat 32 s.cur.rows
  | _ => 0xFFFFFFFF
def execQuery (p : BitVec 8) (m : BitVec 14) (s : State) : Res := s.once fun s =>
  (s.modCur fun w => w.setWreg p.toNat (s.queryItem m.toNat)).advance

/-- A counter that depends on timing has advanced, before it is read, by an amount that the model leaves free. -/
def State.timed (s : State) (old : DWord) : DWord × State :=
  let r := s.choose (2 ^ 64)
  (old + BitVec.ofNat 64 r.1, r.2)
/-- R245: a counter's value, and the state with it counted up to now. -/
def State.perfCounter (s : State) (n : Nat) : DWord × State :=
  let w := s.cur
  let c := s.core w.core
  match n with
  | 0 => let r := s.timed c.clocks; (r.1, r.2.modCore w.core fun c => { c with clocks := r.1 })
  | 1 => (w.issued, s)
  | 2 => let r := s.timed w.cuts; (r.1, r.2.modCur fun w => { w with cuts := r.1 })
  | 3 => let r := s.timed w.violations; (r.1, r.2.modCur fun w => { w with violations := r.1 })
  | 4 => let r := s.timed c.fused; (r.1, r.2.modCore w.core fun c => { c with fused := r.1 })
  | 5 => let r := s.timed c.skipped; (r.1, r.2.modCore w.core fun c => { c with skipped := r.1 })
  | 6 => (c.landed, s)
  | 7 => let r := s.timed w.refusals; (r.1, r.2.modCur fun w => { w with refusals := r.1 })
  | _ => (0, s)
def execPerfrd (p : BitVec 8) (m : BitVec 14) (s : State) : Res := s.once fun s =>
  let r := s.perfCounter m.toNat
  (r.2.modCur fun w => w.setWpair p.toNat r.1).advance

/-! ## Traps, frames and regions (R246, R247, R409, R412, R413) -/

def execTrap (m : BitVec 14) (s : State) : Res := .next (s.trapE { s.record 18 with arg1 := m.setWidth 32 })
/-- R409: outside a handler it is an illegal instruction. -/
def execTrapret (p : BitVec 2) (s : State) : Res :=
  if s.cur.handlerMode = false then .next (s.trapAll (s.record 2))
  else
    .next (s.modCur fun w => (w.mapLanes fun l x => if s.inSet l && x.handler then x.trapReturn p.toNat else x).endHandler)
/-- R412: the groups are written to the frame, after the warp's earlier accesses to it. -/
def execFrsave (p : BitVec 4) (s : State) : Res :=
  if s.cur.handlerMode = false then .next (s.trapAll (s.record 2))
  else if s.acts && s.frameBusy s.issue.warp then .next s
  else s.once fun s => (s.putGroups s.issue.warp p).advance
/-- R412, R103: rows are taken again, or the register-overflow trap is. -/
def execFrload (p : BitVec 4) (s : State) : Res :=
  if s.cur.handlerMode = false then .next (s.trapAll (s.record 2))
  else if s.acts && s.frameBusy s.issue.warp then .next s
  else s.once fun s =>
    let w := s.getGroups s.issue.warp p false
    let t := s.noteGroups s.issue.warp p
    if s.cur.budget < w.rows then t.trapAll (s.overflowRec (rowsNeeded s.cur w))
    else (t.setWarp s.issue.warp w).advance
def execTinfo (p : BitVec 7) (m : BitVec 4) (s : State) : Res :=
  if s.cur.handlerMode = false then .next (s.trapAll (s.record 2))
  else .next (s.effect { writes := [⟨p.toNat, fun l => (s.cur.lane l).recordWords.getD m.toNat 0, none⟩] })
/-- R407, R413: nothing in a handler lane. -/
def execRegion (p : BitVec 8) (m : BitVec 9) (s : State) : Res :=
  .next (s.modCur fun w => w.mapLanes fun l x =>
    if s.inE l && !x.handler then
      { x with region := { inside := true, entry := s.issue.pc, nv := p.toNat, ns := m.toNat, gen := x.gen, helper := x.helper } }
    else x).advance
/-- R246, R429: the warp halts on the BKPT once its long-latency instructions have completed, and its record is written. -/
def execBkpt (s : State) : Res :=
  if s.curLaunch.debug = false then .next s.advance
  else if s.latencyPending s.issue.warp then .next s
  else
    let w := s.issue.warp
    let t := s.modWarp w fun x => { x with halted := true, haltSet := s.issue.set, latch := [] }
    .next (t.putWhole w true 128 256)

/-! ## The register budget (R248, R258 to R260) -/

/-- R258: free rows of the scheduler of a slot. -/
def State.freeRows (s : State) (core sched : Nat) : Nat :=
  8 * s.rowGranules core - (s.warps.foldl (fun a e =>
    if e.2.core = core ∧ e.2.slot % 4 = sched ∧ e.2.resident = true ∧ e.2.evicted = false ∧ e.2.ended = false then a + e.2.budget
    else a) 0)
/-- Some warp of the scheduler waits in REGGROW.WAIT, older than `age` when it is given. -/
def State.growWaits (s : State) (core sched : Nat) (age : Option Nat) : Bool :=
  s.warps.any fun e => e.2.core == core && e.2.slot % 4 == sched && !e.2.grows.isEmpty && e.2.resident && !e.2.evicted &&
    match age with
    | some a => decide (e.2.age < a)
    | none => true
/-- R258, R260: a warp's budget can never hold `n` rows more. -/
def State.growPast (s : State) (w n : Nat) : Bool :=
  let x := s.warp w
  decide (128 < x.budget + n ∨ 8 * s.rowGranules x.core < x.budget + n)
/-- R260: a request of the issuing warp that can never be met. -/
def State.growNever (s : State) (n : Nat) : Bool := s.growPast s.issue.warp n
def execReggrowTry (m : BitVec 14) (s : State) : Res := s.markOut.once fun s =>
  let n := m.toNat
  let w := s.cur
  if s.growNever n then s.trapE (s.overflowRec n)
  else
    let ok := decide (n ≤ s.freeRows w.core (w.slot % 4)) && !s.growWaits w.core (w.slot % 4) none
    (s.modCur fun w => { w with budget := if ok then w.budget + n else w.budget, wc := setC w.wc ok }).advance
/-- R260: granted in age order, at once or by a later move. -/
def execReggrowWait (m : BitVec 14) (s : State) : Res := s.markOut.once fun s =>
  let n := m.toNat
  let w := s.cur
  if s.growNever n then s.trapE (s.overflowRec n)
  else if n ≤ s.freeRows w.core (w.slot % 4) ∧ s.growWaits w.core (w.slot % 4) (some w.age) = false ∧ w.grows = [] then
    (s.modCur fun w => { w with budget := w.budget + n }).advance
  else s.fresh.2.holdLanes (fun _ => true) (.grow s.nextId n s.issue.word)
def execRegshrink (m : BitVec 14) (s : State) : Res := s.markOut.onceWarp fun w =>
  let k := min m.toNat (w.budget - w.rows)
  { w with budget := w.budget - k, wc := setC w.wc (k == m.toNat) }
def execVfree (p m : BitVec 7) (s : State) : Res := s.onceWarp fun w =>
  { w with vregs := w.vregs.filter fun e => !decide (p.toNat ≤ e.1 ∧ e.1 ≤ p.toNat + m.toNat) }

/-! ## LAUNCH and events (R249, R366, R367) -/

/-- R366: the base and the count of a pool of the graph, read through the context's tables. -/
def State.poolOf (s : State) (x : Launch) (pool : Nat) : Nat × Nat :=
  match s.walkBytes x.asid (x.desc.graph.toNat + 16 * pool) 16 with
  | .ok bs =>
    let base := ofBytes (bs.take 8)
    -- R6: an entry with a reserved byte that is not zero, or a misaligned base, is no pool (log entry 71)
    if ofBytes (bs.drop 12) = 0 ∧ base % 128 = 0 then (base, ofBytes ((bs.drop 8).take 4)) else (0, 0)
  | .error _ => (0, 0)
/-- A graph's name: its address, in its address space; the global region is one for all (R388). -/
def graphName (asid : Nat) (graph : DWord) : Nat := graph.toNat + 2 ^ 64 * (if graph.getLsbD 55 then 65536 else asid)
/-- The name of a queue that a pool's nodes make (R367). -/
def poolQueue (graph pool : Nat) : Nat := 4096 + 16 * graph + pool
/-- R345, R367: a launch is entered last in a queue. -/
def State.enterQueue (s : State) (q i : Nat) : State := { s with dev := { s.dev with entries := mapMod s.dev.entries q [] (· ++ [i]) } }
/-- R367: a free node is claimed. -/
def State.claimNode (s : State) (graph pool count : Nat) : Option (Nat × State) :=
  (lowest (fun k => !s.dev.nodes.contains (graph, pool, k)) (List.range count)).map fun k =>
    (k, { s with dev := { s.dev with nodes := s.dev.nodes ++ [(graph, pool, k)] } })
/-- R366: the pool's entry is read. -/
def State.poolRead (s : State) (x : Launch) (pool : Nat) : State :=
  if x.desc.graph = 0 ∨ 16 ≤ pool then s else s.noteWalk x.asid (x.desc.graph.toNat + 16 * pool) 16
/-- R367, steps 1 to 4; a release at device scope. m0 is written when the copy completes; the claims of a pool's nodes make its queue. -/
def execLaunch (p : BitVec 8) (m : BitVec 14) (s : State) : Res :=
  if s.releaseWaits 5 then .next s
  else s.markOut.once fun s =>
    let x := s.curLaunch
    let pool := s.poolOf x m.toNat
    let ea := s.cur.wpair p.toNat
    let u := s.poolRead x m.toNat
    let zero := (u.modCur fun w => w.setMask 0 0).advance
    if x.desc.graph = 0 ∨ 16 ≤ m.toNat ∨ pool.2 = 0 then zero
    else if ea.toNat % 128 ≠ 0 then u.trapE (s.alignFault ea)
    else match s.checkGlobal .r 640 false ((lanesOf s.eff).headD 0) ea with
      | .bad r => u.effectMem { ends := fun _ => .trap { r with addr := ea } }
      | .ok ps page _ =>
        if x.grantsSpan .r ea.toNat 640 = false then u.effectMem { ends := fun _ => .trap (s.leaseFault .r ea) }
        else if s.readWaits s.issue.set page ps then s
        else match u.claimNode (graphName x.asid x.desc.graph) m.toNat pool.2 with
          | none => zero
          | some (k, t) =>
            let hurt := s.struck ps
            let b := s.readHit hurt ps
            let f := t.flight ((lanesOf t.issue.set).headD 0) 0 t.nextId (.launchCopy m.toNat k b.1 b.2)
            let t := t.readDone (page == .strong) ps hurt
            ((t.addFlight { f with who := t.issue.set, windows := [], ea := ea }).enterQueue
              (poolQueue (graphName x.asid x.desc.graph) m.toNat) t.nextId).advance
/-- R249: HOLD until the bit is set; then it is cleared, by an acquire at device scope (R294). -/
def execWaitev (m : BitVec 6) (s : State) : Res :=
  let s := s.markOut
  -- R295: an issue that does nothing makes its acquire all the same
  if s.acts = false then .next (s.addFence true false false false 5).advance
  else .next <|
  if (s.wg s.cur.wg).events.getLsbD m.toNat then
    ((s.refresh s.cur.wg 5).modWg s.cur.wg fun g => { g with events := g.events &&& ~~~((1 : BitVec 64) <<< m.toNat) }).advance
  else s.holdRetry []

end Sys2Proof.Machine
end

