-- ==== Sys2Proof/Machine/Traps.lean ====
section
/-! DEFINITION. The prefix word (R24), and the taking of a trap by a warp (R405 to R408, R410, R412). -/

namespace Sys2Proof.Machine

/-- R24, R26: a prefix is latched with its fields, and its base word issues next with the same issue set. -/
def execPfx (me : BitVec 1) (k rm : BitVec 3) (z : BitVec 1) (q : BitVec 7) (ws : BitVec 1) (x : BitVec 11) (s : State) : Res :=
  let w : Word := (14 : BitVec 5) ++ me ++ k ++ rm ++ z ++ q ++ ws ++ x
  .next { s with issue := { s.issue with pfx := some w, open_ := true } }

/-! ## Taking a trap -/

/-- A lane takes a trap at this entry: in handler mode only a handler lane's trap is taken, and it is unhandled. -/
def Warp.traps (w : Warp) (l : Nat) : Bool := (w.lane l).taken?.isSome && (w.handlerMode == (w.lane l).handler)
def Warp.trapDue (w : Warp) : Bool := (List.range 32).any w.traps
/-- R405 step 4: requests of trapped lanes in HOLD are withdrawn from their homes. -/
def Flight.withdrawn (f : Flight) (w : Nat) (p : Nat → Bool) : Bool :=
  match f.kind with
  | .ordReq .. => f.warp == w && p f.lane
  | _ => false
/-- R405: entry to handler mode, once the warp's results have returned (R58); the frame is written before the first handler
word. R408: with no valid entry the frame is written as at an entry (its control words as R450 shows them), with a trap in a
handler lane its record is, and the launch is to end. -/
def State.takeTrap (s : State) (w : Nat) : State :=
  let x := s.warp w
  let i := s.launch x.launch
  let fr := s.frameVa w
  let t := { s with flights := s.flights.filter fun f => !f.withdrawn w x.traps }
  if x.handlerMode then
    let y := x.mapLanes fun l z => if x.traps l then z.recordTrap fr else z
    ((List.range 32).foldl (fun s l => if x.traps l then s.putRecord w l (y.lane l) else s) (t.setWarp w y)).endLaunch x.launch 3
  else match handlerEntry x.tba i.desc.code i.desc.limit.toNat with
    | none =>
      ((t.setWarp w (x.mapLanes fun _ z => z.recordTrap fr)).putEntry w x (x.enterHandler 0 fr) x.traps).endLaunch x.launch 3
    | some e =>
      let y := x.enterHandler e fr
      (t.setWarp w y).putEntry w x y x.traps
/-- R405, R429: a halted warp takes no trap until it is resumed. -/
def State.mayTrap (s : State) (w : Nat) : Bool :=
  let x := s.warp w
  x.trapDue && !x.ended && !x.halted && x.resident && !x.evicted && !s.latencyPending w
def execTrapEntry (w : Nat) (s : State) : Res := .next (if s.mayTrap w then s.takeTrap w else s)

end Sys2Proof.Machine
end

