-- ==== Sys2Proof/Machine/Budget.lean ====
section
/-! DEFINITION. The budget's waits, evictions and re-admissions (R260 to R262), and the ends of warps, workgroups and gangs
(R155, R362). -/

namespace Sys2Proof.Machine

/-! ## Granting (R260) -/

/-- The first request of a warp can be granted now, or never any more: it passes the test of R260 as its lanes issue, and a grant
to another lane group of the warp may since have raised the budget (R258, log entry 72). -/
def State.growReady (s : State) (w : Nat) : Bool :=
  let x := s.warp w
  match x.grow? with
  | some e => x.resident && !x.evicted && !x.ended && !s.growWaits x.core (x.slot % 4) (some x.age) &&
      (decide (e.2 ≤ s.freeRows x.core (x.slot % 4)) || s.growPast w e.2)
  | none => false
/-- The lanes of a request go on past the instruction. -/
def Warp.grown (x : Warp) (q n : Nat) : Warp :=
  { x.mapLanes (fun _ y => match y.wait with
      | .grow r _ _ => if r = q then { y.release x.handlerMode with pc := y.pc + 1 } else y
      | _ => y) with budget := x.budget + n }
/-- The lanes of a request that can never be met take the register-overflow trap on the instruction. -/
def Warp.growFails (x : Warp) (q n : Nat) : Warp :=
  x.mapLanes fun _ y => match y.wait with
    | .grow r _ word => if r = q then (y.release x.handlerMode).pend {
        kind := 4, widx := BitVec.ofNat 32 y.pc, word := word, arg1 := BitVec.ofNat 32 n, arg2 := BitVec.ofNat 32 x.budget } else y
    | _ => y
def execReggrowWaitGrant (w : Nat) (s : State) : Res :=
  .next (match (s.warp w).grow? with
    | some e => if s.growReady w then
        s.modWarp w fun x => if s.growPast w e.2 then x.growFails e.1 e.2 else x.grown e.1 e.2 else s
    | none => s)

/-! ## What a warp leaves behind (R417, R418) -/

/-- Requests of a warp are withdrawn from their homes (R331). -/
def State.dropRequests (s : State) (w : Nat) : State :=
  { s with flights := s.flights.filter fun f => !f.withdrawn w fun _ => true }
/-- R417 step 4: the accesses of a warp that it still waits for as it is taken off its core; `skip` leaves some out. Stores that
no ordering point follows may be saved as entries of its store buffer instead, 64 at most. -/
def State.warpBusy (s : State) (w : Nat) (skip : Flight → Bool) : Bool :=
  let rest := s.flights.filter fun f => f.warp == w && !f.isCopy && !skip f && match f.kind with
    | .ordReq .. => false
    | _ => true
  rest.any (fun f => !f.buffered) || decide (64 < (s.storeBuffer w).length)
/-- The entries of the store buffer leave with the warp. -/
def State.dropBuffer (s : State) (w : Nat) : State :=
  { s with flights := s.flights.filter fun f => !(f.warp == w && f.buffered) }

/-! ## Eviction and re-admission (R261, R262) -/

def State.warpsOn (s : State) (core : Nat) : List (Nat × Warp) :=
  s.warps.filter fun e => e.2.core == core && e.2.resident && !e.2.evicted && !e.2.ended
def Warp.blocked (w : Warp) : Bool := (List.range 32).all fun l => (w.lane l).status != .run
def youngest (ws : List (Nat × Warp)) : Option (Nat × Warp) := ws.foldl (fun a e => match a with
  | some b => if b.2.age < e.2.age then some e else a
  | none => some e) none
def oldest (ws : List (Nat × Warp)) : Option (Nat × Warp) := ws.foldl (fun a e => match a with
  | some b => if e.2.age < b.2.age then some e else a
  | none => some e) none
/-- R261: the warp to evict from a core: all of its warps are blocked, and one waits for rows that it is not granted. -/
def State.evictee? (s : State) (core : Nat) : Option Nat :=
  let ws := s.warpsOn core
  match oldest (ws.filter fun e => !e.2.grows.isEmpty) with
  | none => none
  | some o =>
    if ws.all (fun e => e.2.blocked) && !s.growReady o.1 then
      (youngest (ws.filter fun e => e.2.slot % 4 == o.2.slot % 4 && e.1 != o.1 && !e.2.halted)).map Prod.fst
    else none
/-- R465: a warp whose save meets an error in its own state ends, and its launch with status 3. -/
def State.saveFails (s : State) (w : Nat) : State := (s.endWarp w).markCause (s.warp w).launch 3
/-- The eviction: the full form, into the warp's own record, once its accesses have completed (R58, R417). -/
def execReggrowEviction (core : Nat) (s : State) : Res :=
  match s.evictee? core with
  | none => .next s
  | some w =>
    if s.warpBusy w (fun _ => false) then .next s
    else if (s.warp w).bad ≠ [] then .next (s.saveFails w)
    else
      let t := (s.dropRequests w).modWarp w fun x => { x.mapLanes (fun _ y => s.withdraw w y) with evicted := true, latch := [] }
      .next ((t.putWarp w true 128 256).dropBuffer w)

/-- R44: the free slots of a core. -/
def State.freeSlots (s : State) (core : Nat) : List Nat :=
  let used := (s.warpsOn core).map fun e => e.2.slot
  (List.range 64).filter fun k => !used.contains k
/-- R262: the slot an evicted warp returns to. -/
def State.returnSlot? (s : State) (w : Nat) : Option Nat :=
  let x := s.warp w
  let first := s.warps.all fun e => !(e.2.core == x.core && e.2.evicted && e.2.resident && !e.2.ended && decide (e.2.age < x.age))
  if x.evicted && x.resident && !x.ended && first then
    (s.freeSlots x.core).find? fun k => decide (x.budget + (x.grow?.map Prod.snd).getD 0 ≤ s.freeRows x.core (k % 4))
  else none
/-- A warp's issue state is rebuilt empty when it resumes (R42), its registers take other rows, and its REGGROW.WAIT issues afresh
(R262). -/
def Warp.resumed (w : Warp) : Warp :=
  { w.mapLanes (fun _ x => match x.wait with
      | .grow .. => if x.status = .hold then { x.release w.handlerMode with passed := 0 } else { x with passed := 0 }
      | _ => { x with passed := 0 }) with passCount := 0, latch := [], chain := none, drain := .none, rowNums := [] }
def execEvictedWarpReadmission (w : Nat) (s : State) : Res :=
  match s.returnSlot? w with
  | none => .next s
  | some k => .next ((s.reload w).modWarp w fun x => { x.resumed with evicted := false, slot := k })

/-! ## Ends (R155, R362) -/

/-- The Flint slots that a workgroup owns. -/
def State.flintOf (s : State) (g : Nat) : List (Nat × FlintSlot) := (s.core (s.wg g).core).flint.filter fun e => e.2.owner == g
/-- R362: a workgroup has completed: its warps have ended, and its copies, programs and puts are finished. -/
def State.wgFinished (s : State) (g : Nat) : Bool :=
  (s.warps.all fun e => e.2.wg != g || e.2.ended) && !(s.flights.any fun f => f.wg == g) && !((s.flintOf g).any fun e => e.2.live)
def Gang.finished (x : Gang) (s : State) : Bool := x.started && x.wgs.all fun g => (s.wg g).ended
/-- R362: a gang that has completed is counted, unless its launch was ended, or it was lost with its die (R365, R370), by warps or by an
address program that still ran there; its cores' granules are released. -/
def State.settleGang (s : State) (i key : Nat) : State :=
  let x := s.launch i
  let g := mapGet x.gangs key {}
  if g.finished s && !g.completed then
    let lost := x.phase = .ending ∨ s.dev.diesFailed.contains g.die = true
    let s := g.wgs.foldl (fun s k => s.modWg k fun y => { y with resident := false }) s
    s.modLaunch i fun x => { x with
      gangs := mapSet x.gangs key { g with completed := !decide lost, resident := false }
      grids := if lost then x.grids
        else mapMod x.grids (gangStage key) {} fun r => { r with completed := r.completed + 1 } }
  else s
/-- R362, R422: a workgroup completes; its save block is free. -/
def State.settleWg (s : State) (g : Nat) : State :=
  let x := s.wg g
  if s.wgFinished g && !x.ended then
    let s := (s.modWg g fun y => { y with ended := true }).checkBarriers g
    let s := s.modLaunch x.launch fun l => { l with blocksUsed := l.blocksUsed.filter (· != x.block) }
    s.settleGang x.launch x.gang
  else s
/-- R155: every lane is DONE and nothing of the warp is on its way. -/
def State.warpOver (s : State) (w : Nat) : Bool :=
  ((List.range 32).all fun l => ((s.warp w).lane l).status == .done) && !s.flights.any fun f => f.warp == w
/-- R155, R224, R310; an event of a warp that has ended looks again for the completion of its workgroup. -/
def execWarpEnd (w : Nat) (s : State) : Res :=
  let x := s.warp w
  if (mapGet? s.warps w).isSome && (x.resident || (s.launch x.launch).phase == .ending) && s.warpOver w then
    let t := (s.modWarp w fun x => { x with ended := true }).checkBarriers (s.warp w).wg
    .next (t.settleWg (s.warp w).wg)
  else .next s

end Sys2Proof.Machine
end

