-- ==== Sys2Proof/Machine/Approx.lean ====
section
/-! DEFINITION. Division, square root and the six approximate functions of R136.

The exact values of 2^x, log2 x, sin, cos and tanh are taken to about 90 bits in integers of scale 2^100; the result
of the hardware is free within the bound of R136 (log entry 9). -/

namespace Sys2Proof.Machine

/-- The scale of the fixed-point values below. -/
def fxOne : Int := 2 ^ 100
def fxLn2 : Int := 878668439483319573618263538048
def fxPi : Int := 3982441812995697363688351113952

/-- Sum of t^k / k! from a term on. -/
def fxExpSum (t : Int) : Nat → Nat → Int → Int → Int
  | 0, _, _, acc => acc
  | n + 1, k, term, acc => fxExpSum t n (k + 1) (term * t / (fxOne * (k + 1))) (acc + term)
/-- Sum of z^(2j+1) / (2j+1). -/
def fxAtanhSum (z2 : Int) : Nat → Nat → Int → Int → Int
  | 0, _, _, acc => acc
  | n + 1, k, pw, acc => fxAtanhSum z2 n (k + 2) (pw * z2 / fxOne) (acc + pw / k)
/-- Sum of the sine series from a term on. -/
def fxSinSum (a2 : Int) : Nat → Nat → Int → Int → Int
  | 0, _, _, acc => acc
  | n + 1, k, term, acc => fxSinSum a2 n (k + 2) (-(term * a2 / (fxOne * ((k + 1) * (k + 2))))) (acc + term)

/-- A value in fixed point, rounded down. -/
def Dy.fx (x : Dy) : Int := shiftFloor x.m (x.e + 100)

/-- 2^x for x in fixed point. -/
def fxExp2 (x : Int) : Dy :=
  let n := x / fxOne
  let f := x % fxOne
  let n' : Int := if 400 < n then 400 else if n < -400 then -400 else n
  ⟨fxExpSum (f * fxLn2 / fxOne) 40 0 fxOne 0, n' - 100, false⟩
def dyExp2 (x : Dy) : Dy :=
  let k := exponentOf x.m x.e
  if 10 < k then (if x.m < 0 then ⟨1, -400, false⟩ else ⟨1, 400, false⟩) else fxExp2 x.fx
def dyLog2 (x : Dy) : Dy :=
  let k := Nat.log2 x.m.natAbs
  let m := shiftFloor x.m (100 - (k : Int))
  let z := (m - fxOne) * fxOne / (m + fxOne)
  let sm := fxAtanhSum (z * z / fxOne) 45 1 z 0
  ⟨((k : Int) + x.e) * fxOne + 2 * sm * fxOne / fxLn2, -100, false⟩
/-- sin(pi r) for r in fixed point. -/
def fxSinPi (r : Int) : Dy :=
  let r := r % (2 * fxOne)
  let neg := decide (fxOne ≤ r)
  let r := if fxOne ≤ r then r - fxOne else r
  let r := if fxOne < 2 * r then fxOne - r else r
  let a := r * fxPi / fxOne
  let v := fxSinSum (a * a / fxOne) 26 1 a 0
  ⟨if neg then -v else v, -100, false⟩
def dyTanh (x : Dy) : Dy :=
  let k := exponentOf x.m x.e
  let sg : Int := if x.m < 0 then -1 else 1
  if k < -12 then
    let f := x.fx
    let f2 := f * f / fxOne
    Dy.mul ⟨x.m, x.e, false⟩ ⟨fxOne - f2 / 3 + 2 * (f2 * f2 / fxOne) / 15, -100, false⟩
  else if 5 < k then ⟨sg * (2 ^ 60 - 1), -60, false⟩
  else
    let e := fxExp2 (2 * (sg * x.fx) * fxOne / fxLn2)
    let v := shiftFloor e.m (e.e + 100)
    ⟨sg * ((v - fxOne) * fxOne / (v + fxOne)), -100, false⟩

/-- Integer square root by bits: the largest r with r * r at most x. -/
def isqrt (x : Nat) : Nat → Nat → Nat
  | 0, r => r
  | n + 1, r => isqrt x n (if (r + 2 ^ n) * (r + 2 ^ n) ≤ x then r + 2 ^ n else r)

/-- 1/x of a nonzero value, with a tail for the rest of the quotient (R76). -/
def dyRecip (x : Dy) : Dy :=
  let a := x.m.natAbs
  let k := Nat.log2 a + 120
  let num : Int := if x.m < 0 then -(2 ^ k) else 2 ^ k
  ⟨num / a, -(k : Int) - x.e, decide (num % a ≠ 0)⟩
/-- The square root of a positive value, with a tail. -/
def dySqrt (x : Dy) : Dy :=
  let a := x.m.natAbs
  let k := Nat.log2 a
  let sh := 240 - k + (if ((240 : Int) - k - x.e) % 2 = 0 then 0 else 1)
  let v := a * 2 ^ sh
  let r := isqrt v 130 0
  ⟨r, (x.e - sh) / 2, decide (r * r ≠ v)⟩

/-- Which function of R136. -/
inductive Fn | rcp | rsq | sqrt | exp2 | log2 | sinp | cosp | tanh
  deriving DecidableEq, Repr
def Fn.num : Fn → Nat
  | .rcp => 0 | .rsq => 1 | .sqrt => 2 | .exp2 => 3 | .log2 => 4 | .sinp => 5 | .cosp => 6 | .tanh => 7

/-- The error bound of R136, for an exact result y of a function at x: ulps counted at the magnitude of y. -/
def fnBound (fn : Fn) (f : Fmt) (x y : Dy) : Dy :=
  let q := max (exponentOf y.m y.e) (1 - (f.bias : Int)) - f.mw
  let ulp (n : Int) : Dy := ⟨n, q, false⟩
  let wide := f.mw = 23
  let near := Dy.le ⟨1, -1, false⟩ x && Dy.le x ⟨2, 0, false⟩
  match fn with
  | .exp2 => ulp (if wide then 2 else 1)
  | .log2 => if near then ⟨1, if wide then -22 else -10, false⟩ else ulp (if wide then 2 else 1)
  | .sinp | .cosp => ⟨1, if wide then -22 else -10, false⟩
  | .tanh =>
    let u := ulp (if wide then 2 else 1)
    if wide && Dy.lt u ⟨1, -24, false⟩ then ⟨1, -24, false⟩ else u
  | _ => ulp 1

/-- The value a finite or infinite pattern stands for on the grid with unbounded exponent. -/
def patValue (f : Fmt) (p : Nat) : Option Dy :=
  match decodeRaw f p with
  | .nan .. => none
  | .inf neg => some ⟨if neg then -1 else 1, (2 ^ (f.ew - 1) : Int), false⟩
  | x => some x.dy

/-- R136: a result that is free within its bound: the configuration's pattern where that lies within the bound, else
the nearest one. It raises NX, with OF or UF, and is flushed (R74). An overflow is an infinity whatever MODE.SAT is, since
the result is a function of the input and three modes alone (log entry 9). -/
def approxResult (env : NumEnv) (fn : Fn) (f : Fmt) (b : Nat) (x y : Dy) (n : LaneNum) : Nat × LaneNum :=
  let env := { env with rm := .rne }
  let modes := (if env.ftzi then 1 else 0) + (if env.ftzo then 2 else 0) + (if env.nanp then 4 else 0)
  let p := (Config.approx fn.num f.mw b modes % 2 ^ f.width).toNat
  let bound := fnBound fn f x y
  let near := (roundFin { env with ftzo := false, sat := false } f y false ⟨0, 0⟩).1
  let r := match patValue f p with
    | some v => if Dy.le (Dy.sub v y) bound && Dy.le (Dy.sub y v) bound then p else near
    | none => near
  let neg := decide (f.signBit ≤ r)
  let a := r % f.signBit
  if f.infPat ≤ a then (f.signed neg f.infPat, n.raise (flOF ||| flNX))
  else
    let n := n.raise flNX
    let n := if a < 2 ^ f.mw then n.raise flUF else n
    flushOut env f r n

/-- A power of two written exactly, when the format has it. -/
def pow2Pat (f : Fmt) (k : Int) : Option Nat :=
  let emin : Int := 1 - (f.bias : Int)
  if emin - f.mw ≤ k ∧ k ≤ f.bias then
    some (if k < emin then 2 ^ (k - (emin - f.mw)).toNat else (k - emin + 1).toNat * 2 ^ f.mw)
  else none

/-- R136: one function of one decoded operand with pattern b. The square root of a zero is an entry of the table and does
not step the generator (log entry 63). -/
def fnEval (env : NumEnv) (fn : Fn) (f : Fmt) (b : Nat) (n : LaneNum) : Nat × LaneNum :=
  let x := decodeIn env f b
  let inf (neg : Bool) : Nat := f.signed neg f.infPat
  let one (neg : Bool) : Nat := f.signed neg (f.bias * 2 ^ f.mw)
  let bad : Nat × LaneNum := (nanPat env f [], n.raise flIV)
  match x with
  | .nan .. => nanResult env f [x] n
  | .inf neg =>
    match fn with
    | .rcp => (f.signed neg 0, n)
    | .rsq => if neg then bad else (0, n)
    | .sqrt => if neg then bad else (inf false, n)
    | .exp2 => if neg then (0, n) else (inf false, n)
    | .log2 => if neg then bad else (inf false, n)
    | .sinp | .cosp => bad
    | .tanh => (one neg, n)
  | .fin neg m e =>
    let v := x.dy
    if m = 0 then
      match fn with
      | .rcp | .rsq => (inf neg, n.raise flDZ)
      | .sqrt | .sinp | .tanh => (f.signed neg 0, n)
      | .exp2 | .cosp => (one false, n)
      | .log2 => (inf true, n.raise flDZ)
    else
      let k := exponentOf m e
      let isPow := decide (m = 2 ^ Nat.log2 m)
      -- twice x, where that is an integer
      let twice := shiftFloor v.m (v.e + 1)
      let half := decide (e + 1 ≥ 0 ∨ v.m % 2 ^ (-(e + 1)).toNat = 0)
      match fn with
      | .rcp => roundFin env f (dyRecip v) neg n
      | .sqrt => if neg then bad else roundFin env f (dySqrt v) false n
      | .rsq =>
        if neg then bad
        else if isPow && k % 2 = 0 then ((pow2Pat f (-(k / 2))).getD 0, n)
        else
          -- 1/sqrt x = sqrt (1/x)
          approxResult env .rsq f b v (dySqrt { dyRecip v with tail := false }) n
      | .exp2 =>
        let isInt := half && twice % 2 == 0
        let pw := if isInt then pow2Pat f (twice / 2) else none
        match pw with
        | some p => flushOut env f p n
        | none => approxResult env .exp2 f b v (dyExp2 v) n
      | .log2 =>
        if neg then bad
        else if isPow then roundFin { env with rm := .rne } f (Dy.ofInt k) false n
        else approxResult env .log2 f b v (dyLog2 v) n
      | .sinp =>
        if half then
          if twice % 2 = 0 then (f.signed neg 0, n) else (one (decide ((twice - 1) / 2 % 2 ≠ 0)), n)
        else approxResult env .sinp f b v (fxSinPi v.fx) n
      | .cosp =>
        if half then
          if twice % 2 = 0 then (one (decide (twice / 2 % 2 ≠ 0)), n) else (0, n)
        else approxResult env .cosp f b v (fxSinPi (v.fx + fxOne / 2)) n
      | .tanh => approxResult env .tanh f b v (dyTanh v) n

end Sys2Proof.Machine
end

