-- ==== Sys2Proof/Machine/Conv.lean ====
section
/-! DEFINITION. Class 0xD, conversion and special functions (R131 to R137). -/

namespace Sys2Proof.Machine

/-- R132: one conversion of CVTF by SUB; the result pattern in the low bits. -/
def cvtf (env : NumEnv) (sub b : Nat) (n : LaneNum) : Nat × LaneNum :=
  let f32 := decodeIn env F32 b
  match sub with
  | 0 => roundVal env F16 f32 n
  | 1 => roundVal env BF16 f32 n
  | 2 => widen env F32 (decodeIn env F16 b) n
  | 3 => widen env F32 (decodeIn env BF16 b) n
  | 4 => roundVal env BF16 (decodeIn env F16 b) n
  | 5 => roundVal env F16 (decodeIn env BF16 b) n
  | 6 => roundVal env E4M3 f32 n
  | 7 => roundVal env E5M2 f32 n
  | 8 => roundVal env E2M3 f32 n
  | 9 => roundVal env E3M2 f32 n
  | 10 => roundVal env E2M1 f32 n
  | 11 => roundE8 env f32 n
  | 12 => widen env F32 (decodeRaw E4M3 b) n
  | 13 => widen env F32 (decodeRaw E5M2 b) n
  | _ => match decodeE8 b with
    | .nan .. => (nanPat env F32 [], n)
    | x => widen env F32 x n
/-- R132: the SUB values that round. -/
def cvtfRounds (sub : Nat) : Bool := sub ≠ 2 && sub ≠ 3 && sub < 12
def execCvtf (sub : BitVec 4) (d a : BitVec 7) (s : State) : Res :=
  let x := s.src a
  let f l n := cvtf s.env sub.toNat (x.lane l).toNat n
  if cvtfRounds sub.toNat then s.vnum d [x] f else s.vnumExact d [x] f

/-- R133: the integer format of SUB[3:2] and the float format of SUB[1:0]. -/
def cvtInt (sub : Nat) : IFmt :=
  match sub / 4 with
  | 0 => ⟨32, true⟩ | 1 => ⟨32, false⟩ | 2 => ⟨64, true⟩ | _ => ⟨64, false⟩
def cvtFloat (sub : Nat) : Fmt :=
  match sub % 4 with
  | 0 => F32 | 1 => F16 | _ => BF16
/-- R133: float to integer, a pair for the 64-bit formats. -/
def execCvtfi (sub : BitVec 4) (d a : BitVec 7) (s : State) : Res :=
  let x := s.src a
  let i := cvtInt sub.toNat
  let env := s.env
  let r l := intOf env i (decodeIn env (cvtFloat sub.toNat) (x.lane l).toNat) (s.laneNum l)
  if i.w = 32 then s.vnum d [x] fun l _ => (bitsOf 32 (r l).1, (r l).2)
  else
    let v l : DWord := BitVec.ofNat 64 (bitsOf 64 (r l).1)
    let lo l : Word := (v l).setWidth 32
    let hi l : Word := (v l >>> 32).setWidth 32
    let c (y : Word) : Option VReg := if env.rm ≠ .rsto && x.isU then some (.u y) else none
    .next (s.effect { writes := [⟨d.toNat, lo, c (lo 0)⟩, ⟨d.toNat + 1, hi, c (hi 0)⟩],
                      flags := (fun l => (r l).2.fl), gen := some (fun l => (r l).2.gen) })
/-- R133: an exact integer rounded to a float format. -/
def execCvtif (sub : BitVec 4) (d a : BitVec 7) (s : State) : Res :=
  let i := cvtInt sub.toNat
  let x := s.src a
  let y := s.srcPair a
  let env := s.env
  let v l : Int := if i.w = 32 then (if i.signed then (x.lane l).toInt else (x.lane l).toNat)
    else (if i.signed then (pairLane y l).toInt else (pairLane y l).toNat)
  s.vnum d (if i.w = 32 then [x] else [y.1, y.2]) fun l n =>
    roundFin env (cvtFloat sub.toNat) (Dy.ofInt (v l)) false n

/-- The elements of consecutive source registers converted in order and packed (R134). -/
def packElems (w : Nat) (f : Nat → LaneNum → Nat × LaneNum) : List Nat → LaneNum → Nat × LaneNum
  | [], n => (0, n)
  | b :: bs, n =>
    let r := f b n
    let t := packElems w f bs r.2
    (r.1 % 2 ^ w + 2 ^ w * t.1, t.2)
def State.srcRun (s : State) (a : BitVec 7) (k : Nat) : List VReg :=
  (List.range k).map fun i => (s.cur.vreg (a.toNat + i)).norm
/-- R134: an integer element clamped from 32 bits. -/
def satElem (src dst : IFmt) (b : Nat) (n : LaneNum) : Nat × LaneNum :=
  let r := satInt dst (if src.signed then sextN 32 b else b) n
  (bitsOf dst.w r.1, r.2)
def execPack2 (sub : BitVec 4) (d a : BitVec 7) (s : State) : Res :=
  let xs := s.srcRun a 2
  let env := s.env
  let el : Nat → LaneNum → Nat × LaneNum := match sub.toNat with
    | 0 => fun b n => roundVal env F16 (decodeIn env F32 b) n
    | 1 => fun b n => roundVal env BF16 (decodeIn env F32 b) n
    | 2 => satElem S32 ⟨16, true⟩
    | _ => satElem N32 ⟨16, false⟩
  let f l n := packElems 16 el (xs.map fun x => (x.lane l).toNat) n
  if sub.toNat < 2 then s.vnum d xs f else s.vnumExact d xs f
def execPack4 (sub : BitVec 4) (d a : BitVec 7) (s : State) : Res :=
  let xs := s.srcRun a 4
  let env := s.env
  let fl (fm : Fmt) : Nat → LaneNum → Nat × LaneNum := fun b n => roundVal env fm (decodeIn env F32 b) n
  let el : Nat → LaneNum → Nat × LaneNum := match sub.toNat with
    | 0 => fl E4M3
    | 1 => fl E5M2
    | 2 => fl E2M3
    | 3 => fl E3M2
    | 4 => satElem S32 ⟨8, true⟩
    | 5 => satElem N32 ⟨8, false⟩
    | _ => fl E2M1
  let old := s.src d
  let f l n :=
    let bs := xs.map fun x => (x.lane l).toNat
    match sub.toNat with
    | 6 => let r := packElems 4 el bs n; (r.1 + (old.lane l).toNat / 65536 * 65536, r.2)
    | 7 => let r := packElems 4 el bs n; (r.1 * 65536 + (old.lane l).toNat % 65536, r.2)
    | _ => packElems 8 el bs n
  let srcs := if 6 ≤ sub.toNat then old :: xs else xs
  if sub.toNat = 4 ∨ sub.toNat = 5 then s.vnumExact d srcs f else s.vnum d srcs f

/-- R135: element i of a packed value, widened. -/
def unpk (env : NumEnv) (sub i b : Nat) (n : LaneNum) : Nat × LaneNum :=
  let h := bits b (16 * i) 16
  let y := bits b (8 * i) 8
  match sub with
  | 0 => widen env F32 (decodeIn env F16 h) n
  | 1 => widen env F32 (decodeIn env BF16 h) n
  | 2 => widen env F32 (decodeRaw E4M3 y) n
  | 3 => widen env F32 (decodeRaw E5M2 y) n
  | 4 => widen env F32 (decodeRaw E2M3 y) n
  | 5 => widen env F32 (decodeRaw E3M2 y) n
  | 6 => widen env F32 (decodeRaw E2M1 (bits b (4 * i) 4)) n
  | 7 => match decodeE8 y with
    | .nan .. => (nanPat env F32 [], n)
    | x => widen env F32 x n
  | 8 => (bitsOf 32 (sextN 8 y), n)
  | 9 => (y, n)
  | 10 => (bitsOf 32 (sextN 16 h), n)
  | _ => (h, n)
def execUnpk (sub : BitVec 4) (d a : BitVec 7) (s : State) : Res :=
  let x := s.src a
  s.vnumExact d [x] fun l n => unpk s.env sub.toNat (s.px % 8) (x.lane l).toNat n

/-- R136: SUB 0 is F32, SUB 1 two F16 elements with element 0 first. -/
def fnLane (env : NumEnv) (fn : Fn) (sub b : Nat) (n : LaneNum) : Nat × LaneNum :=
  if sub = 0 then fnEval env fn F32 b n
  else
    let r0 := fnEval env fn F16 (bits b 0 16) n
    let r1 := fnEval env fn F16 (bits b 16 16) r0.2
    (pack2 16 r0.1 r1.1, r1.2)
def State.fnOp (s : State) (fn : Fn) (rounds : Bool) (sub : BitVec 4) (d a : BitVec 7) : Res :=
  let x := s.src a
  let f l n := fnLane s.env fn sub.toNat (x.lane l).toNat n
  if rounds then s.vnum d [x] f else s.vnumExact d [x] f
def execRcp (sub : BitVec 4) (d a : BitVec 7) (s : State) : Res := s.fnOp .rcp true sub d a
def execRsq (sub : BitVec 4) (d a : BitVec 7) (s : State) : Res := s.fnOp .rsq false sub d a
def execSqrt (sub : BitVec 4) (d a : BitVec 7) (s : State) : Res := s.fnOp .sqrt true sub d a
def execExp2 (sub : BitVec 4) (d a : BitVec 7) (s : State) : Res := s.fnOp .exp2 false sub d a
def execLog2 (sub : BitVec 4) (d a : BitVec 7) (s : State) : Res := s.fnOp .log2 false sub d a
def execSinp (sub : BitVec 4) (d a : BitVec 7) (s : State) : Res := s.fnOp .sinp false sub d a
def execCosp (sub : BitVec 4) (d a : BitVec 7) (s : State) : Res := s.fnOp .cosp false sub d a
def execTanh (sub : BitVec 4) (d a : BitVec 7) (s : State) : Res := s.fnOp .tanh false sub d a

/-- R137: random bits; always tagged G. -/
def execRng (sub : BitVec 4) (d : BitVec 7) (s : State) : Res :=
  let g l := rngStep (s.laneNum l).gen
  let v l : Word :=
    let x := (rngMix (g l)).toNat
    if sub = 0 then BitVec.ofNat 32 (x / 2 ^ 32)
    else BitVec.ofNat 32 (roundFin ⟨.rne, false, false, false, false⟩ F32 ⟨(x / 2 ^ 40 : Nat), -24, false⟩ false ⟨0, 0⟩).1
  .next (s.effect { writes := [⟨d.toNat, v, none⟩], gen := some g })

end Sys2Proof.Machine
end

