-- ==== Sys2Proof/Machine/Render.lean ====
section
/-! DEFINITION. Render passes beyond class 0x9: stages, the clears at the start of a pass, the classifier and Shale (R371 to R383). -/

namespace Sys2Proof.Machine

/-! ## The block's fields (R372, R373) -/

structure StateSet where
  index : Nat
  start : Nat
  target : Nat
  cullB : Bool
  frNeg : Bool
  valid : Bool
  /-- x0, y0, x1, y1 of the viewport and of the scissor -/
  view : List Nat
  scis : List Nat
  deriving DecidableEq, Repr

def Render.stateSet (r : Render) (k : Nat) : StateSet :=
  let w i := r.at (0x180 + 32 * k + 4 * i)
  let rect i := [bits (w i) 0 16, bits (w i) 16 16, bits (w (i + 1)) 0 16, bits (w (i + 1)) 16 16]
  { index := k, start := w 0, target := bits (w 2) 0 2, cullB := bitAt (w 2) 4, frNeg := bitAt (w 2) 5
    valid := bitAt (w 2) 31, view := rect 4, scis := rect 6 }
def Render.sets (r : Render) : List StateSet := ((List.range 8).map r.stateSet).filter (·.valid)
/-- The valid set with the greatest START up to a meshlet index. -/
def Render.setFor (r : Render) (m : Nat) : StateSet :=
  ((r.sets.filter fun x => decide (x.start ≤ m)).getLast?).getD (r.stateSet 0)
def Render.words (r : Render) (off n : Nat) : List Nat := (List.range n).map fun i => r.at (off + 4 * i)
def Render.target (r : Render) (i : Nat) : Option Surface := Surface.ofWords (r.words (0x80 + 32 * i) 8)
def Render.depth (r : Render) : Option Surface := Surface.ofWords (r.words 0x100 8)
def Render.vis (r : Render) : Bool := bitAt (r.at 0) 0
def Render.nmesh (r : Render) : Nat := r.at 8
def Render.wtri (r : Render) : Nat := r.at 0x0C
def Render.wref (r : Render) : Nat := r.at 0x10
def Render.spqCap (r : Render) : Nat := r.at 0x14
def Render.spq (r : Render) : Nat := r.at 0x18 + 2 ^ 32 * r.at 0x1C
def Render.vbuf (r : Render) : Nat := r.at 0x20 + 2 ^ 32 * r.at 0x24
def Render.vpitch (r : Render) : Nat := r.at 0x28
/-- The clip rectangle of a set: x0, y0 and the exclusive x1, y1. -/
def Render.clip (r : Render) (x : StateSet) : List Nat :=
  let g (l : List Nat) i := l.getD i 0
  match r.target x.target with
  | some d => [max (g x.view 0) (g x.scis 0), max (g x.view 1) (g x.scis 1),
      min (min (g x.view 2) (g x.scis 2)) d.width, min (min (g x.view 3) (g x.scis 3)) d.height]
  | none => [0, 0, 0, 0]
/-- Bins per row of a target (R381). -/
def Render.binsWide (r : Render) (target : Nat) : Nat := match r.target target with
  | some d => (d.width + 63) / 64
  | none => 1

/-! ## The clears at the start of a pass (R376) -/

/-- Byte ranges that a clear writes: address and length. -/
def Surface.texelRows (d : Surface) : List (Nat × Nat) :=
  if d.layout = 0 then (List.range d.height).map fun y => (d.linear 0 y, 4 * d.width)
  else (List.range d.height).flatMap fun y => (List.range d.width).map fun x => (d.base + 256 * d.tile x y + 4 * pixelIn x y, 4)
/-- The metadata bytes: one for each tile of the surface. -/
def Surface.modeBytes (d : Surface) : List (Nat × Nat) :=
  (List.range ((d.height + 7) / 8)).map fun y => (d.metaAt + y * d.pitch, (d.width + 7) / 8)
/-- Ranges with the word, or the byte, that fills them. -/
def Render.clears (r : Render) : List ((Nat × Nat) × List Byte) :=
  let col (i : Nat) := match r.target i with
    | some d => if bitAt (r.at 0) (1 + i) then
        (if d.layout = 2 then d.modeBytes.map fun a => (a, [(1 : Byte)]) else d.texelRows.map fun a => (a, toBytes 4 d.clear))
      else []
    | none => []
  let dep := match r.depth with
    | some d => if bitAt (r.at 0) 5 then d.texelRows.map fun a => (a, toBytes 4 0) else []
    | none => []
  let vb := match r.target 0 with
    | some d => if bitAt (r.at 0) 6 then (List.range d.height).map fun y => ((r.vbuf + r.vpitch * y, 8 * d.width), [(0 : Byte)]) else []
    | none => []
  (List.range 4).flatMap col ++ dep ++ vb
def State.clearRange (s : State) (asid : Nat) (c : (Nat × Nat) × List Byte) : State :=
  s.vputs asid c.1.1 ((List.range c.1.2).map fun i => c.2.getD (i % c.2.length) 0)
/-- R376: the writes before any stage starts. -/
def State.passStart (s : State) (i : Nat) : State :=
  let x := s.launch i
  match x.render with
  | some r => if r.cleared then s
    else (r.clears.foldl (fun s c => s.clearRange x.asid c) s).modLaunch i fun x => { x with render := some { r with cleared := true } }
  | none => s

/-! ## Shale (R380, R381) -/

/-- Entries of a visit in batches of 32; the fuel is their number. -/
def batchesOf (target bin set : Nat) : Nat → Bool → List Prim → List Batch
  | 0, _, _ => []
  | n + 1, first, ps =>
    if ps.isEmpty then []
    else { target := target, bin := bin, stateSet := set, first := first, last := decide (ps.length ≤ 32), prims := ps.take 32 }
      :: batchesOf target bin set n false (ps.drop 32)
/-- The window's visits, in increasing bin. -/
def Render.visits (r : Render) : List Batch :=
  let target := (r.stateSet r.windowSet).target
  let bins := (r.window.flatMap Prod.snd).foldl (fun (a : AMap Unit) b => mapSet a b ()) []
  bins.flatMap fun b =>
    let ps := (r.window.filter fun e => e.2.contains b.1).map Prod.fst
    batchesOf target b.1 r.windowSet ps.length true ps
def Render.flush (r : Render) : Render := { r with batches := r.batches ++ r.visits, window := [] }
def Render.refs (r : Render) : Nat := r.window.foldl (fun a e => a + e.2.length) 0
/-- R380: one triangle is placed, after a flush where its state set differs or the window has no room; with more bins than a
window holds it takes several windows. -/
def Render.place (p : Prim) (set : Nat) : Nat → Render → List Nat → Render
  | 0, r, _ => r
  | n + 1, r, bins =>
    let full := decide (r.wtri < r.window.length + 1 ∨ r.wref < r.refs + bins.length)
    let r := if !r.window.isEmpty && (r.windowSet != set || full) then r.flush else r
    let k := max 1 r.wref
    let r := { r with window := r.window ++ [(p, bins.take k)], windowSet := set }
    if bins.length ≤ k then r else Render.place p set n r (bins.drop k)

/-! ## The classifier (R377 to R379) -/

/-- The pixels, first and last, of a range whose samples lie between two coordinates, within the clip. -/
def sampleSpan (lo hi : Int) (c0 c1 : Nat) : Int × Int :=
  (max ((lo - 128 + 255) / 256) (c0 : Int), min ((hi - 128) / 256) ((c1 : Int) - 1))
def minOf (v : List Int) : Int := v.foldl min (v.headD 0)
def maxOf (v : List Int) : Int := v.foldl max (v.headD 0)
/-- The pixel rectangle of a triangle in a clip: its columns and its rows. -/
def Tri.footprint (t : Tri) (clip : List Nat) : (Int × Int) × (Int × Int) :=
  let c i := clip.getD i 0
  (sampleSpan (minOf t.x) (maxOf t.x) (c 0) (c 2), sampleSpan (minOf t.y) (maxOf t.y) (c 1) (c 3))
/-- R378: the classes of a triangle. -/
inductive Fate | culled | small | shale
  deriving DecidableEq, Repr
def Render.fate (r : Render) (x : StateSet) (t : Tri) (room : Bool) : Fate :=
  let f := t.footprint (r.clip x)
  if t.area = 0 ∨ t.inS24 = false then .culled
  else if x.cullB && decide (if x.frNeg then 0 < t.area else t.area < 0) then .culled
  else if f.1.2 < f.1.1 ∨ f.2.2 < f.2.1 then .culled
  else if r.vis && decide (t.area.natAbs ≤ wbits r.threshold 0 16 * 65536) && room then .small
  else .shale
/-- The bins of a footprint. -/
def binsOf (wide : Nat) (f : (Int × Int) × (Int × Int)) : List Nat :=
  let span (p : Int × Int) : List Nat := (List.range ((p.2 / 64 - p.1 / 64 + 1).toNat)).map fun i => (p.1 / 64).toNat + i
  (span f.2).flatMap fun y => (span f.1).map fun x => y * wide + x
/-- The words of an entry of BINNEXT, and of the small-primitive queue (R221, R379). -/
def Prim.words (p : Prim) : List Word := p.xy ++ p.z ++ [p.seq, 0, 0]
/-- Triangle `t` of a record. -/
def recordPrim (b : List Byte) (m t : Nat) : Prim :=
  let w o := ofBytes ((b.drop o).take 4)
  let tri := w (784 + 4 * t)
  let v k := 16 + 12 * bits tri (8 * k) 6
  { seq := BitVec.ofNat 32 (32 * m + t)
    xy := (List.range 3).flatMap fun k => [BitVec.ofNat 32 (w (v k)), BitVec.ofNat 32 (w (v k + 4))]
    z := (List.range 3).map fun k => BitVec.ofNat 32 (w (v k + 8)) }
/-- One triangle: its queue entry is written at once, or Shale places it. -/
def State.classifyTri (s : State) (i : Nat) (x : StateSet) (p : Prim) : State :=
  let l := s.launch i
  match l.render with
  | none => s
  | some r =>
    let t := Tri.ofWords (p.xy.map (·.toNat))
    match r.fate x t (decide (r.small < r.spqCap)) with
    | .culled => s
    | .small => (s.vputs l.asid (r.spq + 64 + 48 * r.small) (wordsBytes p.words)).modLaunch i fun l =>
        { l with render := some { r with small := r.small + 1 } }
    | .shale =>
      let bins := binsOf (r.binsWide x.target) (t.footprint (r.clip x))
      s.setLaunch i { l with render := some (Render.place p x.index bins.length r bins) }

/-- The grid of a stage. -/
def Launch.grid (x : Launch) (stage : Nat) : Grid := mapGet x.grids stage {}
/-- R403: after a lease fault no further gang starts. -/
def Launch.closed (x : Launch) : Bool := !x.causes.isEmpty
/-- R362: every gang of a stage has completed; of a launch that starts no more gangs, every one that has started. -/
def Launch.gridOver (x : Launch) (stage : Nat) : Bool :=
  (x.grid stage).started && (x.grid stage).completed == (if x.closed then (x.grid stage).next else (x.shape stage).ngang)
/-- R377, R380: the index that the classifier takes next; none while it waits. -/
def Launch.nextRecord? (x : Launch) : Option Nat := match x.render with
  | some r =>
    if !r.batches.isEmpty then none
    else if (mapGet? r.records r.nextMeshlet).isSome then some r.nextMeshlet
    else if x.gridOver 1 then r.records.head?.map Prod.fst
    else none
  | none => none
def execClassifyMeshlet (launch : Nat) (s : State) : Res :=
  let x := s.launch launch
  match x.nextRecord?, x.render with
  | some m, some r =>
    let rec' := mapGet r.records m (false, [])
    let s := s.setLaunch launch { x with render := some { r with records := mapErase r.records m, nextMeshlet := m + 1 } }
    let n := bits (ofBytes ((rec'.2.take 4))) 8 8
    let s := (List.range n).foldl (fun s t => s.classifyTri launch (r.setFor m) (recordPrim rec'.2 m t)) s
    .next (if rec'.1 then s.modLaunch launch fun x => { x with render := x.render.map Render.flush } else s)
  | _, _ => .next s

/-! ## Handing out batches (R381 to R384) -/

/-- The 64 tile keys of a bin (R382). -/
def tileKeys (target wide bin : Nat) : List DWord :=
  (List.range 64).map fun p =>
    BitVec.ofNat 64 (target * 2 ^ 40 + (bin / wide * 8 + p / 8) * 2 ^ 20 + bin % wide * 8 + p % 8)
/-- R383: the numbers are posted to each tile key, when every list and the key tables have room. -/
def State.postBatch (s : State) (i : Nat) (keys : List DWord) (ns : List Word) : Option State :=
  let tag := DomTag.priv i 31
  if keys.all fun k => s.postRoom tag k then keys.foldlM (fun t k => t.postKey tag k ns) s else none
/-- The oldest issue of a warp that waits for a batch: its number, scratchpad address, output register and length. -/
def Warp.batchWait? (w : Warp) : Option (Nat × Nat × Nat × Nat) :=
  (List.range 32).foldl (fun a l => match (w.lane l).wait with
    | .batch n sa d len => match a with
      | some (m, _) => if n < m then some (n, sa, d, len) else a
      | none => some (n, sa, d, len)
    | _ => a) none
/-- The results of BINNEXT; every lane's helper bit is cleared, and the issue's lanes go on (R384). -/
def State.giveBatch (s : State) (w : Nat) (wt : Nat × Nat × Nat × Nat) (w0 w1 : Nat) (bytes : List Byte) : State :=
  let x := s.warp w
  let s := if bytes.isEmpty then s else (s.ownWrite x.wg (padPlaces x.wg wt.2.1 bytes.length)).putBytes 0 (bytes.zipIdx.map fun e => (.sp x.wg (wt.2.1 + e.2), e.1)) false
  s.modWarp w fun x =>
    (((x.setWreg wt.2.2.1 (BitVec.ofNat 32 w0)).setWreg (wt.2.2.1 + 1) (BitVec.ofNat 32 w1)).mend [128 + wt.2.2.1, 129 + wt.2.2.1]).mapLanes fun _ y =>
      let y := { y with helper := false }
      match y.wait with
      | .batch n _ _ len => if n = wt.1 then { y.release x.handlerMode with pc := y.pc + len } else y
      | _ => y
/-- The batch for a workgroup: the first one left for it, with what stands before it. -/
def batchFor (nwg wgid : Nat) (bs : List Batch) : Option Nat := bs.findIdx? fun b => b.bin % nwg == wgid
/-- R162, R285: an access of the warp to the bytes of a batch of `n` entries is still on its way. -/
def State.batchBusy (s : State) (w sa n : Nat) : Bool :=
  s.flights.any fun f => f.warp == w && overlaps f.places (padPlaces (s.warp w).wg sa (48 * n))
/-- What a warp that waits in BINNEXT is handed now. At the end of the pass, with n = 0, the output register and the STATE field are zero:
the spec gives no value there (DESIGN CHOICE, log entry 87). -/
def State.handout? (s : State) (w : Nat) : Option State :=
  let x := s.warp w
  let l := s.launch x.launch
  match x.batchWait?, l.render with
  | some wt, some r =>
    let h := l.shape 3
    match batchFor (h.gwg * h.ngang) (s.wg x.wg).wgid r.batches with
    | some k =>
      (r.batches[k]?).bind fun b =>
        if s.batchBusy w wt.2.1 b.prims.length then none else
        let wide := r.binsWide b.target
        (s.postBatch x.launch (tileKeys b.target wide b.bin) (b.prims.map (·.seq))).map fun t =>
          let t := t.modLaunch x.launch fun l => { l with render := l.render.map fun r => { r with batches := r.batches.eraseIdx k } }
          t.giveBatch w wt (b.bin % wide + 65536 * (b.bin / wide))
            (b.prims.length + 256 * b.stateSet + (if b.first then 2 ^ 29 else 0) + (if b.last then 2 ^ 30 else 0))
            (wordsBytes (b.prims.flatMap Prim.words))
    | none =>
      if (l.grid 1).done && r.batches.isEmpty then some (s.giveBatch w wt 0 (2 ^ 31) []) else none
  | _, _ => none
def execShaleBatchHandout (w : Nat) (s : State) : Res := .next ((s.handout? w).getD s)

/-! ## Stages (R353, R371) -/

/-- The valid fence entries of a stage, with the kind 0 (wait) or 1 (signal): index, address and value. -/
def Desc.fencesOf (d : Desc) (stage kind : Nat) : List (Nat × DWord × DWord) :=
  (List.range 8).filterMap fun i =>
    let f := wbits d.fencectl (4 * i) 4
    if bitAt f 0 && f / 2 % 2 == kind && f / 4 == stage then some (i, (d.fences.getD i (0, 0)).1, (d.fences.getD i (0, 0)).2) else none
/-- Every wait fence of a stage has been met. -/
def Launch.fencesHold (x : Launch) (stage : Nat) : Bool := (x.desc.fencesOf stage 0).all fun e => x.fencesMet.contains e.1
/-- R353: the signals of a stage, in increasing entry. -/
def State.signal (s : State) (i stage : Nat) : State :=
  let x := s.launch i
  (x.desc.fencesOf stage 1).foldl (fun s e => s.vput x.asid e.2.1.toNat 8 e.2.2.toNat) s
/-- A stage may start. -/
def Launch.stageReady (x : Launch) (stage : Nat) : Bool :=
  x.phase == .admitted && x.render.isSome && decide (1 ≤ stage ∧ stage ≤ 3) && !(x.grid stage).started &&
    x.fencesHold 0 && x.fencesHold stage && (stage != 2 || (x.grid 1).done)
def execStageStart (launch stage : Nat) (s : State) : Res :=
  .next (if (s.launch launch).stageReady stage then
    (s.passStart launch).modLaunch launch fun x => { x with grids := mapMod x.grids stage {} fun g => { g with started := true } }
  else s)
/-- A stage is complete: its grid, and for stage 1 the classifier's work. -/
def Launch.stageOver (x : Launch) (stage : Nat) : Bool :=
  x.gridOver stage && !(x.grid stage).done && match x.render with
    | some r => stage != 1 || r.records.isEmpty
    | none => false
/-- R371, R379, R380: stage 1 ends with a flush and with the queue's count; the stage's signals follow. -/
def execStageCompletion (launch stage : Nat) (s : State) : Res :=
  let x := s.launch launch
  if x.stageOver stage then
    let s := match stage, x.render with
      | 1, some r =>
        let s := if r.spq = 0 then s else s.vput x.asid r.spq 4 r.small
        s.modLaunch launch fun x => { x with render := x.render.map Render.flush }
      | _, _ => s
    let s := s.modLaunch launch fun x => { x with grids := mapMod x.grids stage {} fun g => { g with done := true } }
    .next (s.signal launch stage)
  else .next s

end Sys2Proof.Machine
end

