-- ==== Sys2Proof/Machine/Finish.lean ====
section
/-! DEFINITION. Launches from the device's side: their names, priorities and order (R332, R343, R345, R354, R361), and the end of a
launch: its record, signals, event and what it gives back (R353, R362, R365, R368, R369, R403). -/

namespace Sys2Proof.Machine

/-! ## Names and order -/

/-- R343: the launches of a context that an address names: consumed, and not yet completed. -/
def State.named (s : State) (cid : Nat) (addr : DWord) : List Nat :=
  (s.launches.filter fun e => e.2.cid == cid && e.2.addr == addr && !s.dev.requests.any fun r => r.launch == e.1 && r.index == 0xFE).map
    Prod.fst
/-- R345, R367: the name of a launch's queue: a host queue, or a pool of a graph. -/
def Launch.queueName (x : Launch) : Nat := match x.queue, x.node with
  | some q, _ => q
  | none, some (g, p, _) => poolQueue g p
  | none, none => 4095
/-- Stages that a launch has. -/
def Launch.stages (x : Launch) : List Nat := if x.render.isSome then [1, 2, 3] else [1]
/-- Every gang of the launch has started. -/
def Launch.allStarted (x : Launch) : Bool := x.stages.all fun k => (x.grid k).started && (x.grid k).next == (x.shape k).ngang
/-- R367: the copy of a claimed node is on its way. -/
def State.copying (s : State) (i : Nat) : Bool := s.flights.any fun f => f.id == i && match f.kind with
  | .launchCopy .. => true
  | _ => false
/-- R345: what the launch before one in its queue asks of it; `CTL0`[27] is SER. One that is gone asks nothing. -/
def State.follows (s : State) (i : Nat) : Option Nat → Bool
  | none => true
  | some p => !s.copying p && match mapGet? s.launches p with
    | some b => !(s.launch i).desc.ctl0.getLsbD 27 && (b.phase == .admitted || b.phase == .ending) && b.allStarted
    | none => true
/-- R345, R367, R389: the launch is considered, after every one before it in its queue. With ATCTL.EN = 0 none is. -/
def State.considered (s : State) (i : Nat) : Bool :=
  let xs := ((mapGet s.dev.entries (s.launch i).queueName []).takeWhile (· != i)) ++ [i]
  s.dev.atCtl.getLsbD 0 && ((none :: xs.map some).zip xs).all fun e =>
    !s.copying e.2 && ((mapGet? s.launches e.2).isNone || s.follows e.2 e.1)

/-! ## Priority (R332, R354) -/

def Launch.prio (x : Launch) : Nat := wbits x.desc.ctl0 20 5
/-- The launch that holds the section a request waits for. -/
def State.holderOf (s : State) (f : Flight) : Option Nat := match f.kind with
  | .ordReq _ tag _ key _ 1 => (s.keyEntry? tag key).bind fun e => e.holder.map fun h => (s.warp h.1).launch
  | _ => none
/-- R332: which launch of another context waits on a section that a launch holds: holder and waiter. -/
def State.raises (s : State) : List (Nat × Nat) :=
  s.flights.filterMap fun f => (s.holderOf f).bind fun h =>
    let w := (s.warp f.warp).launch
    if (s.launch h).cid = (s.launch w).cid then none else some (h, w)
/-- Effective priorities after `n` transitive steps. -/
def State.raised (s : State) (rs : List (Nat × Nat)) : Nat → Nat → Nat
  | 0, i => (s.launch i).prio
  | n + 1, i => (rs.filter fun r => r.1 == i).foldl (fun a r => max a (s.raised rs n r.2)) (s.launch i).prio
def State.effPrio (s : State) (i : Nat) : Nat := s.raised s.raises s.launches.length i
/-- R361: launch `i` comes before launch `j`: the higher effective priority, and among equals the oldest. -/
def State.ranksBefore (s : State) (i j : Nat) : Bool :=
  let a := s.effPrio i
  let b := s.effPrio j
  decide (b < a) || (a == b && decide ((s.launch i).order < (s.launch j).order))
/-- R360, R361: launch `i` is placed before launch `j`. An older launch of equal effective priority whose gangs were saved for another does
not hold that one back: either may come first (log entry 43). -/
def State.placesBefore (s : State) (i j : Nat) : Bool :=
  s.ranksBefore i j && !((s.launch j).claim.contains i && s.effPrio i == s.effPrio j)

/-! ## The end of a launch -/

/-- Bytes that a dispatcher writes for a launch: through pinned pages, or through the tables where a page is not pinned. -/
def State.deviceWrite (s : State) (asid va : Nat) (bs : List Byte) : State :=
  if (List.range bs.length).all fun i => (s.pin? asid (va + i)).isSome then s.vputs asid va bs else s.walkPut asid va bs
/-- R388, R400: a range of virtual addresses lies in one half. -/
def rangeLegal (va n : Nat) : Bool := decide (va < 2 ^ 56 ∧ va + n ≤ 2 ^ 56 ∧ va / 2 ^ 55 = (va + n - 1) / 2 ^ 55)
/-- R350, R400: a lease entry in use. -/
def leaseLegal (e : DWord × DWord) : Bool := leaseWf e && rangeLegal e.1.toNat (bits e.2.toNat 0 52)
def Desc.nlease (d : Desc) : Nat := wbits d.ctl1 14 5
/-- R352: a range of the descriptor holds the whole span; an entry that is not in use, or is malformed, grants nothing. -/
def Launch.legalSpan (x : Launch) (k : Acc) (va n : Nat) : Bool :=
  (x.desc.leases.take x.desc.nlease).any fun e => leaseLegal e && leaseHolds e k va n
/-- R352: CPL is 16-byte aligned, in a well-formed range of the descriptor that grants writes. -/
def Launch.cplValid (x : Launch) : Bool := decide (x.desc.cpl.toNat % 16 = 0) && x.legalSpan .w x.desc.cpl.toNat 16
/-- R365: the handed-out indices of a stage whose completion was not counted. -/
def Launch.lostIn (x : Launch) (stage : Nat) : List Nat :=
  let h := x.shape stage
  let g := x.grid stage
  let shared := wbits x.desc.ctl0 28 2 == 0 && h.cls != 0
  let out := min h.ngang (if shared then g.mirror else g.next)
  (List.range out).filter fun k => !(mapGet x.gangs (stage * 2 ^ 24 + k) {}).completed
def Launch.lostGangs (x : Launch) : List Nat := x.stages.flatMap x.lostIn
def Launch.completedGangs (x : Launch) : Nat := x.stages.foldl (fun a k => a + (x.grid k).completed) 0
/-- R403: the first of 5, 6, 4, 3 and 0 that applies; 2 by R465. -/
def Launch.status (x : Launch) : Nat := ([5, 6, 4, 3, 2].find? fun c => x.causes.contains c).getD 0

/-- R368: the event bit of the parent workgroup, if that has not ended. -/
def State.parentEvent (s : State) (x : Launch) : State := match x.parent with
  | some (_, g) =>
    if x.desc.evt.getLsbD 31 && (mapGet? s.wgs g).isSome && !(s.wg g).ended then
      s.modWg g fun y => { y with events := y.events ||| (1 <<< wbits x.desc.evt 0 6) }
    else s
  | none => s
/-- Shared domains that a launch names. -/
def Launch.sharedDoms (x : Launch) : List Nat := x.domains.filterMap fun e => match e.2.2.2 with
  | .shared n => some n
  | _ => none
/-- R369: a shared domain that was freed is discarded once no launch names it. -/
def State.dropShared (s : State) : State :=
  (s.shared.filter fun e => e.2.freeing && !s.launches.any fun l => l.2.sharedDoms.contains e.1).foldl (fun s e =>
    { s.dropTags (· == .shared e.1) with shared := mapErase s.shared e.1 }) s
/-- R402, R369, R366, R421: what a launch held is given back, and the launch is gone. The save area stays pinned while the
context has another launch. -/
def State.forget (s : State) (i : Nat) : State :=
  let x := s.launch i
  let gone (e : Nat × Warp) := e.2.launch == i
  let s := { s with
    warps := s.warps.filter fun e => !gone e
    wgs := s.wgs.filter fun e => e.2.launch != i
    launches := mapErase s.launches i
    trees := s.trees.filter fun e => !(e.2.bound && e.2.launch == i)
    pins := s.pins.filter fun p => p.owner != i || p.saveArea
    dev := { s.dev with
      requests := s.dev.requests.filter fun r => r.launch != i
      nodes := match x.node with
        | some n => s.dev.nodes.filter (· != n)
        | none => s.dev.nodes } }
  let s : State := { s with dev := { s.dev with entries := s.dev.entries.map fun e =>
    (e.1, e.2.dropWhile fun k => (mapGet? s.launches k).isNone && !s.copying k) } }
  let s := if s.launches.any fun e => e.2.cid == x.cid then s
    else { s with pins := s.pins.filter fun p => !(p.saveArea && p.cid == x.cid) }
  (s.dropTags fun t => match t with
    | .priv l _ => l == i
    | .shared _ => false).dropShared
/-- The 16 bytes of a completion record. -/
def recordBytes (status gangs lost : Nat) : List Byte := toBytes 4 status ++ toBytes 4 gangs ++ toBytes 4 lost ++ toBytes 4 0
/-- R362: the lost-gang list, the record, the stage-0 signals and the parent's event, in this order; then what the launch held
goes back. -/
def State.complete (s : State) (i : Nat) (status : Nat) : State :=
  let x := s.launch i
  let lost := if status = 5 then x.lostGangs else []
  let cap := lost.take x.desc.lostcap.toNat
  let s := if cap.isEmpty then s else s.deviceWrite x.asid x.desc.lost.toNat (cap.flatMap (toBytes 4))
  let s := if x.cplValid then s.deviceWrite x.asid x.desc.cpl.toNat (recordBytes status x.completedGangs lost.length) else s
  let s := if status = 1 then s
    else (x.desc.fencesOf 0 1).foldl (fun s e => s.deviceWrite x.asid e.2.1.toNat (toBytes 8 e.2.2.toNat)) s
  (s.parentEvent x).forget i

/-- Every warp of the launch has ended and nothing of it is on its way. -/
def State.launchQuiet (s : State) (i : Nat) : Bool :=
  (s.warps.all fun e => e.2.launch != i || e.2.ended) && (s.wgs.all fun e => e.2.launch != i || e.2.ended)
/-- R364, R370: every warp of the launch ends as END ends it, those of saved gangs too, which are never resumed; its address
programs stop. -/
def State.endAllWarps (s : State) (i : Nat) : State :=
  let s : State := (s.warps.filter fun e => e.2.launch == i && !e.2.ended).foldl (fun s e =>
    (s.endWarp e.1).modWarp e.1 fun x => { x with evicted := false, drain := .none }) s
  let mine (g : Nat) := (s.wg g).launch == i
  let s : State := { s with
    cores := s.cores.map fun e => (e.1, { e.2 with flint := e.2.flint.map fun p =>
      (p.1, if mine p.2.owner && p.2.live then { p.2 with status := .stopped, waitsOn := none } else p.2) })
    -- copies that have no slot yet are withdrawn with the warps' waits
    flights := s.flights.filter fun f => !(mine f.wg && match f.kind with
      | .copy c => c.start?.isNone
      | _ => false) }
  (s.wgs.filter fun e => e.2.launch == i).foldl (fun s e => s.checkBarriers e.1) s
/-- Some warp of an ending launch has a lane that is not DONE. -/
def State.endDue (s : State) (i : Nat) : Bool :=
  s.warps.any fun e => e.2.launch == i && !e.2.ended && !(List.range 32).all fun l => (e.2.lane l).status == .done
/-- R362, R403: the grid of an admitted launch has completed: every stage of it, or every gang that started. -/
def Launch.over (x : Launch) : Bool :=
  if x.render.isSome then x.stages.all fun k => (x.grid k).done || (x.closed && !(x.grid k).started)
  else x.gridOver 1 || (x.closed && !(x.grid 1).started)
/-- The launch can complete now. -/
def State.canComplete (s : State) (i : Nat) : Bool :=
  let x := s.launch i
  match x.phase with
  | .admitted => x.over && s.launchQuiet i
  | .ending => !s.endDue i && s.launchQuiet i
  | _ => false
def execLaunchCompletion (launch : Nat) (s : State) : Res :=
  let x := s.launch launch
  .next (if x.phase = .ending ∧ s.endDue launch = true then s.endAllWarps launch
    else if s.canComplete launch then s.complete launch x.status else s)

end Sys2Proof.Machine
end

