-- ==== Sys2Proof/Machine/Save.lean ====
section
/-! DEFINITION. Saving gangs and restoring them (R281, R315, R331, R415 to R419, R423 to R428). -/

namespace Sys2Proof.Machine

/-! ## Code, and where lanes stop (R17, R415, R417) -/

/-- The live-ins of a REGION word (R247). -/
def regionWord? (w : Word) : Option (Nat × Nat) :=
  if w &&& 0x7FC03E00 = 0x61C00000 then some (wbits w 14 8, wbits w 0 9) else none
/-- A lane in RUN that stands on a REGION word. -/
def State.onRegion? (s : State) (w : Nat) (x : Lane) : Option (Nat × Nat) :=
  if x.status = .run then (s.codeWord? (s.launch (s.warp w).launch) x.pc).bind regionWord? else none
/-- R415. -/
def Lane.discardable (x : Lane) : Bool := x.region.inside && x.status != .done
def State.laneStops (s : State) (w : Nat) (x : Lane) : Bool := x.status == .done || x.discardable || (s.onRegion? w x).isSome
def State.warpStops (s : State) (w : Nat) : Bool := (List.range 32).all fun l => s.laneStops w ((s.warp w).lane l)

/-! ## Draining (R416, R417) -/

/-- R417: the approach begins; a warp in handler mode, or halted, takes the full form. -/
def Warp.startDrain (x : Warp) : Warp := { x with drain := if x.handlerMode || x.halted then .full else .approach }
def State.startDrain (s : State) (i key : Nat) : State :=
  let s := s.modLaunch i fun x => { x with gangs := mapMod x.gangs key {} fun g => { g with draining := true } }
  { s with warps := s.warps.map fun e =>
      if e.2.launch = i ∧ e.2.gang = key ∧ e.2.ended = false then (e.1, e.2.startDrain) else e }
/-- R417, R418: after the approach a warp that has not stopped takes the full form. -/
def execDrainApproachExpiry (w : Nat) (s : State) : Res :=
  .next (if (s.warp w).drain = .approach ∧ s.warpStops w = false then s.modWarp w fun x => { x with drain := .full } else s)
/-- The form of a warp that has stopped issuing: full, or region. -/
def State.form? (s : State) (w : Nat) : Option Bool :=
  let x := s.warp w
  if x.drain = .full ∨ x.handlerMode = true ∨ x.halted = true then some true
  else if s.warpStops w then some false else none
/-- R417 step 3: a load of discarded lanes alone is not waited for. -/
def State.discardedLoad (s : State) (f : Flight) : Bool :=
  f.isLoad && (lanesOf f.who).all fun l =>
    let x := (s.warp f.warp).lane l
    x.discardable && (s.onRegion? f.warp x).isNone
/-- R417: a warp is drained; stores that are still in its store buffer are saved as entries (R306). -/
def State.warpDrained (s : State) (w : Nat) : Bool :=
  let x := s.warp w
  x.ended || x.evicted || match s.form? w with
    | none => false
    | some full => !s.warpBusy w fun f => !full && s.discardedLoad f
/-- R281: the K-steps that are under way have been placed. -/
def State.tilesCalm (s : State) (g : Nat) : Bool := (s.wg g).tags.all fun e => e.2.panels.isNone
/-- R419: the copy commands that run have come to completion, and the requests of the address programs have landed. A command that
waits for a slot of a ring has made no request: the drain does not wait for it (R420), and it stays with its workgroup (log entry 76). -/
def State.copiesDone (s : State) (g : Nat) : Bool := s.flights.all fun f => f.wg != g || match f.kind with
  | .copy c => c.start?.isNone
  | _ => true

/-! ## The save block (R423 to R426) -/

def State.blockPut (s : State) (g off : Nat) (bs : List Byte) : State :=
  let x := s.launch (s.wg g).launch
  s.vputs x.asid ((s.blockVa x (s.wg g).block).toNat + off) bs
def State.blockGet (s : State) (g off n : Nat) : List Byte :=
  let x := s.launch (s.wg g).launch
  s.vgetN x.asid ((s.blockVa x (s.wg g).block).toNat + off) n
/-- R459: bytes of the block are stored marked. -/
def State.blockMark (s : State) (g off n : Nat) : State :=
  let x := s.launch (s.wg g).launch
  s.putBytes x.asid ((s.placesAt x.asid ((s.blockVa x (s.wg g).block).toNat + off) n).map fun p => (p, 0)) true
/-- R459: the pieces of `size` bytes of the block that arrive poisoned. -/
def State.blockHurt (s : State) (g off n size : Nat) : List Nat :=
  let x := s.launch (s.wg g).launch
  s.hurtPieces x.asid ((s.blockVa x (s.wg g).block).toNat + off) n size
/-- Offsets of the accumulator region, the scale window and the scratchpad image. -/
def Workgroup.a0 (g : Workgroup) : Nat := 0x1000 + 0x8000 * g.nwarps
def Workgroup.scaleAt (g : Workgroup) : Nat := g.a0 + 12288 * g.acc3
def Workgroup.padAt (g : Workgroup) : Nat := g.a0 + 13312 * g.acc3
def SlotState.code : SlotState → Nat
  | .free => 0
  | .producing => 1
  | .filled => 2
  | .consuming => 3
def FlintStatus.code : FlintStatus → Nat
  | .stopped => 0
  | .running => 1
  | .waiting => 2
  | .faulted => 3
/-- R425: the 256 bytes of a Flint slot. -/
def FlintSlot.image (p : FlintSlot) : List Byte :=
  let held (m : AMap HeldSlot) r := match mapGet? m r with
    | some h => toBytes 4 (if h.void then 0 else h.slot + 64 + 256 * h.off)
    | none => toBytes 4 0
  toBytes 8 p.status.code ++ toBytes 8 p.pc.toNat ++ (List.range 16).flatMap (fun i => toBytes 8 (mapGet p.x i 0).toNat)
    ++ (List.range 4).flatMap (fun k => toBytes 4 (mapGet p.n k 0).toNat)
    ++ (List.range 8).flatMap (fun r => held p.prod r ++ held p.cons r) ++ toBytes 32 0
def Barrier.image (b : Barrier) (last : Nat) : List Byte :=
  toBytes 4 b.phase.toNat ++ toBytes 4 b.count0.toNat ++ toBytes 4 b.count1.toNat ++ toBytes 4 last
def Ring.image (r : Ring) : List Byte :=
  toBytes 16 ((List.range 64).foldl (fun a i => a + (r.slot i).code * 4 ^ i) 0)
def TileOp.image (t : TileOp) : List Byte :=
  toBytes 4 (if t.inFlight then 1 else 0) ++ toBytes 4 t.next ++ toBytes 24 0 ++ (List.range 8).flatMap fun i => toBytes 4 (t.desc.getD i 0).toNat
/-- The barrier of a group of a launch. -/
def State.groupBar (s : State) (w : Workgroup) (group : Nat) : Option BarRef :=
  let i := s.launch w.launch
  match mapGet? i.trees group with
  | some t => some (.tree t)
  | none => ((mapGet i.gangs w.gang {}).bars.find? fun e => e.2.bound && e.2.group == group).map fun e => .gang w.launch w.gang e.1
/-- R424: the four group entries of a workgroup's header. -/
def State.groupEntries (s : State) (g : Nat) : List Byte :=
  let w := s.wg g
  let gs := if w.grouped then ((s.launch w.launch).groups.filter fun e => e.2.contains w.wgid).map Prod.fst else []
  (List.range 4).flatMap fun k => toBytes 2 (match gs[k]? with
    | some n => n + 256 + (match s.groupBar w n with
      | some r => if s.wgArrived g r (s.bar r).phase then 512 else 0
      | none => 0)
    | none => 0)
/-- R424: the 4 KiB header. -/
def State.headerImage (s : State) (g : Nat) : List Byte :=
  let w := s.wg g
  let gang := mapGet (s.launch w.launch).gangs w.gang {}
  let wbar b :=
    let x := mapGet w.bars b {}
    let m := s.warps.foldl (fun a e => if e.2.wg = g ∧ e.2.hasArrived (.wg g b) x.phase = true then a + 2 ^ e.2.index else a) 0
    x.image m
  let gbar k :=
    let x := mapGet gang.bars k {}
    if w.gpos = 0 ∧ x.bound = true then
      let m := x.members.foldl (fun a j => match s.wgOf? w.launch j with
        | some h => if s.wgArrived h (.gang w.launch w.gang k) x.phase then a + 2 ^ (s.wg h).gpos else a
        | none => a) 0
      x.image (m + 256 * x.group + 2 ^ 31)
    else toBytes 16 0
  toBytes 4 w.wgid ++ toBytes 4 w.part.toNat ++ toBytes 4 w.nwarps ++ toBytes 4 1 ++ toBytes 8 w.events.toNat ++ s.groupEntries g
    ++ toBytes 32 0 ++ (List.range 16).flatMap wbar ++ (List.range 16).flatMap gbar ++ (List.range 8).flatMap (fun n => (w.ringOf n).image)
    ++ (List.range 4).flatMap (fun k => (mapGet w.tags k {}).image) ++ toBytes 64 0
    ++ (List.range 4).flatMap (fun p => (mapGet w.savedFlint p {}).image) ++ toBytes 2048 0
/-- The images of the region, the scale window and the scratchpad window, with their marks (R281, R424, R459). -/
def State.putImages (s : State) (g : Nat) : State :=
  let w := s.wg g
  let s := s.blockPut g w.a0 ((List.range (64 * w.tiles)).flatMap fun e => (mapGet w.region e Ace.cleared).bytes)
  let s := s.blockPut g w.scaleAt (memReadN w.scale 0 (1024 * w.acc3))
  let s := s.blockPut g w.padAt (w.spBytes 0 w.window)
  let s := w.scalePoison.foldl (fun s e => s.blockMark g (w.scaleAt + 64 * e) 64) s
  w.spPoison.foldl (fun s k => s.blockMark g (w.padAt + 32 * k) 32) s
def chunk24 (n : Nat) (bs : List Byte) : List (List Byte) := (List.range n).map fun i => (bs.drop (24 * i)).take 24
/-- Bytes as a memory in its one form. -/
def memOf (bs : List Byte) : List Host.Cell := memWriteN [] 0 bs
/-- R459: what arrives poisoned marks its elements, its scale entries and its granules. -/
def State.getImages (s : State) (g : Nat) : State :=
  let w := s.wg g
  let aces := chunk24 (64 * w.tiles) (s.blockGet g w.a0 (1536 * w.tiles))
  let hurt := s.blockHurt g w.a0 (1536 * w.tiles) 24
  s.setWg g { w with
    region := (aces.zipIdx.map fun e => (e.2, if hurt.contains e.2 then { Ace.ofBytes e.1 with pois := true } else Ace.ofBytes e.1)).filter
      fun e => e.2 != Ace.cleared
    scalePoison := s.blockHurt g w.scaleAt (1024 * w.acc3) 64
    spPoison := s.blockHurt g w.padAt w.window 32
    scale := memOf (s.blockGet g w.scaleAt (1024 * w.acc3))
    sp := memOf (s.blockGet g w.padAt w.window) }

/-! ## Storing a unit (R416, R418) -/

/-- R418: a discarded lane goes back to its entry; one on a REGION word stays there. -/
def State.discardLane (s : State) (w : Nat) (x : Lane) : Lane :=
  if x.status = .done ∨ (s.onRegion? w x).isSome = true then x
  else { x with pc := x.region.entry, status := .run, wait := .none, gen := x.region.gen, helper := x.region.helper }
/-- The largest live-in counts among the saved lanes of the region form. -/
def State.liveIns (s : State) (w : Nat) : Nat × Nat :=
  (List.range 32).foldl (fun a l =>
    let x := (s.warp w).lane l
    if x.status = .done then a
    else match s.onRegion? w x with
      | some n => (max a.1 n.1, max a.2 n.2)
      | none => (max a.1 x.region.nv, max a.2 x.region.ns)) (0, 0)
/-- R418, R465: an item with an error that the save reads; the region form reads registers below the live-ins alone. -/
def State.saveSpoilt (s : State) (w : Nat) : Bool :=
  let n := s.liveIns w
  (s.warp w).bad.any fun b => s.form? w == some true || (if b < 128 then decide (b < n.1) else decide (384 ≤ b ∨ b < 128 + n.2))
/-- One warp into its record; one whose own state holds an uncorrectable error is ended (R465). The windows and the pending bits of the
loads that are dropped are gone (R42, R58). -/
def State.storeWarp (s : State) (w : Nat) : State :=
  let x := s.warp w
  let off (s : State) : State := s.modWarp w fun x => { x with resident := false, evicted := false, latch := [], drain := .none }
  if x.ended then off s
  else if x.evicted then off s
  else if s.saveSpoilt w then off (s.saveFails w)
  else
    let s := s.dropRequests w
    let s : State := { s with flights := s.flights.map fun f => if f.warp = w ∧ s.discardedLoad f = true then { f with dropped := true, windows := [] } else f }
    let t :=
      if s.form? w = some true then
        (s.modWarp w fun x => x.mapLanes fun _ y => s.withdraw w y).putWarp w true 128 256
      else
        let n := s.liveIns w
        (s.modWarp w fun x => x.mapLanes fun _ y => s.discardLane w y).putWarp w false n.1 n.2
    off (t.dropBuffer w)
/-- One workgroup: its warps, its address programs, the images and the header. -/
def State.storeWg (s : State) (g : Nat) : State :=
  let s := (s.warps.filter fun e => e.2.wg == g).foldl (fun s e => s.storeWarp e.1) s
  let mine := s.flintOf g
  let s := s.modWg g fun w => { w with savedFlint := mine }
  let s := s.modCore (s.wg g).core fun c => { c with flint := c.flint.filter fun e => e.2.owner != g }
  let s := (s.putImages g).blockPut g 0 (s.headerImage g)
  s.modWg g fun w => { w with resident := false }
/-- R315, R423: the tree barriers of a launch that is saved, and its record. -/
def State.storeTrees (s : State) (i : Nat) : State :=
  let x := s.launch i
  let saved := x.trees.map fun e => (e.1, mapGet s.trees e.2 {})
  let at_ := x.save.toNat + 0x1000 + 4096 * x.record.getD 0
  let s := x.trees.foldl (fun s e =>
    let b := mapGet s.trees e.2 {}
    s.vputs x.asid (at_ + 0x100 + 16 * e.2) (toBytes 4 (e.1 + 2 ^ 31) ++ toBytes 4 b.phase.toNat ++ toBytes 4 b.count0.toNat
      ++ toBytes 4 b.count1.toNat)) s
  let s := s.vputs x.asid (at_ + 8) [3]
  { s.setLaunch i { x with savedTrees := saved } with trees := s.trees.filter fun e => !(e.2.bound && e.2.launch == i) }
/-- R416: the gangs that are saved together with one: all of a concurrent grid, or the gang alone. -/
def Launch.unit (x : Launch) (key : Nat) : List Nat :=
  if (x.shape (gangStage key)).cls = 0 then
    (x.gangs.filter fun e => gangStage e.1 == gangStage key && !e.2.completed).map Prod.fst
  else [key]
/-- Every member of the unit has drained, and no release of its tree barriers is on its way. -/
def State.unitDrained (s : State) (i key : Nat) : Bool :=
  let x := s.launch i
  (x.unit key).all fun k =>
    let g := mapGet x.gangs k {}
    g.draining && g.resident && g.wgs.all fun h =>
      s.copiesDone h && s.tilesCalm h && s.warps.all fun e => e.2.wg != h || s.warpDrained e.1
/-- Its tree barriers can be moved: no release is on its way. -/
def State.treesCalm (s : State) (i : Nat) : Bool := s.trees.all fun e => !(e.2.bound && e.2.launch == i) || e.2.releasing.isEmpty
def State.saveUnit (s : State) (i key : Nat) : State :=
  let x := s.launch i
  let u := x.unit key
  let s := u.foldl (fun s k => (mapGet x.gangs k {}).wgs.foldl State.storeWg s) s
  let s := s.modLaunch i fun x => { x with
    gangs := x.gangs.map fun e => if u.contains e.1 then (e.1, { e.2 with resident := false, saved := true, draining := false, sliceOver := false }) else e }
  if (x.shape (gangStage key)).cls = 0 ∧ gangStage key = 1 then s.storeTrees i else s
def execSaveBlockStore (launch gang : Nat) (s : State) : Res :=
  .next (if (mapGet? s.launches launch).isSome && s.unitDrained launch gang && s.treesCalm launch then s.saveUnit launch gang else s)

/-! ## Restoring (R428) -/

/-- A number of a save block. -/
def State.blockNat (s : State) (g off n : Nat) : Nat := ofBytes (s.blockGet g off n)
def State.blockWords (s : State) (g off n : Nat) : List Word := (List.range n).map fun i => BitVec.ofNat 32 (s.blockNat g (off + 4 * i) 4)
/-- A barrier's phase and counters from its place in a block. -/
def State.getBar (s : State) (g off : Nat) (b : Barrier) : Barrier :=
  { b with phase := BitVec.ofNat 32 (s.blockNat g off 4), count0 := BitVec.ofNat 32 (s.blockNat g (off + 4) 4)
           count1 := BitVec.ofNat 32 (s.blockNat g (off + 8) 4) }
def SlotState.ofCode : Nat → SlotState
  | 1 => .producing
  | 2 => .filled
  | 3 => .consuming
  | _ => .free
/-- The slots that are not FREE, from a ring's 16 bytes. -/
def slotStates (x : Nat) : AMap SlotState := (List.range 64).filterMap fun i =>
  if bits x (2 * i) 2 = 0 then none else some (i, SlotState.ofCode (bits x (2 * i) 2))
def FlintStatus.ofCode : Nat → FlintStatus
  | 1 => .running
  | 2 => .waiting
  | 3 => .faulted
  | _ => .stopped
/-- R424, R428: the header's state. What the header has no place for (which lanes of a warp have arrived, the order in which slots
were marked, what stopped a tile operation) stays with the workgroup (log entry 23). -/
def State.getHeader (s : State) (g : Nat) : State :=
  let w := s.wg g
  let t := s.setWg g { w with
    events := BitVec.ofNat 64 (s.blockNat g 0x10 8)
    bars := w.bars.map fun e => (e.1, s.getBar g (0x40 + 16 * e.1) e.2)
    rings := w.rings.map fun e => (e.1, { e.2 with slots := slotStates (s.blockNat g (0x240 + 16 * e.1) 16) })
    tags := w.tags.map fun e =>
      let a := 0x2C0 + 64 * e.1
      (e.1, { e.2 with inFlight := bitAt (s.blockNat g a 1) 0, next := s.blockNat g (a + 4) 4, desc := s.blockWords g (a + 32) 8 }) }
  if w.gpos = 0 then
    t.modLaunch w.launch fun x => { x with gangs := mapMod x.gangs w.gang {} fun z => { z with
      bars := z.bars.map fun e => if e.2.bound then (e.1, s.getBar g (0x140 + 16 * e.1) e.2) else e } }
  else t
/-- R425: an address program from its place in a block; one that waited resumes in RUNNING and tries its request again. -/
def State.getFlint (s : State) (g p : Nat) (old : FlintSlot) : FlintSlot :=
  let a := 0x400 + 256 * p
  let held (cons : Bool) (m : AMap HeldSlot) : AMap HeldSlot := (List.range 8).filterMap fun r =>
    let x := s.blockNat g (a + 0xA0 + 8 * r + bNat cons 4) 4
    let c := (s.wg g).ringCfg r
    if bitAt x 6 then some (r, { slot := bits x 0 6, off := x / 256, addr := c.addr (bits x 0 6), size := c.size })
    else (mapGet? m r).bind fun h => if h.void then some (r, h) else none
  let st := FlintStatus.ofCode (bits (s.blockNat g a 1) 0 2)
  { old with
    status := if st = .waiting then .running else st
    waitsOn := none
    pc := BitVec.ofNat 64 (s.blockNat g (a + 8) 8)
    x := (List.range 16).map fun i => (i, BitVec.ofNat 64 (s.blockNat g (a + 0x10 + 8 * i) 8))
    n := (List.range 4).map fun k => (k, BitVec.ofNat 32 (s.blockNat g (a + 0x90 + 4 * k) 4))
    prod := held false old.prod
    cons := held true old.cons }
/-- A saved warp takes a slot, with its registers from its record. -/
def State.restoreWarp (s : State) (w core slot : Nat) : State :=
  let n := s.fresh
  ((n.2.modWarp w fun x => { x with core := core, slot := slot, age := n.1, resident := true }).reload w).modWarp w Warp.resumed
/-- R425, R428: a saved workgroup on a core: the images and the header's state, its address programs, and then its warps, in the
lowest free slots. -/
def State.restoreWg (s : State) (g core : Nat) : State :=
  let w := s.wg g
  let s := s.modWg g fun w => { w with core := core, resident := true, savedFlint := [], stale := [] }
  let x := s.launch w.launch
  let s := s.vnote x.asid (s.blockVa x w.block).toNat (w.padAt + w.window)
  let s := (s.getImages g).getHeader g
  let s := s.modCore core fun c => { c with flint := w.savedFlint.foldl (fun m e => mapSet m e.1 (s.getFlint g e.1 e.2)) c.flint }
  let ws := (s.warps.filter fun e => e.2.wg == g && !e.2.ended).map Prod.fst
  let s := (s.warps.filter fun e => e.2.wg == g && e.2.ended).foldl (fun s e => s.modWarp e.1 fun x => { x with resident := true }) s
  ((ws.zip (s.freeSlots core)).foldl (fun s e => s.restoreWarp e.1 core e.2) s)

/-- The name of a barrier after tree numbers were bound again. -/
def BarRef.rename (m : List (Nat × Nat)) : BarRef → BarRef
  | .tree t => match m.find? fun e => e.1 == t with
    | some e => .tree e.2
    | none => .tree t
  | r => r
def Lane.renameTrees (x : Lane) (m : List (Nat × Nat)) : Lane :=
  { x with arrived := x.arrived.map fun e => (e.1.rename m, e.2)
           wait := match x.wait with
             | .barrier r p sc => .barrier (r.rename m) p sc
             | wt => wt }
def State.freeTrees (s : State) : List Nat := (List.range 128).filter fun t => !(mapGet s.trees t {}).bound
/-- R314, R474: the messages that are held at a tree number. -/
def State.heldPeers (s : State) (t : Nat) : List (Nat × Word) := (mapGet s.trees t {}).peers
/-- R423: the launch record says that the launch is admitted and not saved, and its entries are zero again. -/
def State.clearTrees (s : State) (x : Launch) : State :=
  let at_ := x.save.toNat + 0x1000 + 4096 * x.record.getD 0
  (x.trees.foldl (fun s e => s.vputs x.asid (at_ + 0x100 + 16 * e.2) (toBytes 16 0)) s).vputs x.asid (at_ + 8) [1]
/-- R315: the tree barriers of a launch come back under the lowest free numbers, with the messages held there, which may complete a
phase (R314). -/
def State.restoreTrees (s : State) (i : Nat) : State :=
  let x := s.launch i
  let pairs := x.savedTrees.zip s.freeTrees
  let m := pairs.filterMap fun e => (mapGet? x.trees e.1.1).map fun t => (t, e.2)
  let s := s.clearTrees x
  let s : State := { s with
    trees := pairs.foldl (fun ts e => mapSet ts e.2 { e.1.2 with peers := (e.1.2.peers ++ s.heldPeers e.2).eraseDups }) s.trees
    warps := s.warps.map fun e => if e.2.launch = i then (e.1, e.2.mapLanes fun _ y => y.renameTrees m) else e }
  let s := s.modLaunch i fun x => { x with trees := pairs.map fun e => (e.1.1, e.2), savedTrees := [] }
  pairs.foldl (fun s e => s.checkBarrier (.tree e.2)) s

end Sys2Proof.Machine
end

