-- ==== Sys2Proof/Machine/Queues.lean ====
section
/-! DEFINITION. Contexts, host queues, launch descriptors and their validation, the queue operations, device-side launches (R341 to
R352, R366 to R370, R374). -/

namespace Sys2Proof.Machine

/-! ## Contexts (R341, R421, R435) -/

structure Ctx where
  asid : Nat
  prioMax : Nat
  dbg : Bool
  sysok : Bool
  profile : Nat
  save : DWord
  deriving DecidableEq, Repr

/-- The entry of a context; none when it is, or is treated as, not EN. -/
def State.ctx? (s : State) (cid : Nat) : Option Ctx :=
  let bs := s.physReadN (s.dev.contextBase.toNat + 64 * cid) 64
  let f o n := ofBytes ((bs.drop o).take n)
  let w := f 0 4
  let c : Ctx := { asid := bits w 0 16, prioMax := bits w 16 5, dbg := bitAt w 21, sysok := bitAt w 22, profile := f 4 4
                   save := BitVec.ofNat 64 (f 8 8) }
  if bitAt w 23 && decide (bits w 24 8 = 0 ∧ c.profile = 1 ∧ c.save ≠ 0 ∧ c.save.toNat % 4096 = 0) && (bs.drop 16).all (· == 0)
  then some c else none

/-! ## Descriptors (R346 to R353) -/

/-- R346: 640 bytes as a descriptor. -/
def Desc.ofBytes (bs : List Byte) : Desc :=
  let w o : Word := BitVec.ofNat 32 (Machine.ofBytes ((bs.drop o).take 4))
  let d o : DWord := BitVec.ofNat 64 (Machine.ofBytes ((bs.drop o).take 8))
  let pair o i := (d (o + 16 * i), d (o + 16 * i + 8))
  { ctl0 := w 0, ngang := w 4, part := w 8, ctl1 := w 0xC, mode0 := w 0x10, fencectl := w 0x14, seed := d 0x18, code := d 0x20
    limit := w 0x28, entry := w 0x2C, tba := d 0x30, groups := d 0x38, ngroup := w 0x40, evt := w 0x44, domains := d 0x48
    cpl := d 0x50, lost := d 0x58, lostcap := w 0x60, graph := d 0x68
    fences := (List.range 8).map (pair 0x80), args := (List.range 32).map fun i => w (0x100 + 4 * i)
    leases := (List.range 16).map (pair 0x180)
    reservedZero := w 0x64 == 0 && ((bs.drop 0x70).take 16).all (· == 0) }
def Desc.narg (d : Desc) : Nat := wbits d.ctl1 8 6
def Desc.ndom (d : Desc) : Nat := wbits d.ctl1 19 6
def Desc.isRender (d : Desc) : Bool := wbits d.ctl0 8 2 == 1
/-- R250. -/
def partLegal (p : Word) : Bool :=
  let rf := wbits p 0 9
  decide (16 ≤ rf ∧ rf ≤ 384 ∧ rf % 4 = 0 ∧ wbits p 9 9 ≤ 256 ∧ wbits p 18 7 ≤ 64 ∧ wbits p 25 7 = 0 ∧
    rf + wbits p 9 9 + 3 * wbits p 18 7 ≤ 384)
/-- R347: the two control words. -/
def Desc.ctlLegal (d : Desc) (c : Ctx) : Bool :=
  let prio := wbits d.ctl0 20 5
  decide (wbits d.ctl0 0 8 = 1 ∧ wbits d.ctl0 8 2 ≤ 1 ∧ wbits d.ctl0 10 2 ≠ 3 ∧ wbits d.ctl0 26 1 = 0 ∧ wbits d.ctl0 28 2 ≠ 3 ∧
    wbits d.ctl0 30 2 = 0 ∧ prio ≤ 23 ∧ prio ≤ c.prioMax) && (c.sysok || (prio != 23 && !d.ctl0.getLsbD 25)) &&
  decide (wbits d.ctl1 0 8 ≤ 128 ∧ d.narg ≤ 32 ∧ d.nlease ≤ 16 ∧ d.ndom ≤ 32 ∧ wbits d.ctl1 25 7 = 0)
/-- R400: the bytes of the pages of the code segment. -/
def Desc.codeSpan (d : Desc) : Nat := (d.code.toNat % 4096 + 4 * d.limit.toNat + 4095) / 4096 * 4096
/-- R346, R351, R352, R400: the other fields, and zeros where the tables are not in use. -/
def Desc.fieldsLegal (d : Desc) : Bool :=
  d.reservedZero && partLegal d.part &&
  decide (1 ≤ d.ngang.toNat ∧ d.ngang.toNat < 2 ^ 24 ∧ d.code.toNat % 64 = 0 ∧ rangeLegal (d.code.toNat / 4096 * 4096) d.codeSpan = true ∧ 1 ≤ d.limit.toNat ∧ d.limit.toNat ≤ 2 ^ 30 ∧
    d.entry.toNat < d.limit.toNat ∧ d.ngroup.toNat ≤ 256 ∧ d.lost.toNat % 4 = 0) &&
  (d.groups == 0 || d.ngroup != 0) && (d.domains == 0 || d.ndom != 0) &&
  (d.args.drop d.narg).all (· == 0) && (d.leases.drop d.nlease).all (· == (0, 0))
/-- R353. -/
def Launch.fencesLegal (x : Launch) : Bool := (List.range 8).all fun i =>
  let d := x.desc
  let f := wbits d.fencectl (4 * i) 4
  let e := d.fences.getD i (0, 0)
  if bitAt f 0 then
    decide (e.1.toNat % 8 = 0) && (d.isRender || f / 4 == 0) && x.legalSpan (if bitAt f 1 then .w else .r) e.1.toNat 8
  else f == 0 && e == (0, 0)
/-- R352: addresses that must lie in the launch's own ranges. -/
def Launch.placesLegal (x : Launch) : Bool :=
  let d := x.desc
  x.cplValid && (d.lostcap == 0 || x.legalSpan .w d.lost.toNat (4 * d.lostcap.toNat)) &&
  (d.ngroup == 0 || x.legalSpan .r d.groups.toNat (16 * d.ngroup.toNat)) &&
  (d.ndom == 0 || x.legalSpan .r d.domains.toNat (16 * d.ndom)) &&
  (x.parent.isSome || (decide (x.addr.toNat % 128 = 0) && x.legalSpan .r x.addr.toNat 640))
/-- R367, R368: what holds of a device-side launch, and of a host's. -/
def Launch.originLegal (x : Launch) (parent : Option Launch) : Bool := match parent with
  | some p =>
    decide (x.prio ≤ p.prio ∧ wbits x.desc.evt 6 25 = 0) && (!x.desc.ctl0.getLsbD 25 || p.desc.ctl0.getLsbD 25) &&
      (x.desc.graph == 0 || x.desc.graph == p.desc.graph)
  | none => x.desc.evt == 0
/-- R352, R374: what is tested once the descriptor is read. -/
def Launch.valid (x : Launch) (c : Ctx) (parent : Option Launch) : Bool :=
  let d := x.desc
  d.ctlLegal c && d.fieldsLegal && (d.leases.take d.nlease).all leaseLegal && x.fencesLegal && x.placesLegal &&
    x.originLegal parent && (!d.isRender || decide (2 ≤ d.narg ∧ d.ndom ≠ 32))

/-! ## Queues (R342 to R344) -/

structure QEntry where
  addr : DWord
  op : Nat
  ebit : Nat
  rest : Nat
  arg : Nat
  deriving DecidableEq, Repr

def State.queue (s : State) (q : Nat) : QRegs := mapGet s.dev.queues q {}
def State.setQueue (s : State) (q : Nat) (x : QRegs) : State := { s with dev := { s.dev with queues := mapSet s.dev.queues q x } }
def QRegs.cid (x : QRegs) : Nat := wbits x.ctl 4 12
/-- A host write of the tail (R344). -/
def execQueueDoorbell (q : Nat) (v : Word) (s : State) : Res := .next (s.setQueue q ((s.queue q).doorbell v))
/-- R342. -/
def execQctlWrite (q : Nat) (v : Word) (s : State) : Res := .next (s.setQueue q ((s.queue q).writeCtl v 0x8001FFFF))
/-- The next entry to consume, while the queue runs and no launch of its head waits to be read. -/
def State.queueHead? (s : State) (q : Nat) : Option QEntry :=
  let x := s.queue q
  if x.enabled && x.going && x.head.toNat % x.size != x.tail.toNat % x.size &&
      !s.dev.requests.any fun r => r.index == 0xFE && (s.launch r.launch).queue == some q then
    let a := x.base + 16 * (x.head.toNat % x.size)
    let f o n := s.physNat (a + o) n
    some { addr := BitVec.ofNat 64 (f 0 8), op := f 8 1, ebit := f 9 1, rest := f 10 2, arg := f 12 4 }
  else none
/-- R344, R369: the entry does not stop the queue. Between DOMFREE and the end of the last launch that names the domain, it is allocated for
a DOMALLOC and not allocated for another DOMFREE: both stop the queue (DESIGN CHOICE, log entry 83). -/
def State.entryLegal (s : State) (q : Nat) (e : QEntry) : Bool :=
  let x := s.queue q
  decide (e.op ≤ 4 ∧ e.rest = 0) && (decide (e.op < 2) || x.ctl.getLsbD 16) && (s.ctx? x.cid).isSome &&
    match e.op with
    | 2 => (mapGet? s.shared (e.arg % 4096)).isNone
    | 3 => match mapGet? s.shared (e.arg % 4096) with
      | some d => !d.freeing
      | none => false
    | _ => true
/-- R469, R476: what the reading of a queue's entry and of its context does beside returning them. -/
def State.entryRead (s : State) (q : Nat) : State :=
  let x := s.queue q
  s.noteRead 0 ((List.range 16).map (x.base + 16 * (x.head.toNat % x.size) + ·) ++ (List.range 64).map (s.dev.contextBase.toNat + 64 * x.cid + ·))
def State.queueStop (s : State) (q : Nat) : State :=
  let x := s.queue q
  (s.entryRead q).setQueue q { x with ctl := x.ctl ||| 0x40000000, going := false }
/-- The entry is consumed. -/
def State.consume (s : State) (q : Nat) : State :=
  let x := s.queue q
  (s.entryRead q).setQueue q { x with head := BitVec.ofNat 32 ((x.head.toNat + 1) % x.size) }
/-- The entry at the head of a queue, when it has an operation code; the queue stops on an entry that is not legal. -/
def State.queueOp (s : State) (q op : Nat) (f : QEntry → Ctx → State) : Res :=
  match s.queueHead? q with
  | none => .next s
  | some e =>
    if s.entryLegal q e = false then .next (s.queueStop q)
    else match s.ctx? (s.queue q).cid with
      | some c => if e.op = op then .next (f e c) else .next s
      | none => .next s

/-! ## RUN (R344, R352, R401) -/

/-- The launch that an entry makes, once its descriptor is read. -/
def Ctx.launch (c : Ctx) (cid order : Nat) (addr : DWord) (d : Desc) : Launch :=
  { desc := d, addr := addr, cid := cid, asid := c.asid, save := c.save, profile := c.profile, debug := c.dbg, order := order
    render := if d.isRender then some {} else none }
/-- A launch whose descriptor has been read is kept under its number for its residency walk, or ends as malformed (R345, R352). -/
def State.takeLaunch (s : State) (n : Nat) (x : Launch) (c : Option Ctx) (parent : Option Launch) : State :=
  let t := s.setLaunch n { x with order := n }
  match c with
  | some c => if x.valid c parent then t else t.complete n 1
  | none => t.complete n 1
/-- The residency ring takes no request: it is disabled, or full. -/
def State.rqOff (s : State) : Bool := !s.dev.rq.enabled
def State.rqFull (s : State) : Bool := !s.dev.rq.room
/-- A request goes out, and the launch waits (R401). -/
def State.ask (s : State) (i page reason index : Nat) : State :=
  let x := s.launch i
  let s := s.postRequest page x.asid reason index x.addr.toNat
  ({ s with dev := { s.dev with requests := s.dev.requests ++ [Request.mk i x.addr index] } }).modLaunch i
    fun x => { x with phase := .waiting }
/-- The first byte of a range whose walk fails, with the reason. -/
def State.failing? (s : State) (asid va n : Nat) : Option (Nat × WalkFail) :=
  (List.range n).findSome? fun i => match s.walkByte asid (va + i) with
    | .error e => some (va + i, e)
    | .ok _ => none
def State.runEntry (s : State) (q : Nat) (e : QEntry) (c : Ctx) : State :=
  let cid := (s.queue q).cid
  let x (d : Desc) : Launch := { (c.launch cid 0 e.addr d) with queue := some q }
  match s.walkBytes c.asid e.addr.toNat 640 with
  | .ok bs =>
    let n := ((s.noteWalk c.asid e.addr.toNat 640).consume q).fresh
    (n.2.enterQueue q n.1).takeLaunch n.1 (x (Desc.ofBytes bs)) (some c) none
  | .error _ =>
    if s.rqOff then (s.noteWalk c.asid e.addr.toNat 640).consume q
    else if s.rqFull then s
    else match s.failing? c.asid e.addr.toNat 640 with
      | some (va, r) =>
        let n := (s.noteWalk c.asid e.addr.toNat 640).fresh
        let unread : Launch := { x {} with order := n.1 }
        (n.2.setLaunch n.1 unread).ask n.1 (va / 4096 * 4096) r.code 0xFE
      | none => s
/-- R389: with ATCTL.EN = 0 no launch is considered. -/
def execRun (q : Nat) (s : State) : Res := s.queueOp q 0 fun e c => if s.dev.atCtl.getLsbD 0 then s.runEntry q e c else s

/-! ## The other operations (R343, R368 to R370) -/

/-- R368: the bit is set in a workgroup that has started and not ended. -/
def State.eventIn (s : State) (i wgid bit : Nat) : State :=
  match s.wgs.find? fun e => e.2.launch == i && e.2.grouped && e.2.wgid == wgid && !e.2.ended with
  | some e => s.modWg e.1 fun g => { g with events := g.events ||| (1 <<< bit) }
  | none => s
def execEvent (q : Nat) (s : State) : Res := s.queueOp q 1 fun e _ =>
  (s.named (s.queue q).cid e.addr).foldl (fun s i => s.eventIn i e.arg (e.ebit % 64)) (s.consume q)
def execDomalloc (q : Nat) (s : State) : Res := s.queueOp q 2 fun e _ =>
  let t := s.consume q
  let b : Word := e.addr.setWidth 32
  { t with shared := mapSet t.shared (e.arg % 4096) { base := b, next := b } }
def execDomfree (q : Nat) (s : State) : Res := s.queueOp q 3 fun e _ =>
  let t := s.consume q
  ({ t with shared := mapMod t.shared (e.arg % 4096) { base := 0, next := 0 } fun d => { d with freeing := true } }).dropShared
/-- R386: a write of CPACK or CUNPK that an ABORT meets leaves any bytes, in all of the tile and its mode byte: at once, where they have
been written or are not to be, and in what is still on its way. -/
def Flight.tear (f : Flight) : Flight :=
  match f.kind with
  | .store ps bad => { f with kind := .store (ps.zipIdx.map fun p => p.1.zipIdx.map fun c =>
      (c.1.1, Config.freeByte (2 ^ 41 + 4096 * f.id + 16 * p.2 + c.2))) bad }
  | _ => f
def State.tearTiles (s : State) (i : Nat) : State :=
  let mine (f : Flight) : Bool := f.tileStore && (s.warp f.warp).launch == i
  let t := (s.flights.filter mine).foldl (fun (t : State) f =>
    t.writeHome f.wg (s.launch i).asid (f.image.zipIdx.map fun e => (e.1, Config.freeByte (2 ^ 41 + 4096 * f.id + 2048 + e.2))) false) s
  { t with flights := t.flights.map fun f => if mine f then f.tear else f }
/-- R370: the launches named end; their warps end at once. -/
def execAbort (q : Nat) (s : State) : Res := s.queueOp q 4 fun e _ =>
  (s.named (s.queue q).cid e.addr).foldl (fun s i => ((s.tearTiles i).endLaunch i 6).endAllWarps i) (s.consume q)

/-! ## The driver's answers (R397, R401) -/

def State.dropRequest (s : State) (i : Nat) : State :=
  { s with dev := { s.dev with requests := s.dev.requests.filter fun r => r.launch != i } }
/-- The walk starts again at the failing page; a descriptor is read again. -/
def execRetry (s : State) : Res := s.iqPerform 1 fun c =>
  match s.waitingLaunch? c.base c.asid with
  | some r =>
    let t := s.iqTake false
    if r.index = 0xFE then (t.dropRequest r.launch).forget r.launch
    else (t.dropRequest r.launch).modLaunch r.launch fun x => { x with phase := .walking }
  | none => s
/-- The launch completes with status 4, or the first cause of R403; an entry whose descriptor was never read is consumed without a record. -/
def execRefuse (s : State) : Res := s.iqPerform 2 fun c =>
  match s.waitingLaunch? c.base c.asid with
  | some r =>
    let t := s.iqTake false
    if r.index = 0xFE then
      let t := match (t.launch r.launch).queue with
        | some q => t.consume q
        | none => t
      (t.dropRequest r.launch).forget r.launch
    else
      let t := (t.dropRequest r.launch).markCause r.launch 4
      t.complete r.launch (t.launch r.launch).status
  | none => s

/-! ## Device-side launches (R366, R367) -/

/-- The virtual address of a node. -/
def State.nodeVa (s : State) (x : Launch) (pool node : Nat) : Nat := (s.poolOf x pool).1 + 768 * node
/-- R367: the copy has been made: m0 is written, and the child takes its place in the queue of its pool under the number of the copy; where its context is no longer EN it ends as
malformed (log entry 73). Poisoned bytes free the node. -/
def State.nodeCopied (s : State) (f : Flight) (pool node : Nat) (desc : List Byte) (poison : Bool) : State :=
  let p := s.launch (s.warp f.warp).launch
  let name := (graphName p.asid p.desc.graph, pool, node)
  let m (v : Mask) (s : State) : State := (s.dropFlight f.id).modWarp f.warp fun w => (w.setMask 0 v).mend [384]
  if poison then m 0 { s with dev := { s.dev with nodes := s.dev.nodes.filter (· != name) } }
  else
    let va := s.nodeVa p pool node
    let parent := toBytes 8 p.addr.toNat ++ toBytes 4 (s.wg f.wg).wgid
    let s := m allLanes ((s.deviceWrite p.asid va desc).deviceWrite p.asid (va + 640) parent)
    let d := Desc.ofBytes desc
    let x : Launch := {
      desc := d, addr := BitVec.ofNat 64 va, cid := p.cid, asid := p.asid, save := p.save, profile := p.profile, debug := p.debug
      parent := some ((s.warp f.warp).launch, f.wg), node := some name, render := if d.isRender then some {} else none }
    s.takeLaunch f.id x (s.ctx? p.cid) (some p)
def execLaunchNodeCopyDone (f : Nat) (s : State) : Res :=
  match s.flight? f with
  | some x => match x.kind with
    | .launchCopy pool node desc poison => .next (s.nodeCopied x pool node desc poison)
    | _ => .next s
  | none => .next s

end Sys2Proof.Machine
end

