-- ==== Sys2Proof/Machine/Place.lean ====
section
/-! DEFINITION. Residency walks, admission, and the placement of gangs (R84, R250 to R254, R309, R317, R318, R345 to R361, R363, R372 to
R376, R400, R401, R421, R422). -/

namespace Sys2Proof.Machine

/-! ## The residency walk (R400, R401, R421) -/

/-- A range of pages to walk: its address and length in pages, the index in a request, the permissions, and whether all pages must
have one ordering kind (`save`: the save area's pages must be consistent). -/
structure WalkRange where
  va : Nat
  pages : Nat
  index : Nat
  r : Bool
  w : Bool
  one : Bool
  save : Bool
  deriving DecidableEq, Repr
/-- How a walk goes on. -/
inductive Walked
  | ok (s : State)
  /-- an invalidation holds it back (R398) -/
  | blocked (s : State)
  | failed (s : State) (page reason index : Nat)

/-- The pin that the launch, or its context's save area, already has on a page. -/
def State.ownPin? (s : State) (i asid vpage : Nat) (save : Bool) : Option Pin :=
  s.pins.find? fun p => p.vpage == vpage && p.asid == asid &&
    (if save then p.saveArea && p.cid == (s.launch i).cid else p.owner == i && !p.saveArea)
/-- R392, R394, R400: a page is pinned, with its leaf in a TLB; from then on caches may hold lines of it, unless it is strong (R289). -/
def State.pinPage (s : State) (asid va : Nat) (l : Leaf) (p : Pin) : State :=
  let line := (viaOf asid va, l.ppage)
  let t := s.tlbFill asid va l
  { t with pins := t.pins ++ [p], lines := if l.order = .strong ∨ t.lines.contains line = true then t.lines else line :: t.lines }
/-- R400: one page is walked, checked and pinned. -/
def State.walkPage (s : State) (i : Nat) (x : WalkRange) (k : Nat) : Walked :=
  let asid := (s.launch i).asid
  let va := x.va + 4096 * k
  let found : Except Nat (State × Pin) := match s.ownPin? i asid (va / 4096) x.save with
    | some p => .ok (s, p)
    | none => match s.walk asid va with
      | .error e => .error e.code
      | .ok l =>
        let p : Pin := {
          owner := i, asid := asid, vpage := va / 4096, ppage := l.ppage, read := l.r, write := l.w, order := l.order
          saveArea := x.save, cid := (s.launch i).cid }
        .ok ((s.walkNote asid va).pinPage asid va l p, p)
  if (s.ownPin? i asid (va / 4096) x.save).isNone && s.walkBlocked asid (va / 4096) then .blocked s
  else match found with
    | .error c => .failed (s.walkNote asid va) va c x.index
    | .ok (t, p) =>
      let first := match s.ownPin? i asid (x.va / 4096) x.save with
        | some q => q.order
        | none => p.order
      if (x.r && !p.read) || (x.w && !p.write) then .failed s va 1 x.index
      else if (x.one && p.order != first) || (x.save && p.order != .consistent) then .failed s va 3 x.index
      else .ok t
/-- The pages of a range, in increasing address. -/
def State.walkRange (s : State) (i : Nat) (x : WalkRange) : Walked :=
  (List.range x.pages).foldl (fun a k => match a with
    | .ok t => t.walkPage i x k
    | a => a) (.ok s)
def State.walkRanges (s : State) (i : Nat) (xs : List WalkRange) : Walked :=
  xs.foldl (fun a x => match a with
    | .ok t => t.walkRange i x
    | a => a) (.ok s)
/-- The ranges of the leases, in index order, and the code segment. -/
def Desc.walks (d : Desc) : List WalkRange :=
  ((d.leases.take d.nlease).zipIdx.map fun e =>
    let k := bits e.1.2.toNat 52 3
    { va := e.1.1.toNat, pages := bits e.1.2.toNat 0 52 / 4096, index := e.2, r := bitAt k 0 || bitAt k 2, w := bitAt k 1 || bitAt k 2
      one := true, save := false }) ++
  [{ va := d.code.toNat / 4096 * 4096, pages := (d.code.toNat % 4096 + 4 * d.limit.toNat + 4095) / 4096, index := 0xFD, r := true
     w := false, one := false, save := false }]
def saveWalk (va pages : Nat) : WalkRange := { va := va, pages := pages, index := 0xFF, r := true, w := true, one := false, save := true }
/-- R421: the directory's fields, and its length in pages. -/
def State.saveLegal (s : State) (x : Launch) : Bool :=
  let nlr := s.vget x.asid x.save.toNat 4
  decide (1 ≤ nlr ∧ nlr ≤ 65535 ∧ s.saveSize x % 4096 = 0) && (s.vgetN x.asid (x.save.toNat + 12) (4096 - 12)).all (· == 0)
def State.savePages (s : State) (x : Launch) : Nat := (0x1000 + 4096 * s.saveNlr x + s.saveSize x * s.saveNwb x) / 4096

/-! ## Tables read at admission (R309, R317, R351, R372 to R374) -/

/-- R317, R351: the domains of a launch; none when an entry is not allowed. -/
def State.readDomains (s : State) (i : Nat) (x : Launch) : Option (AMap (Word × Word × DomTag)) :=
  (List.range x.desc.ndom).mapM fun k =>
    let f o : Word := BitVec.ofNat 32 (s.vget x.asid (x.desc.domains.toNat + 16 * k + o) 4)
    let sh := wbits (f 8) 0 12
    let named := (f 8).getLsbD 31
    let ok := decide (1 ≤ (f 4).toNat ∧ (f 4).toNat ≤ 2 ^ 24 ∧ wbits (f 8) 12 19 = 0) && f 12 == 0 &&
      (!named || match mapGet? s.shared sh with
        | some d => !d.freeing
        | none => false)
    if ok then some (k, f 0, f 4, if named then DomTag.shared sh else .priv i k) else none
def rising : List Nat → Bool
  | a :: b :: r => decide (a < b) && rising (b :: r)
  | _ => true
/-- R351: the lists of the group table; none when an entry breaks a limit. -/
def State.readGroups (s : State) (x : Launch) : Option (AMap (List Nat)) :=
  let h := x.shape 1
  (List.range x.desc.ngroup.toNat).mapM fun k =>
    let a := x.desc.groups.toNat + 16 * k
    let list := s.vget x.asid a 8
    let n := s.vget x.asid (a + 8) 4
    if 1 ≤ n ∧ n ≤ h.gwg * h.ngang ∧ s.vget x.asid (a + 12) 4 = 0 ∧ x.grantsSpan .r list (4 * n) = true then
      let ms := (List.range n).map fun j => s.vget x.asid (list + 4 * j) 4
      if rising ms && ms.all (fun m => decide (m < h.gwg * h.ngang)) then some (k, ms) else none
    else none
/-- Gangs that a group's members lie in. -/
def gangsOf (gwg : Nat) (ms : List Nat) : List Nat := (ms.map (· / gwg)).eraseDups
/-- R309: groups with members in more than one gang, in increasing number. -/
def spanning (gwg : Nat) (gs : AMap (List Nat)) : List (Nat × List Nat) := gs.filter fun e => decide (1 < (gangsOf gwg e.2).length)
/-- The gang-local groups of a gang, in increasing number. -/
def gangLocal (gwg gang : Nat) (gs : AMap (List Nat)) : List (Nat × List Nat) := gs.filter fun e => gangsOf gwg e.2 == [gang]
def groupsLegal (h : GridShape) (gs : AMap (List Nat)) : Bool :=
  let all := gs.flatMap Prod.snd
  all.eraseDups.all (fun m => decide (all.count m ≤ 4)) &&
    ((gs.flatMap fun e => gangsOf h.gwg e.2).eraseDups.all fun g => decide ((gangLocal h.gwg g gs).length ≤ 16)) &&
    decide ((spanning h.gwg gs).length ≤ 128) && ((spanning h.gwg gs).isEmpty || h.cls == 0)

/-- R372: the words of a render-pass block. -/
def Launch.blockAt (x : Launch) : Nat := (x.desc.args.getD 0 0).toNat + 2 ^ 32 * (x.desc.args.getD 1 0).toNat
def zeroWords (r : Render) (off n : Nat) : Bool := (r.words off n).all (· == 0)
def Render.shapeLegal (r : Render) (o limit : Nat) (classes : List Nat) : Bool :=
  let c := r.at (o + 4)
  decide (r.at o < limit ∧ c < 2 ^ 18 ∧ bits c 8 8 ≤ 128 ∧ 1 ≤ r.at (o + 8) ∧ r.at (o + 8) < 2 ^ 24) && classes.contains (bits c 16 2) &&
    partLegal (BitVec.ofNat 32 (r.at (o + 12)))
/-- R373. -/
def Render.setsLegal (r : Render) : Bool :=
  let v := r.sets
  (r.stateSet 0).valid && (r.stateSet 0).start == 0 && rising (v.map (·.start)) && v.map (·.index) == List.range v.length &&
    (List.range 8).all fun k =>
      let w i := r.at (0x180 + 32 * k + 4 * i)
      if (r.stateSet k).valid then decide (bits (w 2) 6 25 = 0 ∧ w 3 = 0) else (List.range 8).all fun i => w i == 0
def Render.tiled (d : Option Surface) : Bool := match d with
  | some x => x.layout != 0
  | none => false
/-- R374: the limits of the block, apart from leases. -/
def Render.legal (r : Render) (limit : Nat) (part : Nat) : Bool :=
  let zclear := bitAt (r.at 0) 5
  let depthUsed := zclear || r.sets.any fun x => bits (r.at (0x180 + 32 * x.index + 8)) 2 2 != 0
  decide (r.at 0 < 2 ^ 7 ∧ r.at 4 < 2 ^ 16 ∧ 1 ≤ r.nmesh ∧ r.nmesh ≤ 2 ^ 26 ∧ 32 ≤ r.wtri ∧ r.wtri ≤ 65536 ∧ 256 ≤ r.wref ∧
    r.wref ≤ 2 ^ 20 ∧ r.spqCap ≤ 2 ^ 24 ∧ r.spq % 64 = 0 ∧ r.vbuf % 8 = 0 ∧ r.vpitch % 8 = 0 ∧ r.wtri * 48 + r.wref * 4 ≤ part) &&
  zeroWords r 0x2C 1 && zeroWords r 0x50 12 && zeroWords r 0x120 24 && r.shapeLegal 0x30 limit [1, 2] && r.shapeLegal 0x40 limit [0] &&
  r.setsLegal && (r.sets.all fun x => Render.tiled (r.target x.target)) &&
  (!depthUsed || match r.depth with
    | some d => d.layout == 1
    | none => false) &&
  ((List.range 4).all fun k => !bitAt (r.at 0) (1 + k) || (r.target k).isSome) && (!bitAt (r.at 0) 6 || (r.target 0).isSome) &&
  (!r.vis || r.vbuf != 0) && (r.spqCap == 0 || r.spq != 0)
/-- R374, R376, R379: the block and the ranges that it names lie in the launch's leases. -/
def Launch.renderPlaces (x : Launch) (r : Render) : Bool :=
  decide (x.blockAt % 256 = 0) && x.grantsSpan .r x.blockAt 640 &&
    (r.spq == 0 || (x.desc.leases.any fun e => leaseHolds e .r r.spq (64 + 48 * r.spqCap) && leaseHolds e .w r.spq (64 + 48 * r.spqCap))) &&
    (r.clears.all fun c => x.grants .w c.1.1 c.1.2)
def State.readBlock (s : State) (x : Launch) : Render :=
  let ws := (List.range 160).map fun k => BitVec.ofNat 32 (s.vget x.asid (x.blockAt + 4 * k) 4)
  { block := ws, threshold := ws.getD 1 0 &&& 0xFFFF }

/-! ## Cores (R253, R254, R355) -/

def coreUse (p : Word) : Nat := wbits p 9 9 + 3 * wbits p 18 7
def State.residents (s : State) (core : Nat) : List Workgroup := (s.wgs.filter fun e => e.2.core == core && e.2.resident).map Prod.snd
/-- R254: the core admits a workgroup with a partition word and its warps' budgets. -/
def State.admits (s : State) (core : Nat) (part : Word) (budgets : List Nat) : Bool :=
  let rs := s.residents core
  let rc := max (s.rowGranules core) (wbits part 0 9)
  let slots := (s.freeSlots core).zip budgets
  !(s.core core).retired && !s.dev.diesFailed.contains (core / 96) &&
  decide (budgets.length ≤ (s.freeSlots core).length) &&
  decide (rc + rs.foldl (fun a g => a + coreUse g.part) (coreUse part) ≤ 384) &&
  decide (rs.foldl (fun a g => a + 3 * wbits g.part 18 7) (3 * wbits part 18 7) ≤ 192) &&
  ((List.range 4).all fun k =>
    let used := (s.warpsOn core).foldl (fun a e => if e.2.slot % 4 = k then a + e.2.budget else a) 0
    decide (slots.foldl (fun a e => if e.1 % 4 = k then a + e.2 else a) used ≤ 8 * rc)) &&
  !(s.warps.any fun e => e.2.core == core && e.2.resident && e.2.evicted && !e.2.ended)
/-- R355: columns, rows, and the steps of an anchor's column and row. -/
def footShape (g : Nat) : Nat × Nat × Nat × Nat :=
  if g ≤ 1 then (1, 1, 1, 1) else if g = 2 then (2, 1, 2, 1) else if g ≤ 4 then (2, 2, 2, 2) else (4, 2, 4, 2)
/-- R265, R355: the cores of the members, for each anchor on the dies that DIES allows. -/
def anchors (dies g : Nat) : List (List Nat) :=
  let f := footShape g
  (if dies = 0 then [0, 1] else [dies - 1]).flatMap fun die =>
    ((List.range 8).filter fun r => r % f.2.2.2 == 0).flatMap fun r =>
      ((List.range 12).filter fun c => c % f.2.2.1 == 0).map fun c =>
        (List.range g).map fun p => 96 * die + 12 * (r + p / f.1) + c + p % f.1
/-- How many workgroups of a shape an empty core holds. -/
def emptyFits (h : GridShape) : Nat :=
  ((List.range 65).filter fun m =>
    decide (m * h.warps ≤ 64 ∧ wbits h.part 0 9 + m * coreUse h.part ≤ 384 ∧ m * 3 * wbits h.part 18 7 ≤ 192 ∧
      (m * h.warps + 3) / 4 * h.rows ≤ 8 * wbits h.part 0 9)).foldl max 0
/-- R356: every gang of a concurrent grid fits an empty device. -/
def State.fitsEmpty (s : State) (dies : Nat) (h : GridShape) : Bool :=
  let ok (c : Nat) := !(s.core c).retired && !s.dev.diesFailed.contains (c / 96)
  decide (h.ngang ≤ ((anchors dies h.gwg).filter fun f => f.all ok).length * emptyFits h)

/-! ## Admission (R309, R352, R356, R421 to R423) -/

/-- R422: bytes that a workgroup's save block needs. -/
def GridShape.blockNeed (h : GridShape) : Nat := 4096 + 32768 * h.warps + 13312 * wbits h.part 18 7 + 4096 * wbits h.part 9 9
/-- R422: launch records in use in a context. -/
def State.recordsUsed (s : State) (x : Launch) : List Nat :=
  s.launches.filterMap fun e => if e.2.cid = x.cid ∧ e.2.asid = x.asid then e.2.record else none
def Desc.dies (d : Desc) : Nat := wbits d.ctl0 28 2
/-- The trees of a launch, bound to the lowest free numbers in increasing group number (R309). -/
def State.bindTrees (s : State) (i : Nat) (spans : List (Nat × List Nat)) : State :=
  let pairs := spans.zip s.freeTrees
  let s : State := { s with trees := pairs.foldl (fun ts e =>
    mapSet ts e.2 { group := e.1.1, members := e.1.2, bound := true, launch := i, peers := s.heldPeers e.2 }) s.trees }
  s.modLaunch i fun x => { x with trees := pairs.map fun e => (e.1.1, e.2) }
/-- R469, R476: what the dispatcher's reads at an admission do beside returning them: the tables of domains and groups, a render pass's
block, and the wait fences' first reads. -/
def State.noteTables (s : State) (i : Nat) : State :=
  let x := s.launch i
  let lists := (List.range x.desc.ngroup.toNat).map fun k =>
    (s.vget x.asid (x.desc.groups.toNat + 16 * k) 8, 4 * s.vget x.asid (x.desc.groups.toNat + 16 * k + 8) 4)
  let spans := [(x.desc.domains.toNat, 16 * x.desc.ndom), (x.desc.groups.toNat, 16 * x.desc.ngroup.toNat), (x.blockAt, if x.render.isSome then 640 else 0)]
    ++ lists ++ ([0, 1, 2, 3].flatMap fun k => x.desc.fencesOf k 0).map fun e => (e.2.1.toNat, 8)
  spans.foldl (fun s e => s.vnote x.asid e.1 e.2) s
/-- After the walk: the tables are checked (status 1), a concurrent grid must fit (status 2), and a launch record and tree numbers
must be free; then the launch is admitted. -/
def State.admitLaunch (s : State) (i : Nat) : State :=
  let x := s.launch i
  let noted := s.noteTables i
  let r := s.readBlock x
  let y : Launch := if x.render.isSome then { x with render := some r } else x
  let shapes := y.stages.map y.shape
  let block := !x.render.isSome || (r.legal x.desc.limit.toNat (wbits s.dev.shalePart 0 10 * 2 ^ 20) && x.renderPlaces r)
  match s.readDomains i x, s.readGroups x with
  | some ds, some gs =>
    if block && groupsLegal (x.shape 1) gs && (shapes.all fun h => decide (h.blockNeed ≤ s.saveSize x)) then
      if shapes.all fun h => h.cls != 0 || s.fitsEmpty x.desc.dies h then
        let free := (List.range (s.saveNlr x)).filter fun k => !(s.recordsUsed x).contains k
        let spans := spanning (x.shape 1).gwg gs
        match free with
        | [] => s
        | k :: _ =>
          if s.freeTrees.length < spans.length then s
          else
            let s := noted.setLaunch i { y with
              phase := .admitted, domains := ds, groups := gs, record := some k
              grids := if x.render.isSome then [] else [(1, { started := true })] }
            let s := s.vputs x.asid (x.save.toNat + 0x1000 + 4096 * k) (toBytes 8 x.addr.toNat ++ toBytes 4088 1)
            s.bindTrees i spans
      else noted.complete i 2
    else noted.complete i 1
  | _, _ => noted.complete i 1
/-- A walk that stopped: a request, the end of the launch when none can be made, or no change yet (R401). -/
def Walked.settle (i : Nat) (f : State → State) : Walked → State
  | .ok s => f s
  | .blocked s => s
  | .failed s page reason index =>
    if s.rqOff then s.complete i 4 else if s.rqFull then s else s.ask i (page / 4096 * 4096) reason index
/-- The walks of a launch, of the save area's directory and of the whole area; then its admission. -/
def State.walkIn (s : State) (i : Nat) : State :=
  let x := s.launch i
  (s.walkRanges i x.desc.walks).settle i fun s =>
    (s.walkRange i (saveWalk x.save.toNat 1)).settle i fun s =>
      let s := s.vnote x.asid x.save.toNat 4096
      if s.saveLegal x then (s.walkRange i (saveWalk x.save.toNat (s.savePages x))).settle i fun s => s.admitLaunch i
      else s.complete i 1
/-- R341: the context's entry, read as the launch is admitted. -/
def Launch.inCtx (x : Launch) (c : Ctx) : Launch := { x with asid := c.asid, save := c.save, profile := c.profile, debug := c.dbg }
/-- A launch whose context is no longer EN ends as malformed (log entry 73). -/
def State.walkLaunch (s : State) (i : Nat) : State :=
  let s := s.noteRead 0 ((List.range 64).map (s.dev.contextBase.toNat + 64 * (s.launch i).cid + ·))
  match s.ctx? (s.launch i).cid with
  | none => s.complete i 1
  | some c => (s.setLaunch i ((s.launch i).inCtx c)).walkIn i
/-- A launch is to be walked. -/
def State.walkDue (s : State) (i : Nat) : Bool :=
  (mapGet? s.launches i).isSome && (s.launch i).phase == .walking && s.considered i
/-- R354: a launch of higher effective priority is to be walked, and its walk can go on now. -/
def State.walkOutranked (s : State) (i : Nat) : Bool :=
  s.launches.any fun e => e.1 != i && decide (s.effPrio i < s.effPrio e.1) && s.walkDue e.1 &&
    ((s.walkLaunch e.1).launch e.1).phase != .walking
def execResidencyWalk (launch : Nat) (s : State) : Res :=
  .next (if s.walkDue launch && !s.walkOutranked launch then s.walkLaunch launch else s)

/-! ## The start of a gang (R84, R318, R348, R349, R358, R422) -/

/-- R422: a free save block of the context. -/
def State.freeBlock? (s : State) (x : Launch) : Option Nat :=
  let used := s.launches.flatMap fun e => if e.2.cid = x.cid ∧ e.2.asid = x.asid then e.2.blocksUsed else []
  lowest (fun j => !used.contains j) (List.range (s.saveNwb x))
/-- R349: a warp at its start. -/
def Launch.newWarp (x : Launch) (i key g wgid index core slot age : Nat) (h : GridShape) : Warp :=
  let thread l := 32 * (h.warps * wgid + index) + l
  { launch := i, gang := key, wg := g, index := index, core := core, slot := slot, age := age
    lanes := (List.range 32).map fun l =>
      (l, { pc := h.entry, status := .run, gen := x.desc.seed ^^^ (BitVec.ofNat 64 (thread l) * 0x9E3779B97F4A7C15) })
    wregs := ((List.range 32).filter fun k => decide (k < wbits x.desc.ctl1 8 6)).map fun k => (k, x.desc.args.getD k 0)
    mode := modeStored x.desc.mode0, tba := x.desc.tba, budget := h.rows }
def State.startWarp (s : State) (x : Launch) (i key g wgid index core : Nat) (h : GridShape) : State :=
  let n := s.fresh
  let slot := (s.freeSlots core).headD 0
  n.2.setWarp n.1 (x.newWarp i key g wgid index core slot n.1 h)
/-- R252, R349: a workgroup at its start, with its block. -/
def State.startWg (s : State) (x : Launch) (i key p core block : Nat) (h : GridShape) : State :=
  let wgid := h.gwg * gangIndex key + p
  let n := s.fresh
  let s := n.2.setWg n.1 { launch := i, gang := key, gpos := p, wgid := wgid, core := core, nwarps := h.warps, part := h.part, block := block }
  let s := s.modLaunch i fun x => { x with
    blocksUsed := block :: x.blocksUsed
    gangs := mapMod x.gangs key {} fun g => { g with wgs := g.wgs ++ [n.1] } }
  (List.range h.warps).foldl (fun s k => s.startWarp x i key n.1 wgid k core h) s
/-- R309 step 2: the gang's own barriers. -/
def Launch.gangBars (x : Launch) (i key : Nat) : AMap Barrier :=
  if gangStage key = 1 then
    (gangLocal (x.shape 1).gwg (gangIndex key) x.groups).zipIdx.map fun e =>
      (e.2, { group := e.1.1, members := e.1.2, bound := true, launch := i })
  else []
/-- R318: the block of each domain. -/
def State.gangBlocks (s : State) (x : Launch) (i key : Nat) (h : GridShape) : AMap (Word × Nat) :=
  if h.cls = 2 then
    x.domains.map fun e => (e.1, (s.domBase i e.1 + e.2.2.1 * BitVec.ofNat 32 (gangIndex key), e.2.2.1.toNat))
  else []
def State.startGang (s : State) (i key : Nat) (cores : List Nat) : Option State :=
  let x := s.launch i
  let h := x.shape (gangStage key)
  let n := s.fresh
  let g : Gang := { index := gangIndex key, die := cores.headD 0 / 96, anchor := cores.headD 0, started := true, resident := true
                    placed := n.1, bars := x.gangBars i key, blocks := s.gangBlocks x i key h }
  let s := n.2.modLaunch i fun x => { x with
    gangs := mapSet x.gangs key g
    grids := mapMod x.grids (gangStage key) {} fun r => { r with next := r.next + 1 } }
  cores.zipIdx.foldlM (fun s e => (s.freeBlock? x).map fun b => s.startWg x i key e.2 e.1 b h) s

/-! ## Placement (R355 to R361) -/

/-- What each member of a gang needs of its core: partition word, budgets, and the Flint slots that must be free. -/
structure Need where
  part : Word
  budgets : List Nat
  flint : List Nat
  deriving DecidableEq, Repr
def State.needs (s : State) (i key : Nat) : List Need :=
  let x := s.launch i
  let g := mapGet x.gangs key {}
  if g.saved then
    g.wgs.map fun k => {
      part := (s.wg k).part, budgets := (s.warps.filter fun e => e.2.wg == k && !e.2.ended).map fun e => e.2.budget
      flint := ((s.wg k).savedFlint.filter fun e => e.2.live).map Prod.fst }
  else
    let h := x.shape (gangStage key)
    (List.range h.gwg).map fun _ => { part := h.part, budgets := (List.range h.warps).map fun _ => h.rows, flint := [] }
def State.meets (s : State) (core : Nat) (n : Need) : Bool :=
  s.admits core n.part n.budgets && n.flint.all fun p => !(s.flintSlot core p).live
/-- R355: the usable footprint with the most free warp slots, ties to the lowest anchor core. -/
def State.bestFootprint? (s : State) (dies : Nat) (ns : List Need) : Option (List Nat) :=
  let score (f : List Nat) := f.foldl (fun a c => a + (s.freeSlots c).length) 0
  ((anchors dies ns.length).filter fun f => (f.zip ns).all fun e => s.meets e.1 e.2).foldl (fun a f => match a with
    | some b => if score b < score f then some f else a
    | none => some f) none
/-- A saved gang goes on (R428). -/
def State.resumeGang (s : State) (i key : Nat) (cores : List Nat) : State :=
  let g := mapGet (s.launch i).gangs key {}
  let n := s.fresh
  let s := n.2.modLaunch i fun x => { x with gangs := mapSet x.gangs key { g with
    saved := false, resident := true, placed := n.1, die := cores.headD 0 / 96, anchor := cores.headD 0, sliceOver := false } }
  (g.wgs.zip cores).foldl (fun s e => s.restoreWg e.1 e.2) s
def State.placeOne? (s : State) (i key : Nat) : Option State :=
  (s.bestFootprint? (s.launch i).desc.dies (s.needs i key)).bind fun f =>
    if (mapGet (s.launch i).gangs key {}).saved then some (s.resumeGang i key f) else s.startGang i key f
/-- R363: the follower has acknowledged a mirror above the index. -/
def State.mirrorOk (s : State) (x : Launch) (stage idx : Nat) : Bool :=
  x.desc.dies != 0 || (x.shape stage).cls == 0 || !s.dev.diesFailed.isEmpty || decide (idx < (x.grid stage).mirror)
/-- R361: the gangs that a stage places next, together: all of a concurrent grid, a saved gang, or the next one to start. -/
def State.stageUnit (s : State) (x : Launch) (stage : Nat) : List Nat :=
  let h := x.shape stage
  let g := x.grid stage
  let saved := (x.gangs.filter fun e => gangStage e.1 == stage && e.2.saved).map Prod.fst
  let key k := stage * 2 ^ 24 + k
  if g.started = false ∨ g.done = true then []
  else if saved ≠ [] then (if h.cls = 0 then saved else saved.take 1)
  else if x.closed ∨ x.fencesHold 0 = false then []
  else if g.next < h.ngang ∧ s.mirrorOk x stage g.next = true then
    (if h.cls = 0 then (List.range h.ngang).map key else [key g.next])
  else []
/-- The unit of a launch; a render pass's stage 3 comes first (R371). -/
def State.nextUnit (s : State) (i : Nat) : List Nat :=
  let x := s.launch i
  if x.phase = .admitted ∧ x.grace = false ∧ s.considered i = true then
    ((if x.render.isSome then [3, 1, 2] else [1]).map (s.stageUnit x)).find? (fun u => !u.isEmpty) |>.getD []
  else []
/-- The unit is placed in one step, with the tree barriers of a saved launch (R315, R356); none while it cannot be. -/
def State.placed? (s : State) (i : Nat) : Option State :=
  match s.nextUnit i with
  | [] => none
  | u =>
    let x := s.launch i
    let back := (x.shape 1).cls == 0 && u.any fun k => gangStage k == 1 && (mapGet x.gangs k {}).saved
    if back && decide (s.freeTrees.length < x.savedTrees.length) then none
    else (u.foldlM (fun (s : State) k => s.placeOne? i k) (s.passStart i)).map fun t =>
      (if back then t.restoreTrees i else t).modLaunch i fun x => { x with claim := [] }
/-- R465: the next gangs are a concurrent grid that no longer fits an empty device. -/
def State.unfit (s : State) (i : Nat) : Bool := match s.nextUnit i with
  | k :: _ => let h := (s.launch i).shape (gangStage k); h.cls == 0 && !s.fitsEmpty (s.launch i).desc.dies h
  | [] => false
/-- R361: no launch that is considered before this one can be placed. -/
def execGangPlacement (launch : Nat) (s : State) : Res :=
  if s.unfit launch then .next (s.endLaunch launch 2)
  else match s.placed? launch with
  | some t =>
    if s.launches.any fun e => e.1 != launch && s.placesBefore e.1 launch && (s.placed? e.1).isSome then .next s else .next t
  | none => .next s

/-! ## Slices, fences and mirrors (R353, R354, R363) -/

def execSliceExpiry (launch gang : Nat) (s : State) : Res :=
  match mapGet? (s.launch launch).gangs gang with
  | some g => .next (if g.resident ∧ (s.launch launch).prio < 23 then
      s.modLaunch launch fun x => { x with gangs := mapSet x.gangs gang { g with sliceOver := true } } else s)
  | none => .next s
/-- The wait fences that hold now and were not known to hold. A value that arrives poisoned does not meet its fence. -/
def State.newFences (s : State) (i : Nat) : List Nat :=
  let x := s.launch i
  if x.phase = .admitted then
    ([0, 1, 2, 3].flatMap fun k => x.desc.fencesOf k 0).filterMap fun e =>
      let ps := s.placesAt x.asid e.2.1.toNat 8
      if !x.fencesMet.contains e.1 && !ps.any s.placePoisoned && decide (e.2.2.toNat ≤ ofBytes (ps.map s.placeByte)) then some e.1 else none
  else []
def execFenceWaitPoll (launch : Nat) (s : State) : Res :=
  .next (if (s.newFences launch).isEmpty then s
    else s.modLaunch launch fun x => { x with fencesMet := x.fencesMet ++ s.newFences launch })
/-- R363: the stage whose next index waits for the follower. -/
def State.mirrorStage? (s : State) (i : Nat) : Option Nat :=
  let x := s.launch i
  if x.phase = .admitted ∧ x.closed = false then
    x.stages.find? fun k => (x.grid k).started && decide ((x.grid k).next < (x.shape k).ngang) && !s.mirrorOk x k (x.grid k).next
  else none
def execGangIndexMirror (launch : Nat) (s : State) : Res :=
  match s.mirrorStage? launch with
  | some k => .next (s.modLaunch launch fun x => { x with grids := mapMod x.grids k {} fun g => { g with mirror := g.mirror + 8 } })
  | none => .next s

end Sys2Proof.Machine
end

