-- ==== Sys2Proof/Machine/Preempt.lean ====
section
/-! DEFINITION. The choice of victims (R360). -/

namespace Sys2Proof.Machine

/-- A resident gang that may be saved to make room. -/
structure Victim where
  launch : Nat
  key : Nat
  prio : Nat
  sliceOver : Bool
  placed : Nat
  deriving DecidableEq, Repr

/-- R360: gangs of other launches below X's effective priority, or at it with an expired slice below level 23. -/
def State.victims (s : State) (i : Nat) : List Victim :=
  let p := s.effPrio i
  s.launches.flatMap fun e =>
    let q := s.effPrio e.1
    if e.1 = i ∨ e.2.phase ≠ .admitted then []
    else (e.2.gangs.filter fun g => g.2.resident && !g.2.completed && (decide (q < p) || (q == p && decide (q < 23) && g.2.sliceOver))).map
      fun g => { launch := e.1, key := g.1, prio := q, sliceOver := g.2.sliceOver, placed := g.2.placed }
/-- The gangs that are saved with a victim. -/
def State.unitOf (s : State) (v : Victim) : List (Nat × Nat) := ((s.launch v.launch).unit v.key).map fun k => (v.launch, k)
/-- The state as it would be without some gangs. -/
def State.without (s : State) (gs : List (Nat × Nat)) : State :=
  { s with
    warps := s.warps.map fun e => if gs.contains (e.2.launch, e.2.gang) then (e.1, { e.2 with resident := false }) else e
    wgs := s.wgs.map fun e => if gs.contains (e.2.launch, e.2.gang) then (e.1, { e.2 with resident := false }) else e }
/-- The sublists of a length. -/
def sublistsOf {α : Type} : List α → Nat → List (List α)
  | _, 0 => [[]]
  | [], _ + 1 => []
  | x :: xs, n + 1 => (sublistsOf xs n).map (x :: ·) ++ sublistsOf xs (n + 1)
/-- R360: a victim that has a workgroup on a footprint, its whole unit counted. -/
def State.touches (s : State) (f : List Nat) (v : Victim) : Bool :=
  s.wgs.any fun e => e.2.resident && f.contains e.2.core && (s.unitOf v).contains (e.2.launch, e.2.gang)
/-- The smallest sets of victims whose removal makes a footprint usable. -/
def State.victimSets (s : State) (f : List Nat) (ns : List Need) (vs : List Victim) : List (List Victim) :=
  let near := vs.filter (s.touches f)
  ((List.range (near.length + 1)).findSome? fun k =>
    let ok := (sublistsOf near k).filter fun c => (f.zip ns).all fun e => (s.without (c.flatMap s.unitOf)).meets e.1 e.2
    if ok.isEmpty then none else some ok).getD []
/-- R360: the precedence: the lowest highest priority, then the fewest unexpired slices, then the youngest placement. -/
def victimKey (c : List Victim) : Nat × Nat × Nat :=
  (c.foldl (fun a v => max a v.prio) 0, c.countP fun v => !v.sliceOver, c.foldl (fun a v => max a v.placed) 0)
def keyBefore (a b : Nat × Nat × Nat) : Bool :=
  decide (a.1 < b.1 ∨ a.1 = b.1 ∧ (a.2.1 < b.2.1 ∨ a.2.1 = b.2.1 ∧ b.2.2 < a.2.2))
def State.bestVictims? (s : State) (dies : Nat) (ns : List Need) (vs : List Victim) : Option (List Victim) :=
  ((anchors dies ns.length).flatMap fun f => s.victimSets f ns vs).foldl (fun a c => match a with
    | some b => if keyBefore (victimKey c) (victimKey b) then some c else a
    | none => some c) none
/-- Victims for one gang of a unit, on top of those already chosen. -/
def State.makeRoom (s : State) (i : Nat) (a : Option (State × List (Nat × Nat))) (key : Nat) : Option (State × List (Nat × Nat)) :=
  a.bind fun a => match a.1.placeOne? i key with
    | some t => some (t, a.2)
    | none => (a.1.bestVictims? (s.launch i).desc.dies (a.1.needs i key) (a.1.victims i)).bind fun c =>
      let out := c.flatMap a.1.unitOf
      ((a.1.without out).placeOne? i key).map fun t => (t, a.2 ++ out)
/-- The gangs to save for a launch whose next gangs have no usable footprint. -/
def State.toSave (s : State) (i : Nat) : List (Nat × Nat) :=
  match s.nextUnit i with
  | [] => []
  | u =>
    if (s.placed? i).isSome || s.launches.any fun e => e.2.gangs.any fun g => g.2.draining then []
    else match u.foldl (s.makeRoom i) (some (s, [])) with
      | some (_, gs) => gs.eraseDups
      | none => []
/-- R354, R361: a launch that comes before this one can be placed, or room can be made for it. -/
def State.preemptOutranked (s : State) (i : Nat) : Bool :=
  s.launches.any fun e => e.1 != i && s.ranksBefore e.1 i && ((s.placed? e.1).isSome || !(s.toSave e.1).isEmpty)
/-- R360, R416: the victims start to drain. -/
def execPreemption (launch : Nat) (s : State) : Res :=
  match s.toSave launch with
  | [] => .next s
  | gs => if s.preemptOutranked launch then .next s else .next ((gs.foldl (fun (s : State) g => s.startDrain g.1 g.2) s).modLaunch launch fun x =>
    { x with claim := (gs.map Prod.fst).eraseDups })

end Sys2Proof.Machine
end

