-- ==== Sys2Proof/Machine/Reliability.lean ====
section
/-! DEFINITION. Errors: their codes, counts and windows (R458 to R461), retirement (R462 to R465), timeouts (R466, R478), the
failure of a die (R316, R333, R364, R467).

A unit is numbered by its class (R461) times 2^32 plus the unit code of an error record (R468): [4:0] column, [7:5] row,
[8] layer, [11:9] port; a die-link group by its number, row plus 8 times layer. -/

namespace Sys2Proof.Machine

/-! ## Units -/

def unitClass (u : Nat) : Nat := u / 2 ^ 32
def unitCode (u : Nat) : Nat := u % 2 ^ 32
/-- The slice or core at a router: 96 times the die, plus its place in the die's grid (R319, R355, R455). -/
def unitSite (u : Nat) : Nat :=
  let c := bits u 0 5
  96 * (c / 12) + 12 * bits u 5 3 + c % 12
/-- The code of a site on a layer. -/
def siteCode (site layer : Nat) : Nat := 12 * (site / 96) + site % 96 % 12 + 32 * (site % 96 / 12) + 256 * layer
/-- The unit of the slice that is home to a line (R170, R392). -/
def lineUnit (pa : Nat) : Nat := 3 * 2 ^ 32 + siteCode (Config.lineHome (pa / 128) % 192) 1
/-- A router of the package mesh (R455). -/
def routerLegal (u : Nat) : Bool := decide (bits u 0 5 < 24)
/-- R461: a unit that the device has. -/
def unitLegal (u : Nat) : Bool :=
  let c := unitCode u
  match unitClass u with
  | 0 => routerLegal c && decide (bits c 9 23 < 4) && !(bits c 9 3 == 0 && (bits c 0 5 == 11 || bits c 0 5 == 23))
      && !(bits c 9 3 == 1 && (bits c 0 5 == 0 || bits c 0 5 == 12)) && !(bits c 9 3 == 2 && bits c 5 3 == 0)
      && !(bits c 9 3 == 3 && bits c 5 3 == 7)
  | 1 => routerLegal c && bits c 9 23 == 4
  | 2 => decide (c < 16)
  | 3 => routerLegal c && bits c 8 24 == 1
  | 4 => routerLegal c && bits c 8 24 == 0
  | 5 => true
  | _ => false
def State.unit (s : State) (u : Nat) : UnitCount := mapGet s.dev.units u {}
def State.setUnit (s : State) (u : Nat) (x : UnitCount) : State := { s with dev := { s.dev with units := mapSet s.dev.units u x } }
/-- R461: the thresholds of the unit's window. -/
def State.unitThr (s : State) (u : Nat) : Word := (s.unit u).thr.getD (mapGet rasDefaults (unitClass u) 0)

/-! ## Links (R462, R463) -/

/-- The router a port leads to, and the unit of the link: north is the row below in number. -/
def linkFrom (r port : Nat) : Option (Nat × Nat) :=
  let c := bits r 0 5
  let y := bits r 5 3
  let up (k : Nat) (v : Nat) : Option (Nat × Nat) := some (v, k * 2 ^ 32 + r + 512 * port)
  let die (v : Nat) : Option (Nat × Nat) := some (v, 2 * 2 ^ 32 + y + 8 * bits r 8 1)
  match port with
  | 0 => if c = 23 then none else if c = 11 then die (r + 1) else up 0 (r + 1)
  | 1 => if c = 0 then none else if c = 12 then die (r - 1) else up 0 (r - 1)
  | 2 => if y = 0 then none else up 0 (r - 32)
  | 3 => if y = 7 then none else up 0 (r + 32)
  | _ => up 1 (if r < 256 then r + 256 else r - 256)
/-- One more round of a search from routers that are reached. -/
def reachStep (ok : Nat → Bool) (seen : List Nat) : List Nat :=
  (seen ++ seen.flatMap fun r => (List.range 5).filterMap fun p => match linkFrom r p with
    | some (v, u) => if ok u then some v else none
    | none => none).eraseDups
def reach (ok : Nat → Bool) : Nat → List Nat → List Nat
  | 0, seen => seen
  | n + 1, seen =>
    let next := reachStep ok seen
    if next.length = seen.length then seen else reach ok n next
/-- The routers between which a link leads, in its direction; a die-link group leads both ways. -/
def linkEnds (u : Nat) : List (Nat × Nat) :=
  let c := unitCode u
  if unitClass u = 2 then
    let r := 11 + 32 * (c % 8) + 256 * (c / 8)
    [(r, r + 1), (r + 1, r)]
  else match linkFrom (c % 512) (c / 512) with
    | some (v, _) => [(c % 512, v)]
    | none => []
/-- R462: without the link, its far router can still be reached. -/
def State.detour (s : State) (u : Nat) : Bool :=
  (linkEnds u).all fun e => (reach (fun k => k != u && !(s.unit k).retired) 384 [e.1]).contains e.2

/-! ## Retirement of slices and cores (R464, R465) -/

/-- R464: the slice that serves a retired slice's indices: the next enabled one of its row on its die, or the previous
one. -/
def State.standIn? (s : State) (site : Nat) : Option Nat :=
  let ok (k : Nat) : Bool := !(s.unit (3 * 2 ^ 32 + siteCode k 1)).retired
  let row := site / 12 * 12
  let right := ((List.range 12).map fun i => row + i).find? fun k => decide (site < k) && ok k
  match right with
  | some k => some k
  | none => ((List.range 12).reverse.map fun i => row + i).find? fun k => decide (k < site) && ok k
/-- R323, R468: an entry is marked poisoned, with its record. -/
def State.poisonKey (s : State) (e : KeyEntry) : State :=
  let asid := match e.tag with
    | .priv i _ => (s.launch i).asid
    | .shared _ => 0
  (s.setKey { e with poisoned := true }).logError 6 7 (siteCode (s.keySlice e.key) 1) e.key.toNat asid
    ((s.unit (3 * 2 ^ 32 + siteCode (s.keySlice e.key) 1)).uncorrected)
/-- R322, R464 step 3: an entry arrives in its set at the new slice, before some others that are still to move. -/
def State.moveKey (s : State) (e : KeyEntry) (rest : List KeyEntry) : State :=
  let moves (x : KeyEntry) : Bool := (e :: rest).any fun y => y.tag == x.tag && y.key == x.key
  let here := s.keys.filter fun x => x.overflow.isNone && !x.placeless && !moves x && s.sameSet x.key e.key
  if here.length < 8 then s
  else match s.overflowPlace e.key with
    | some p => (s.setKey { e with overflow := some p }).touchPlace p
    | none => s.poisonKey { e with placeless := true }
def State.moveKeys (s : State) : List KeyEntry → State
  | [] => s
  | e :: rest => (s.moveKey e rest).moveKeys rest
/-- R464: a slice is retired. -/
def State.retireSlice (s : State) (site target : Nat) : State :=
  let moved := s.keys.filter fun e => e.overflow.isNone && s.keySlice e.key == site
  let s : State := { s with dev := { s.dev with
    remap := (List.range 192).foldl (fun m k => if s.sliceAt k = site then mapSet m k target else m) s.dev.remap } }
  s.moveKeys moved
/-- R465: a core is retired: its gangs drain as victims of pre-emption do. -/
def State.retireCore (s : State) (core : Nat) : State :=
  let s := s.modCore core fun c => { c with retired := true }
  let keys := ((s.wgs.filter fun e => e.2.core == core && e.2.resident && !e.2.ended).flatMap fun e =>
    ((s.launch e.2.launch).unit e.2.gang).map fun k => (e.2.launch, k)).eraseDups
  (keys.filter fun k => !(mapGet (s.launch k.1).gangs k.2 {}).draining).foldl (fun s k => s.startDrain k.1 k.2) s

/-! ## The failure of a die (R316, R333, R364, R467) -/

/-- A warp of the failed die runs no more. It has not ended: its lanes hold until its launch is ended. -/
def Warp.die (x : Warp) : Warp :=
  { x.mapLanes (fun _ y => if y.status = .done then y else { y with status := .hold, wait := .none, trap := none }) with
    resident := false, drain := .none, latch := [], chain := none }
/-- Any of some units are kept. -/
def State.keepSome {α : Type} (s : State) (xs : List α) : List α × State :=
  xs.foldl (fun a x => let r := a.2.choose 2; (if r.1 = 0 then a.1 ++ [x] else a.1, r.2)) ([], s)
/-- R365: what a lost warp, or the copy engine or an address program of a lost workgroup, had on its way either was performed or was
not, one single-copy atomic unit at a time; its requests are gone. -/
def State.loseFlight (s : State) (f : Flight) : State :=
  match f.kind with
  | .ordReq .. => s.dropFlight f.id
  | .store ps bad =>
    let r := s.keepSome ps
    if r.1.isEmpty then r.2.dropFlight f.id else r.2.setFlight { f with kind := .store r.1 bad }
  | .put t bs bad c n =>
    let r := s.keepSome (bs.map fun b => b.1 / 16).eraseDups
    let q := r.2.choose 2
    q.2.setFlight { f with kind := .put t (bs.filter fun b => r.1.contains (b.1 / 16)) bad c (if q.1 = 0 then n else 0) }
  | .copy c =>
    let r := s.keepSome c.elems
    if c.start?.isNone ∨ r.1 = [] then r.2.dropFlight f.id else r.2.setFlight { f with kind := .copy { c with elems := r.1 } }
  | _ => let r := s.choose 2; if r.1 = 0 then r.2 else r.2.dropFlight f.id
/-- R333: the entries homed on the die are lost, with a record for each shared domain among them. -/
def State.loseKeys (s : State) : State :=
  let gone := s.keys.filter fun e => s.keyLost e.key
  let doms := (gone.filterMap fun e => match e.tag with
    | .shared n => some n
    | _ => none).eraseDups
  let s : State := { s with keys := s.keys.filter fun e => !s.keyLost e.key }
  doms.foldl (fun s n => match gone.find? fun e => e.tag == .shared n with
    | some e => s.logError 6 6 (siteCode (s.keySlice e.key) 1) e.key.toNat n
        ((s.unit (3 * 2 ^ 32 + siteCode (s.keySlice e.key) 1)).uncorrected)
    | none => s) s
/-- R364: what becomes of an admitted launch. -/
def Launch.dieFails (x : Launch) (die : Nat) : Launch :=
  if x.phase != .admitted && x.phase != .ending then x
  else
    let dies := x.desc.dies
    let gangs := x.gangs.map fun e => (e.1, if e.2.die = die ∧ e.2.completed = false then { e.2 with draining := false, resident := false } else e.2)
    if dies = die + 1 then { x with phase := .ending, causes := markSet x.causes 5, gangs := gangs }
    else if dies = 0 then { x with causes := markSet x.causes 5, gangs := gangs, grace := true }
    else x
def State.failDie (s : State) (die : Nat) : State :=
  let s : State := ({ s with dev := { s.dev with diesFailed := die :: s.dev.diesFailed } } : State).logError 7 5 die 0 0 0
  let hit (w : Warp) : Bool := w.core / 96 == die && w.resident && !w.ended
  let lost := (s.warps.filter fun e => hit e.2).map Prod.fst
  let s : State := { s with warps := s.warps.map fun e => (e.1, if hit e.2 then e.2.die else e.2) }
  let s := (s.flights.filter fun f => lost.contains f.warp || (f.isCopy && s.wgLost f.wg)).foldl State.loseFlight s
  let s : State := { s with
    cores := s.cores.map fun e => (e.1, if e.1 / 96 = die then { e.2 with flint := [] } else e.2)
    launches := s.launches.map fun e => (e.1, e.2.dieFails die) }
  s.loseKeys
def execDieFailure (die : Nat) (s : State) : Res :=
  .next (if die < 2 ∧ s.dev.diesFailed.contains die = false then s.failDie die else s)
/-- R364: the time of the remaining gangs is over; their warps are ended, and the launch completes with status 5. -/
def execDieFailureGraceEnd (launch : Nat) (s : State) : Res :=
  .next (if (s.launch launch).grace = true ∧ (s.launch launch).phase = .admitted then s.endLaunch launch 5 else s)

/-! ## Counts and windows (R461) -/

/-- The unit is retired, or its retirement refused, with a record; the last group of the die link fails a die (R462, R467). -/
def State.retire (s : State) (u : Nat) : State :=
  let x := s.unit u
  let out (s : State) : State := (s.setUnit u { s.unit u with retired := true }).logError (unitClass u) 2 (unitCode u) 0 0 x.corrected
  let refuse := s.logError (unitClass u) 3 (unitCode u) 0 0 x.uncorrected
  if x.retired then s
  else match unitClass u with
    | 2 =>
      let t := out s
      if (List.range 16).all fun g => (t.unit (2 * 2 ^ 32 + g)).retired then
        let r := t.choose 2
        if t.dev.diesFailed.isEmpty then r.2.failDie r.1 else t
      else if s.detour u then t else refuse
    | 3 => match s.standIn? (unitSite (unitCode u)) with
      | some k => (out s).retireSlice (unitSite (unitCode u)) k
      | none => refuse
    | 4 => (out s).retireCore (unitSite (unitCode u))
    | 5 => s
    | _ => if s.detour u then out s else refuse
/-- A corrected error: it is only counted. -/
def State.countCorrected (s : State) (u : Nat) : State :=
  let x := s.unit u
  let s := s.setUnit u { x with corrected := x.corrected + 1 }
  if wbits (s.unitThr u) 0 16 = x.corrected + 1 then s.retire u else s
/-- An uncorrectable error: its record, its count and the retirement that the count brings. -/
def State.countUncorrected (s : State) (u addr asid : Nat) : State :=
  let x := s.unit u
  let s := (s.setUnit u { x with uncorrected := x.uncorrected + 1 }).logError (unitClass u) 1 (unitCode u) addr asid (x.uncorrected + 1)
  if wbits (s.unitThr u) 16 16 = x.uncorrected + 1 then s.retire u else s
def execErrorWindowEnd (unit : Nat) (s : State) : Res :=
  .next (if unitLegal unit then
    s.setUnit unit { s.unit unit with corrected := 0, uncorrected := 0, thr := some (mapGet s.dev.rasThr (unitClass unit) 0) }
  else s)

/-! ## Flits (R458) -/

/-- A load whose reply arrives marked, or does not arrive in time. -/
def State.poisonLoad (s : State) (f : Flight) : State :=
  match f.kind with
  | .load ps _ signed dst uniform => (s.acquire f).finishLoad f ps signed dst uniform (ps.map fun _ => 0) true
  | _ => s
/-- The values of an atomic that is done arrive marked, or not in time. -/
def State.poisonReply (s : State) (f : Flight) (bits dst : Nat) : State :=
  s.finishLoad f [] false dst false ((List.range (bits / 8)).map fun _ => 0) true
/-- One of the sectors that some places lie in: a flit carries one. -/
def State.oneSector (s : State) (ps : List Place) : List Place × State :=
  let r := s.choose ps.length
  (match ps[r.1]? with
    | some p => ps.filter (sameGranule p)
    | none => [], r.2)
/-- A data payload of an access arrives marked poisoned (R459): a load returns it; what is on its way to its home carries
the mark of the sector on. -/
def State.poisonFlight (s : State) (f : Flight) : State :=
  let mark (ps : List Place) (kind : List Place → FlightKind) : State :=
    (s.oneSector ps).2.setFlight { f with kind := kind (s.oneSector ps).1 }
  match f.kind with
  | .load .. => if s.canPerform f then s.poisonLoad f else s
  | .store ps bad => mark (ps.flatten.map Prod.fst) fun hurt => .store ps (bad ++ hurt)
  | .rawMerge ps e => s.setFlight { f with kind := .rawMerge ps { e with pois := true } }
  | .valueAdd ps c x _ => s.setFlight { f with kind := .valueAdd ps c x true }
  | .put t bs p c n => mark (bs.map fun b => .sp t b.1) fun hurt =>
      .put t bs (p ++ (bs.map Prod.fst).filter fun o => hurt.contains (.sp t o)) c n
  | .launchCopy p n d _ => s.setFlight { f with kind := .launchCopy p n d true }
  | .atomic ps op n x y (some d) =>
    if s.canPerform f then (s.performAtomic { f with kind := .atomic ps op n x y none }).poisonReply f n d else s
  | .copy c => match c.start? with
    | some a => if s.canPerform f && !s.programWaits f c then s.landElement f c a true else s
    | none => s
  | _ => s
/-- The places of the access that comes next: of a copy, those of its next element. -/
def State.nextPlaces (s : State) (f : Flight) : List Place := match f.kind with
  | .copy c => (c.elems[(s.nextElem c).1]?.map Prod.fst).getD []
  | _ => f.places
def Place.isMem : Place → Bool
  | .mem .. => true
  | _ => false
/-- The virtual line of some places, and the ASID of their launch; `ea` where none of them lies in global memory. -/
def State.lineAt (s : State) (wg : Nat) (ea : DWord) (ps : List Place) : Nat × Nat :=
  ((match ps.find? Place.isMem with
    | some p => p.va
    | none => ea.toNat) / 128 * 128, (s.launch (s.wg wg).launch).asid)
/-- The virtual line of an access, and its ASID. -/
def State.lineOf (s : State) (f : Flight) : Nat × Nat := s.lineAt f.wg f.ea (s.nextPlaces f)
/-- R458, R466: the sector that a warp's next fetch, or the next of its instructions that read memory as they issue, reads will arrive
marked. `x` is 2^11 times the warp, plus twice the sector's place among those read, plus 1 for a fetch. -/
def State.arm (s : State) (x : Nat) (unit : Option Nat) : State :=
  if (mapGet? s.warps (x / 2 ^ 11)).isSome then
    { s with armed := s.armed ++ [{ warp := x / 2 ^ 11, unit := unit, fetch := bitAt x 0, sector := x / 2 % 2 ^ 10 }] }
  else s
/-- `outcome` mod 8: 1 a correction, 2 a header or another message uncorrectable and sent again, 3 a data payload
uncorrectable, 4 the sixteenth failed replay; 3 names the access by `outcome` div 8, 5 a warp's next such read as `State.arm` does. -/
def execFlitReceive (unit outcome : Nat) (s : State) : Res :=
  if unitLegal unit && decide (unitClass unit < 3) then
    .next (match outcome % 8 with
      | 1 => s.countCorrected unit
      | 2 => s.countUncorrected unit 0 0
      | 3 => match s.flight? (outcome / 8) with
        | some f => (s.poisonFlight f).countUncorrected unit (s.lineOf f).1 (s.lineOf f).2
        | none => s.countUncorrected unit 0 0
      | 4 => (s.countUncorrected unit 0 0).retire unit
      | 5 => s.arm (outcome / 8) (some unit)
      | _ => s)
  else .next s

/-! ## Storage (R460) -/

/-- What an uncorrectable error leaves. `place` mod 8: 0 an item of a warp (`x` = 2^16 times the warp plus the item of
`Warp.bad`), 1 a scratchpad granule (2^20 times the workgroup), 2 a line's granule or an HBM sector, 3 a scale entry (2^20
times the workgroup), 4 an accumulator element (likewise), 5 an entry of the key table, by its place in the list, 6 a line of a CXL
expander, which reports the poison itself (R478, R486). -/
def State.spoil (s : State) (place : Nat) : State :=
  let x := place / 8
  let g := x / 2 ^ 20
  let k := x % 2 ^ 20
  match place % 8 with
  | 0 => if (mapGet? s.warps (x / 2 ^ 16)).isSome then s.modWarp (x / 2 ^ 16) fun w => { w with bad := markSet w.bad (x % 2 ^ 16) } else s
  | 1 => if (mapGet? s.wgs g).isSome then s.modWg g fun w => { w with spPoison := markSet w.spPoison k } else s
  | 2 => { s with poison := markSet s.poison x }
  | 3 => if (mapGet? s.wgs g).isSome then s.modWg g fun w => { w with scalePoison := markSet w.scalePoison k } else s
  | 4 => if k < 64 * (s.wg g).tiles then
      s.modWg g fun w => { w with region := mapSet w.region k { mapGet w.region k Ace.cleared with pois := true } }
    else s
  | 5 => match s.keys[x]? with
    | some e => s.poisonKey e
    | none => s
  | 6 => match s.route (64 * x) with
    | .cxl n => { s with dev := { s.dev with cxl := mapMod s.dev.cxl n {} fun c => { c with poisoned := markSet c.poisoned x } } }
    | _ => s
  | _ => s
/-- R468: the virtual line, and the ASID, of a granule of memory that an error spoils, where a page that maps it is known. -/
def State.spoiltLine (s : State) (place : Nat) : Nat × Nat :=
  let pa := 32 * (place / 8)
  if place % 8 = 2 then match s.pins.find? fun p => p.ppage == pa / 4096 with
    | some p => (4096 * p.vpage + pa % 4096 / 128 * 128, p.asid)
    | none => (0, 0)
  else (0, 0)
/-- `grade` 0 is correctable. What an expander reports counts nowhere and leaves no record (R486). -/
def execStorageError (unit place grade : Nat) (s : State) : Res :=
  if unitLegal unit && decide (3 ≤ unitClass unit) then
    let l := s.spoiltLine place
    .next (if place % 8 = 6 then s.spoil place else if grade = 0 then s.countCorrected unit else (s.spoil place).countUncorrected unit l.1 l.2)
  else .next s

/-! ## Timeouts (R466, R473, R478) -/

/-- The parts that are left of a store are performed. -/
def State.performParts (s : State) (f : Flight) : State :=
  match f.kind with
  | .store ps _ => ps.foldl (fun s _ => match s.flight? f.id with
    | some g => s.performStore g
    | none => s) s
  | _ => s
/-- What is left of a put lands. -/
def State.landPieces (s : State) (f : Flight) : State :=
  match f.kind with
  | .put _ bs _ _ _ => (List.range (bs.length + 1)).foldl (fun s _ => match s.flight? f.id with
    | some g => s.landPut g
    | none => s) s
  | _ => s
/-- One element of a copy times out: a read lands marked; a write was performed or (`lost` is 0) not. -/
def State.timeOutAt (s : State) (f : Flight) (c : CopyCmd) (start lost i : Nat) : State :=
  if c.store then (if lost = 0 then s.dropAt f c i else s.landAt f c start false i) else s.landAt f c start true i
/-- R466: a read completes as poisoned; a write counts as acknowledged, and each unit of it was performed or not. An element of a
copy is one read or one write. -/
def State.timeOut (s : State) (f : Flight) : State :=
  let r := s.choose 2
  match f.kind with
  | .load .. => s.poisonLoad f
  | .store ps bad =>
    let k := s.keepSome ps
    if k.1.isEmpty then k.2.dropFlight f.id
    else
      let f := { f with kind := .store k.1 bad }
      (k.2.setFlight f).performParts f
  | .atomic ps op n x y (some d) =>
    (if r.1 = 0 then r.2.dropFlight f.id else r.2.performAtomic { f with kind := .atomic ps op n x y none }).poisonReply f n d
  | .atomic _ _ _ _ _ none => if r.1 = 0 then r.2.dropFlight f.id else r.2.performAtomic f
  | .rawMerge .. => if r.1 = 0 then r.2.dropFlight f.id else r.2.performMerge f
  | .valueAdd .. => if r.1 = 0 then r.2.dropFlight f.id else r.2.performValueAdd f
  | .ordLeave .. => if r.1 = 0 then r.2.dropFlight f.id else r.2.leaveKey f
  | .launchCopy p n d _ => s.setFlight { f with kind := .launchCopy p n d true }
  | .copy c => match c.start? with
    | some a => r.2.timeOutAt f c a r.1 (r.2.nextElem c).1
    | none => s
  | .put .. => (s.loseFlight f).landPieces f
  | _ => s
/-- Accesses that a requester waits for. A request for a section that waits at its home is not among them (log entry 48). -/
def Flight.timed (f : Flight) : Bool := match f.kind with
  | .ordReq .. => false
  | .fence .. => false
  | .launchCopy _ _ _ poison => !poison
  | .copy c => c.start?.isSome && !c.elems.isEmpty
  | _ => true
/-- An access whose bytes all lie in its own workgroup's scratchpad leaves no core. -/
def Flight.leaves (f : Flight) : Bool := match f.kind with
  | .ordLeave .. => true
  | .launchCopy .. => true
  | .put target .. => target != f.wg
  | _ => !(physOf f.places).isEmpty
/-- The slice, or for a put the core, that an access to some places waits for. -/
def State.homeUnit (s : State) (f : Flight) (ps : List Place) : Nat := match f.kind with
  | .ordLeave _ key _ _ => 3 * 2 ^ 32 + siteCode (s.keySlice key) 1
  | .put target .. => 4 * 2 ^ 32 + siteCode (s.wg target).core 0
  | _ => lineUnit ((physOf ps).headD 0)
/-- R468: the record of a timeout at a unit. -/
def State.logTimeout (s : State) (u : Nat) (at_ : Nat × Nat) : State :=
  s.logError (unitClass u) 4 (unitCode u) at_.1 at_.2 (s.unit u).uncorrected
def State.timeOutLogged (s : State) (f : Flight) : State :=
  let ps := (s.choose 2).2.nextPlaces f
  (s.timeOut f).logTimeout (s.homeUnit f ps) (s.lineAt f.wg f.ea ps)
/-- Nothing that the access waits for holds it back, so that it is under way to its home. -/
def State.underWay (s : State) (f : Flight) : Bool := s.canPerform f && match f.kind with
  | .copy c => !s.programWaits f c
  | .ordLeave .. => !s.abandonWaits f
  | _ => true
/-- From 2^40 on, the number names a warp whose next such read is to time out, as `State.arm` does. -/
def execAccessTimeout (f : Nat) (s : State) : Res :=
  if 2 ^ 40 ≤ f then .next (s.arm (f - 2 ^ 40) none)
  else match s.flight? f with
  | some x => .next (if x.timed && x.leaves && !x.toCore && s.underWay x then s.timeOutLogged x else s)
  | none => .next s

/-- Some places that route to a port. -/
def State.through (s : State) (r : Route) (ps : List Place) : Bool := (physOf ps).any fun pa => s.route pa == r
/-- The command of an access that is a copy. -/
def Flight.command? (f : Flight) : Option CopyCmd := match f.kind with
  | .copy c => some c
  | _ => none
/-- The elements of a copy that route to a port, from the last to the first: which of them are on their way is open. -/
def State.elemsThrough (s : State) (r : Route) (f : Flight) (act : State → Flight → CopyCmd → Nat → Nat → State) : State :=
  let one (t : State) (i : Nat) : Option State := do
    let g ← t.flight? f.id
    let d ← g.command?
    let a ← d.start?
    let e ← d.elems[i]?
    if t.through r e.1 && t.underWay g && (t.choose 2).1 == 0 then some (act (t.choose 2).2 g d a i) else some (t.choose 2).2
  (List.range ((f.command?.map fun c => c.elems.length).getD 0)).reverse.foldl (fun t i => (one t i).getD t) s
/-- R478: before the port is isolated, each sector of a write that is on its way to it may be performed. -/
def State.splitStore (s : State) (port : Nat) (f : Flight) : State :=
  match f.kind with
  | .store ps bad =>
    let here := ps.flatten.filterMap fun b => match b.1 with
      | .mem pa _ => if s.route pa = .cxl port then some (pa, b.2) else none
      | _ => none
    if !f.toCore && s.canPerform f then
      (granules 32 (here.map Prod.fst)).foldl (fun s g =>
        let r := s.choose 2
        if r.1 = 0 then r.2 else r.2.physWrite (here.filter fun c => c.1 / 32 == g) (bad.any (sameGranule (.mem (32 * g))))) s
    else s
  | .copy c => if c.store then s.elemsThrough (.cxl port) f fun t g d a i => t.landAt g d a false i else s
  | _ => s
/-- R478: once the port is isolated, each read on its way to it completes as poisoned: now, where it had been sent. -/
def State.poisonRead (s : State) (port : Nat) (f : Flight) : State :=
  let sent := s.through (.cxl port) f.places && s.underWay f && (s.choose 2).1 == 0
  match f.kind with
  | .load .. => if sent then (s.choose 2).2.poisonLoad f else s
  | .atomic .. => if sent then (s.choose 2).2.performAtomic f else s
  | .rawMerge .. => if sent then (s.choose 2).2.performMerge f else s
  | .valueAdd .. => if sent then (s.choose 2).2.performValueAdd f else s
  | .copy c => if c.store then s else s.elemsThrough (.cxl port) f fun t g d a i => t.landAt g d a true i
  | _ => s
/-- The port is isolated: reads return poison from then on, those on their way too. Its link has to train again (log entry 90). -/
def execCxlReadTimeout (port : Nat) (s : State) : Res :=
  if port < 4 ∧ (s.cxlPort port).isolated = false then
    let s := s.flights.foldl (State.splitStore · port) s
    let c := s.cxlPort port
    let s : State := { s with dev := { s.dev with cxl := mapSet s.dev.cxl port {
      c with ctl := c.ctl ||| 0x40, stat := c.stat &&& 0xFFFFFFFE, trained := false } } }
    .next ((s.flights.foldl (State.poisonRead · port) s).logError 8 8 port 0 0 0)
  else .next s
/-- R478: CLR ends isolation once the link has trained. -/
def State.clearIsolation (s : State) (port : Nat) : State :=
  let c := s.cxlPort port
  if c.trained then { s with dev := { s.dev with cxl := mapSet s.dev.cxl port { c with ctl := c.ctl &&& 0xFFFFFFBF } } } else s
def execCxlClearIsolation (port : Nat) (s : State) : Res := .next (if port < 4 then s.clearIsolation port else s)

/-- R466, R473: elements of a copy that are on their way through a port time out, each with its record. -/
def State.failElems (s : State) (port : Nat) (f : Flight) : State :=
  s.elemsThrough (.peer port) f fun t g d a i =>
    let ps := (d.elems[i]?.map Prod.fst).getD []
    ((t.choose 2).2.timeOutAt g d a (t.choose 2).1 i).logTimeout (t.homeUnit g ps) (t.lineAt g.wg g.ea ps)
/-- R473: the accesses on their way through the port fail as timeouts do; of a copy, those of its elements that have been sent. What was
negotiated stays, so that a linked barrier stays held (R314). -/
def execPeerPortDown (port : Nat) (s : State) : Res :=
  if (mapGet s.dev.peers port {}).up then
    let out := s.flights.filter fun f => f.timed && s.through (.peer port) f.places
    let s := out.foldl (fun s f => if f.isCopy then s.failElems port f else s.timeOutLogged f) s
    .next { s with dev := { s.dev with peers := mapMod s.dev.peers port {} fun p => { p with up := false } } }
  else .next s

end Sys2Proof.Machine
end

