-- ==== Sys2Proof/Machine/Device.lean ====
section
/-! DEFINITION. The device register window (R471 to R474, R476, R483), accesses of system agents (R470), links (R472), boot,
attestation, the trip and the debug port (R429, R479 to R483). -/

namespace Sys2Proof.Machine

/-! ## Registers with rules of their own -/

/-- R389: a write that clears EN while some context is valid is ignored. -/
def State.writeAtCtl (s : State) (v : Word) : State :=
  if !v.getLsbD 0 && s.dev.atCtl.getLsbD 0 && (List.range 4096).any fun c => (s.ctx? c).isSome then s
  else { s with dev := { s.dev with atCtl := v &&& 1 } }
def execAtctlWrite (v : Word) (s : State) : Res := .next (s.writeAtCtl v)
/-- R322: the overflow area's registers are not written while an entry lies in it. -/
def State.spilled (s : State) : Bool := s.keys.any fun e => e.overflow.isSome
def State.writeOvfCtl (s : State) (v : Word) : State :=
  let n := wbits v 0 5
  if s.spilled then s
  else { s with dev := { s.dev with
    ovfCtl := if 10 ≤ n ∧ n ≤ 24 then v &&& 0x8000001F else v &&& 0x1F } }
def execOrdovfctlWrite (v : Word) (s : State) : Res := .next (s.writeOvfCtl v)
/-- R483. -/
def capStored (v : Word) : Word := BitVec.ofNat 32 (max 300 (min 2700 (wbits v 0 12)))
def State.writePwrCap (s : State) (v : Word) : State := { s with dev := { s.dev with pwrCap := capStored v } }
def execPwrcapWrite (v : Word) (s : State) : Res := .next (s.writePwrCap v)

/-! ## The window (R5, R6, R342, R471) -/

def lowHalf (x : DWord) (v : Word) : DWord := (x >>> 32).setWidth 32 ++ v
def highHalf (x : DWord) (v : Word) : DWord := v ++ x.setWidth 32
/-- R342, R396, R401, R468: a write into a block of ring registers. `ring` is a ring the device produces into. -/
def QRegs.write (q : QRegs) (ring : Bool) (keep : Word) (off : Nat) (v : Word) : QRegs :=
  match off with
  | 0x00 => if q.enabled then q else { q with baseLo := v &&& 0xFFFFFFC0 }
  | 0x04 => if q.enabled then q else { q with baseHi := v }
  | 0x08 => if ring then q else q.doorbell v
  | 0x0C => if ring then { q with head := v &&& 0xFFFF } else q
  | 0x10 => q.writeCtl v keep
  | _ => q
def QRegs.read (q : QRegs) (off : Nat) (last : Word) : Word :=
  match off with
  | 0x00 => q.baseLo
  | 0x04 => q.baseHi
  | 0x08 => q.tail
  | 0x0C => q.head
  | 0x10 => q.ctl
  | 0x14 => last
  | _ => 0
/-- R476: what a write of CXLCTL stores, ISO apart. -/
def cxlCtlStored (v old : Word) : Word :=
  let t := wbits v 1 5
  BitVec.ofNat 32 (wbits v 0 1 + 2 * (if 12 ≤ t ∧ t ≤ 23 then t else 20)) ||| (old &&& 0x40)
def State.writeCxl (s : State) (n off : Nat) (v : Word) : State :=
  let c := s.cxlPort n
  let put (c : CxlPort) : State := { s with dev := { s.dev with cxl := mapSet s.dev.cxl n c } }
  match off with
  | 0x00 => put { c with base := lowHalf c.base v }
  | 0x04 => put { c with base := highHalf c.base v }
  | 0x08 => put { c with size := lowHalf c.size v }
  | 0x0C => put { c with size := highHalf c.size v }
  | 0x10 =>
    let t := put { c with ctl := cxlCtlStored v c.ctl }
    if v.getLsbD 7 then t.clearIsolation n else t
  | 0x14 => put { c with stat := (c.stat &&& 0xFFFF) ||| (v &&& 0xFFFF0000) }
  | _ => s
def State.bootState (s : State) : Nat := wbits s.dev.fwstat 0 4
/-- R479, R480: the service firmware runs, and with it the parts of the device that it has trained. -/
def State.firmwareRuns (s : State) : Bool := decide (2 ≤ s.bootState ∧ s.bootState ≤ 3)
/-- R62, R244, R326: a write by the service firmware, once it runs, through its own port at level 2, of a system register: `THRESH`, or
`ISSUECTL` of a core, whose number is 2^12 times the core more. -/
def State.serviceWrite (s : State) (n : Nat) (v : Word) : State :=
  if !s.firmwareRuns then s
  else if n = 0x050 then { s with dev := { s.dev with ordQuiet := v &&& 0xFFFF } }
  else if n % 2 ^ 12 = 0x030 ∧ n / 2 ^ 12 < 192 then s.writeIssueCtl (n / 2 ^ 12) v
  else s
/-- R471: the registers marked F, which the service firmware reaches. -/
def firmwareOwns (off : Nat) : Bool :=
  decide (0x100C0 ≤ off ∧ off < 0x100E0) || decide (0x10100 ≤ off ∧ off < 0x10118) || off == 0x10400
/-- The offset that a write has in the window, where it reaches the register. The model gives the service firmware's port the
offsets of the window from 2^33 on (log entry 75). -/
def State.windowOffset? (s : State) (off : Nat) : Option Nat :=
  if 2 ^ 33 ≤ off then if s.firmwareRuns && firmwareOwns (off - 2 ^ 33) then some (off - 2 ^ 33) else none
  else some off
/-- A write of one 32-bit register of the window. The model gives the system registers of the service firmware's port
the offsets from 2^32 on (log entry 75). -/
def State.windowWrite (s : State) (off : Nat) (v : Word) : State :=
  let d := s.dev
  let dev (d : Device) : State := { s with dev := d }
  if 2 ^ 32 ≤ off then s.serviceWrite (off - 2 ^ 32) v
  else if off % 4 ≠ 0 then s
  else if 0x20000 ≤ off ∧ off < 0x40000 then
    let q := (off - 0x20000) / 32
    s.setQueue q ((s.queue q).write false 0x8001FFFF (off % 32) v)
  else if 0x40000 ≤ off ∧ off < 0x40200 then
    dev { d with barLink := mapSet d.barLink ((off - 0x40000) / 4) (v &&& 0x81FFFFFF) }
  else if 0x10040 ≤ off ∧ off < 0x10060 then dev { d with iq := d.iq.write false 0x8000000F (off % 32) v }
  else if 0x10080 ≤ off ∧ off < 0x100A0 then dev { d with rq := d.rq.write true 0x8000000F (off % 32) v }
  else if 0x100C0 ≤ off ∧ off < 0x100E0 then dev { d with el := d.el.write true 0x8000000F (off % 32) v }
  else if 0x10100 ≤ off ∧ off < 0x10118 then dev { d with rasThr := mapSet d.rasThr ((off - 0x10100) / 4) v }
  else if 0x10200 ≤ off ∧ off < 0x10280 then s.writeCxl ((off - 0x10200) / 32) (off % 32) v
  else match off with
    | 0x10000 => dev { d with contextBase := lowHalf d.contextBase v }
    | 0x10004 => dev { d with contextBase := highHalf d.contextBase v }
    | 0x10010 => if d.atCtl.getLsbD 0 then s else dev { d with atBaseLo := v &&& 0xFFFFF000 }
    | 0x10014 => if d.atCtl.getLsbD 0 then s else dev { d with atBaseHi := v &&& 0xFFFFF }
    | 0x10018 => s.writeAtCtl v
    | 0x10020 => if s.spilled then s else dev { d with ovfLo := v &&& 0xFFFFF000 }
    | 0x10024 => if s.spilled then s else dev { d with ovfHi := v &&& 0xFFFFF }
    | 0x10028 => s.writeOvfCtl v
    | 0x10030 => dev { d with shalePart := v &&& 0x3FF }
    | 0x10400 => s.writePwrCap v
    | _ => s
def execRegisterWrite (off : Nat) (v : Word) (s : State) : Res :=
  .next (match s.windowOffset? off with
    | some o => s.windowWrite o v
    | none => s)

/-- R472: word `i` of the device's capability list. -/
def capWord (i : Nat) : Word :=
  match i % 4 with
  | 0 => BitVec.ofNat 32 (i / 4 + 1 + 0x10000)
  | 1 => if i / 4 = 5 then 0 else BitVec.ofNat 32 (0x110 + 0x10 * (i / 4))
  | _ => 0
/-- What the host reads at an offset of the window. -/
def State.windowRead (s : State) (off : Nat) : Word :=
  let d := s.dev
  if off % 4 ≠ 0 then 0
  else if 0x100 ≤ off ∧ off < 0x160 then capWord ((off - 0x100) / 4)
  else if 0x20000 ≤ off ∧ off < 0x40000 then (s.queue ((off - 0x20000) / 32)).read (off % 32) 0
  else if 0x40000 ≤ off ∧ off < 0x40200 then mapGet d.barLink ((off - 0x40000) / 4) 0
  else if 0x10040 ≤ off ∧ off < 0x10060 then d.iq.read (off % 32) (d.iqDone.setWidth 32)
  else if 0x10080 ≤ off ∧ off < 0x100A0 then d.rq.read (off % 32) 0
  else if 0x100C0 ≤ off ∧ off < 0x100E0 then d.el.read (off % 32) d.elDrop
  else if 0x10100 ≤ off ∧ off < 0x10118 then mapGet d.rasThr ((off - 0x10100) / 4) 0
  else if 0x10200 ≤ off ∧ off < 0x10280 then
    let c := s.cxlPort ((off - 0x10200) / 32)
    match off % 32 with
    | 0x00 => c.base.setWidth 32
    | 0x04 => (c.base >>> 32).setWidth 32
    | 0x08 => c.size.setWidth 32
    | 0x0C => (c.size >>> 32).setWidth 32
    | 0x10 => c.ctl
    | 0x14 => c.stat
    | _ => 0
  else match off with
    | 0x0 => 0x100
    | 0x1000 => d.fwstat
    | 0x10000 => d.contextBase.setWidth 32
    | 0x10004 => (d.contextBase >>> 32).setWidth 32
    | 0x10010 => d.atBaseLo
    | 0x10014 => d.atBaseHi
    | 0x10018 => d.atCtl
    | 0x10020 => d.ovfLo
    | 0x10024 => d.ovfHi
    | 0x10028 => d.ovfCtl
    | 0x10030 => d.shalePart
    | 0x10400 => d.pwrCap
    | _ => 0

/-! ## System agents and links (R470, R472) -/

/-- The bytes of a write that lie in HBM. -/
def State.hbmCells (s : State) (addr : Nat) (data : List Byte) : List (Nat × Byte) :=
  (data.zipIdx.map fun e => (addr + e.2, e.1)).filter fun c => s.route c.1 == .hbm
/-- R470: bytes written by the host (agent 0) or through a peer port (agent p + 1) are performed in HBM; an access
without bytes is a read, which changes nothing. A peer needs its link and ID 3. Where the device maps the page other than strong, its
caches may keep the old values. -/
def execSystemAgentAccess (agent addr : Nat) (data : List (BitVec 8)) (s : State) : Res :=
  let linked := agent == 0 || ((mapGet s.dev.peers (agent - 1) {}).up && s.peerHas (agent - 1) 3)
  let cells := s.hbmCells addr data
  .next (if linked then (s.keepPast (fun _ => 0) (cells.map Prod.fst)).physWrite cells false else s)
/-- R472: the walk of a capability list, from an offset: the ID and the VER of each entry. A list that loops ends at the point reached,
as does one of more than 256 entries (the first argument). `list` holds its bytes, as a number. -/
def capWalk (list : Nat) : Nat → List Nat → Nat → List (Nat × Nat)
  | 0, _, _ => []
  | n + 1, seen, off =>
    if off = 0 ∨ seen.contains off = true then []
    else (bits list (8 * off) 16, bits list (8 * off + 16) 8) :: capWalk list n (off :: seen) (bits list (8 * off + 32) 32)
/-- R472: the IDs that both sides list, with the lower of the two VERs: the device lists 1 to 6 at VER 1. Word 0 of the other side is the
offset of its first entry. -/
def negotiated (list : Nat) : List (Nat × Nat) :=
  ((capWalk list 256 [] (bits list 0 32)).filter fun e => decide (1 ≤ e.1 ∧ e.1 ≤ 6)).map fun e => (e.1, min 1 e.2)
/-- A bit for each ID. -/
def idBits (xs : List (Nat × Nat)) : Nat := (List.range 7).foldl (fun a i => if xs.any (·.1 == i) then a + 2 ^ i else a) 0
/-- R472: a link comes up, and the other side's capability list is walked. Ports 0 to 17 are the peers, 18 to 21 the CXL ports, 22 the
adapter's; `list` holds the bytes of the other side's list from its offset 0 on, as a number. -/
def execLinkUp (port list : Nat) (s : State) : Res :=
  let ids := negotiated list
  if port < 18 then .next { s with dev := { s.dev with peers := mapSet s.dev.peers port { up := true, caps := idBits ids } } }
  else if port < 22 then
    let c := s.cxlPort (port - 18)
    let st : Word := match ids.find? fun e => e.1 == 4 with
      | some e => BitVec.ofNat 32 (3 + 4 * e.2)
      | none => 1
    let c := { c with trained := true, stat := (c.stat &&& 0xFFFF0000) ||| st }
    .next { s with dev := { s.dev with cxl := mapSet s.dev.cxl (port - 18) c } }
  else if port = 22 then .next { s with dev := { s.dev with adapter := some (idBits ids) } }
  else .next s

/-! ## Boot and attestation (R479 to R482) -/

/-- The device as after a cold reset; what is still to arrive, and the model's counters, stay. -/
def execColdReset (s : State) : Res :=
  .next { State.reset with tick := s.tick, nextId := s.nextId, inputs := s.inputs }

def State.setFwstat (s : State) (state code : Nat) : State :=
  { s with dev := { s.dev with fwstat := BitVec.ofNat 32 (state + 16 * code) } }
def imageWord (img : List Byte) (off : Nat) : Nat := ofBytes ((img.drop off).take 4)
def sha384 (bs : List Byte) : List Byte := (List.range 48).map (Config.sha384 bs)
/-- R480: what refuses an image, as FWSTAT.CODE; none accepts it. -/
def imageFails? (kind : Nat) (img : List Byte) : Option Nat :=
  let n := imageWord img 12
  if img.length < 160 ∨ imageWord img 0 ≠ 0x4D494653 ∨ imageWord img 4 ≠ kind ∨ n % 64 ≠ 0 ∨ img.length ≠ 160 + n then some 1
  else if sha384 (img.drop 160) ≠ (img.drop 16).take 48 then some 2
  else if Config.verifies (sha384 (img.take 64)) ((img.drop 64).take 96) = false then some 3
  else if imageWord img 8 < Config.fusedSvn kind then some 4
  else none
/-- The image is kept for the attestation report. -/
def State.keepImage (s : State) (kind : Nat) (img : List Byte) : State :=
  { s with dev := { s.dev with
    mailbox := img
    fwDigests := mapSet s.dev.fwDigests kind (sha384 img)
    fwSvn := mapSet s.dev.fwSvn kind (BitVec.ofNat 32 (imageWord img 8)) } }
/-- R480 step 1, by the boot ROM. -/
def execGneissImageLoad (img : List (BitVec 8)) (s : State) : Res :=
  if s.bootState = 0 then
    .next (match imageFails? 1 img with
      | some c => s.setFwstat 15 c
      | none => (s.keepImage 1 img).setFwstat 1 0)
  else .next s
/-- R480 step 4: DISJ is cleared on every core. -/
def State.enterService (s : State) : State :=
  { s with cores := (List.range 192).foldl (fun m c =>
      mapMod m c {} fun x => { x with issueCtl := x.issueCtl &&& 0xFFFFFFFE }) s.cores }
/-- R480 steps 3 and 4: the outcome of the self-test, and readiness. -/
def State.finishBoot (s : State) : State :=
  let t := { s with tick := s.tick + 1 }
  if Config.selfTest s.tick then t.enterService.setFwstat 3 0 else t.setFwstat 15 5
/-- R480 steps 2 to 4: the image is verified and the service firmware starts, with STATE 2; once it has trained and tested, which the
model writes as the same event with no image (log entry 50), the device is ready. -/
def execServiceFirmwareLoad (img : List (BitVec 8)) (s : State) : Res :=
  if s.bootState = 1 then
    .next (match imageFails? 2 img with
      | some c => s.setFwstat 15 c
      | none => (s.keepImage 2 img).setFwstat 2 0)
  else if s.bootState = 2 ∧ img = [] then .next s.finishBoot
  else .next s
/-- R482: the body of the report. -/
def State.reportBody (s : State) (nonce : List Byte) : List Byte :=
  let digest (k : Nat) : List Byte := mapGet s.dev.fwDigests k (List.replicate 48 0)
  let svn (k : Nat) : List Byte := toBytes 4 (mapGet s.dev.fwSvn k 0).toNat
  toBytes 4 1 ++ toBytes 4 1 ++ (List.range 16).map Config.serialByte ++ digest 1 ++ digest 2 ++ svn 1 ++ svn 2 ++ nonce
    ++ toBytes 16 0
/-- R482: the report and the certificate chain, while Gneiss runs. -/
def execAttestationRequest (nonce : List (BitVec 8)) (s : State) : Res :=
  if nonce.length = 32 ∧ 1 ≤ s.bootState ∧ s.bootState ≤ 3 then
    let b := s.reportBody nonce
    .next { s with dev := { s.dev with
      mailbox := nonce, report := b ++ (List.range 96).map (Config.signByte (sha384 b))
      certs := (List.range Config.certLength).map Config.certByte } }
  else .next s

/-! ## The trip and the debug port (R429, R481, R483) -/

/-- R483: all issue stops, and the host link drops. -/
def execThermalTrip (s : State) : Res := .next { s with dev := { s.dev with tripped := true } }
/-- R429: a resume reloads the registers and goes on after the BKPT, unless the record holds more rows than the budget, which the
debug port reports. It is no resumption in R42's sense: the pass-over counts and the equal-priority count stay (DESIGN CHOICE, log
entry 84). -/
def execDebugResume (w : Nat) (s : State) : Res :=
  let x := s.warp w
  if x.halted && !x.ended && x.resident && (s.launch x.launch).debug then
    let y := s.getGroups w 0xF false
    let s := s.noteGroups w 0xF
    if x.budget < y.rows then .next (s.modWarp w fun x => { x with refused := true })
    else .next (s.setWarp w { y.mapLanes (fun l z => if x.haltSet.getLsbD l then { z with pc := z.pc + 1 } else z) with
      halted := false, haltSet := 0, refused := false })
  else .next s

end Sys2Proof.Machine
end

