-- ==== Sys2Proof/Machine/VecFloat.lean ====
section
/-! DEFINITION. Class 0x1, vector float (R117 to R124), and FMULI and FADDI of class 0x2 (R115, R116). -/

namespace Sys2Proof.Machine

/-- An F32 instruction over two sources. -/
def State.fop2 (s : State) (d a b : BitVec 7) (f : NumEnv → FVal → FVal → LaneNum → Nat × LaneNum) : Res :=
  let x := s.src a
  let y := s.srcB b
  let env := s.env
  s.vnum d [x, y] fun l n => f env (decodeIn env F32 (x.lane l).toNat) (decodeIn env F32 (y.lane l).toNat) n
def State.fop3 (s : State) (d a b : BitVec 7) (f : NumEnv → FVal → FVal → FVal → LaneNum → Nat × LaneNum) : Res :=
  let x := s.src a
  let y := s.srcB b
  let z := s.srcC d
  let env := s.env
  s.vnum d [x, y, z] fun l n =>
    f env (decodeIn env F32 (x.lane l).toNat) (decodeIn env F32 (y.lane l).toNat) (decodeIn env F32 (z.lane l).toNat) n

/-- R118. -/
def execFadd (d a b : BitVec 7) (s : State) : Res := s.fop2 d a b fun e x y n => fAdd e F32 x y n
def execFsub (d a b : BitVec 7) (s : State) : Res := s.fop2 d a b fun e x y n => fSub e F32 x y n
def execFmul (d a b : BitVec 7) (s : State) : Res := s.fop2 d a b fun e x y n => fMul e F32 x y n
def execFfma (d a b : BitVec 7) (s : State) : Res := s.fop3 d a b fun e x y z n => fFma e F32 false false x y z n
def execFfms (d a b : BitVec 7) (s : State) : Res := s.fop3 d a b fun e x y z n => fFma e F32 false true x y z n
def execFnma (d a b : BitVec 7) (s : State) : Res := s.fop3 d a b fun e x y z n => fFma e F32 true false x y z n

/-- R119. -/
def State.fminmax (s : State) (d a b : BitVec 7) (isMax num : Bool) : Res :=
  let x := s.src a
  let y := s.srcB b
  s.vnumExact d [x, y] fun l n => fMinMax s.env isMax num (x.lane l).toNat (y.lane l).toNat n
def execFmin (d a b : BitVec 7) (s : State) : Res := s.fminmax d a b false false
def execFminn (d a b : BitVec 7) (s : State) : Res := s.fminmax d a b false true
def execFmax (d a b : BitVec 7) (s : State) : Res := s.fminmax d a b true false
def execFmaxn (d a b : BitVec 7) (s : State) : Res := s.fminmax d a b true true

/-- R105, R106. -/
def execFcmp (k : BitVec 4) (a b : BitVec 7) (s : State) : Res :=
  let x := s.src a
  let y := s.srcB b
  let env := s.env
  s.compare fun l => fCompare k.toNat (decodeIn env F32 (x.lane l).toNat) (decodeIn env F32 (y.lane l).toNat)

/-- R120: the class of a raw pattern as one bit. -/
def fclassBit (b : Nat) : Nat :=
  match decodeRaw F32 b with
  | .inf true => 0
  | .inf false => 7
  | .nan _ _ _ sg => if sg then 8 else 9
  | .fin neg m _ =>
    if m = 0 then (if neg then 3 else 4)
    else if F32.isSub b then (if neg then 2 else 5)
    else (if neg then 1 else 6)
def execFclass (d a : BitVec 7) (s : State) : Res :=
  let x := s.src a
  s.vop d [x] none fun l => BitVec.ofNat 32 (2 ^ fclassBit (x.lane l).toNat)
def execFcpsgn (d a b : BitVec 7) (s : State) : Res :=
  let x := s.src a
  let y := s.srcB b
  s.vop d [x, y] none fun l => (x.lane l &&& 0x7FFFFFFF) ||| (y.lane l &&& 0x80000000)

/-- R121: rounding to an integral value; no NX. A zero is rounded too, and steps the generator under RSTO (log entry 61). -/
def frnd (env : NumEnv) (x : FVal) (n : LaneNum) : Nat × LaneNum :=
  match x with
  | .nan .. => nanResult env F32 [x] n
  | .inf neg => (F32.signed neg F32.infPat, n)
  | .fin neg m e =>
    if m = 0 then roundFin env F32 ⟨0, 0, false⟩ neg n
    else
      let g := roundGrid env.rm x.dy.m e 0 n
      let r := roundFin { env with rm := .rtz } F32 ⟨g.1, 0, false⟩ neg g.2.2
      (r.1, { r.2 with fl := n.fl })
def execFrnd (d a : BitVec 7) (s : State) : Res :=
  let x := s.src a
  let env := s.env
  s.vnum d [x] fun l n => frnd env (decodeIn env F32 (x.lane l).toNat) n

/-- R121: the fraction of a, below one. -/
def ffract (env : NumEnv) (x : FVal) (n : LaneNum) : Nat × LaneNum :=
  match x with
  | .nan .. => nanResult env F32 [x] n
  | .inf _ => (nanPat env F32 [], n.raise flIV)
  | .fin .. =>
    let v := x.dy
    let fl := shiftFloor v.m v.e
    let r := roundFin env F32 (Dy.sub v (Dy.ofInt fl)) false n
    (if r.1 = 0x3F800000 then 0x3F7FFFFF else r.1, r.2)
def execFfract (d a : BitVec 7) (s : State) : Res :=
  let x := s.src a
  let env := s.env
  s.vnum d [x] fun l n => ffract env (decodeIn env F32 (x.lane l).toNat) n

/-- R121: the clamp of a to [+0, 1]. -/
def fsat (env : NumEnv) (b : Nat) (n : LaneNum) : Nat × LaneNum :=
  let b := flushBits env F32 b
  match decodeRaw F32 b with
  | .nan _ _ _ sg => (0, if sg then n.raise flIV else n)
  | .inf neg => (if neg then 0 else 0x3F800000, n)
  | .fin neg m e =>
    if neg || m = 0 then (0, n)
    else if Dy.lt (Dy.ofInt 1) ⟨m, e, false⟩ then (0x3F800000, n) else (b, n)
def execFsat (d a : BitVec 7) (s : State) : Res :=
  let x := s.src a
  s.vnumExact d [x] fun l n => fsat s.env (x.lane l).toNat n

/-- A value, an infinity or a NaN in the exact steps of FLERP (R122). An exact zero has the sign of R118 (log entry 62). -/
def exactAdd (rm : Rounding) (x y : FVal) : FVal × Bool :=
  match x, y with
  | .nan a b c d, _ => (.nan a b c d, false)
  | _, .nan a b c d => (.nan a b c d, false)
  | .inf p, .inf q => if p = q then (.inf p, false) else (.nan false 0 0 false, true)
  | .inf p, _ => (.inf p, false)
  | _, .inf q => (.inf q, false)
  | x, y =>
    let r := Dy.add x.dy y.dy
    if r.m = 0 then (.fin (zeroSumSign rm x.neg y.neg) 0 0, false)
    else (.fin (decide (r.m < 0)) r.m.natAbs r.e, false)
def exactMul (x y : FVal) : FVal × Bool :=
  match x, y with
  | .nan a b c d, _ => (.nan a b c d, false)
  | _, .nan a b c d => (.nan a b c d, false)
  | x, y => match mulVal x y with
    | .invalid => (.nan false 0 0 false, true)
    | .inf p => (.inf p, false)
    | .fin p q => (.fin p q.m.natAbs q.e, false)
/-- R122: x + t (y - x), computed exactly and rounded once; specials step by step. The NaN order is A, B, Q (R75). -/
def flerp (env : NumEnv) (x y t : FVal) (n : LaneNum) : Nat × LaneNum :=
  let d := exactAdd env.rm y x.negate
  let p := exactMul t d.1
  let r := exactAdd env.rm x p.1
  let n := if d.2 || p.2 || r.2 then n.raise flIV else n
  if x.isNan || y.isNan || t.isNan then nanResult env F32 [x, y, t] n
  else match r.1 with
    | .nan .. => (nanPat env F32 [], n)
    | .inf neg => infPatOf env F32 neg n
    | .fin neg _ _ => roundFin env F32 r.1.dy neg n
def execFlerp (d a b : BitVec 7) (s : State) : Res := s.fop3 d a b flerp

/-- R122: FMAXN(FMINN(a, b), FMINN(FMAXN(a, b), c)), IV for a signalling operand. -/
def fmed3 (env : NumEnv) (a b c : Nat) (n : LaneNum) : Nat × LaneNum :=
  let sn x := (decodeRaw F32 x).isSNan
  let lo := fMinMax env false true a b ⟨0, 0⟩
  let hi := fMinMax env true true a b ⟨0, 0⟩
  let m := fMinMax env false true hi.1 c ⟨0, 0⟩
  let r := fMinMax env true true lo.1 m.1 ⟨0, 0⟩
  (r.1, if sn a || sn b || sn c then n.raise flIV else n)
def execFmed3 (d a b : BitVec 7) (s : State) : Res :=
  let x := s.src a
  let y := s.srcB b
  let z := s.srcC d
  s.vnumExact d [x, y, z] fun l n => fmed3 s.env (x.lane l).toNat (y.lane l).toNat (z.lane l).toNat n

/-- R123: an operation on the two packed elements, element 0 first. -/
def packed2 (env : NumEnv) (f : Fmt) (op : FVal → FVal → FVal → LaneNum → Nat × LaneNum) (a b c : Nat) (n : LaneNum) : Nat × LaneNum :=
  let e x i := decodeIn env f (bits x (16 * i) 16)
  let r0 := op (e a 0) (e b 0) (e c 0) n
  let r1 := op (e a 1) (e b 1) (e c 1) r0.2
  (pack2 16 r0.1 r1.1, r1.2)
def State.hop2 (s : State) (d a b : BitVec 7) (f : Fmt) (op : NumEnv → FVal → FVal → LaneNum → Nat × LaneNum) : Res :=
  let x := s.src a
  let y := s.srcB b
  let env := s.env
  s.vnum d [x, y] fun l n => packed2 env f (fun p q _ n => op env p q n) (x.lane l).toNat (y.lane l).toNat 0 n
def State.hop3 (s : State) (d a b : BitVec 7) (f : Fmt) : Res :=
  let x := s.src a
  let y := s.srcB b
  let z := s.srcC d
  let env := s.env
  s.vnum d [x, y, z] fun l n =>
    packed2 env f (fun p q r n => fFma env f false false p q r n) (x.lane l).toNat (y.lane l).toNat (z.lane l).toNat n
def execHadd2 (d a b : BitVec 7) (s : State) : Res := s.hop2 d a b F16 fun e x y n => fAdd e F16 x y n
def execHmul2 (d a b : BitVec 7) (s : State) : Res := s.hop2 d a b F16 fun e x y n => fMul e F16 x y n
def execHfma2 (d a b : BitVec 7) (s : State) : Res := s.hop3 d a b F16
def execBadd2 (d a b : BitVec 7) (s : State) : Res := s.hop2 d a b BF16 fun e x y n => fAdd e BF16 x y n
def execBmul2 (d a b : BitVec 7) (s : State) : Res := s.hop2 d a b BF16 fun e x y n => fMul e BF16 x y n
def execBfma2 (d a b : BitVec 7) (s : State) : Res := s.hop3 d a b BF16

/-- R124: two exact products and c, one rounding; specials by R118 over the three terms. The two products are added first, so that IV is
raised where they are opposing infinities also beside a NaN, and not where a product is a NaN and the other terms oppose: the spec gives
no order of the three (DESIGN CHOICE, log entry 85). -/
def fdot2 (env : NumEnv) (f : Fmt) (a b : Nat) (z : FVal) (n : LaneNum) : Nat × LaneNum :=
  let e x i := decodeIn env f (bits x (16 * i) 16)
  let p0 := exactMul (e a 0) (e b 0)
  let p1 := exactMul (e a 1) (e b 1)
  let s1 := exactAdd env.rm p0.1 p1.1
  let s2 := exactAdd env.rm s1.1 z
  let ops := [e a 0, e a 1, e b 0, e b 1, z]
  let n := if p0.2 || p1.2 || s1.2 || s2.2 then n.raise flIV else n
  if ops.any FVal.isNan then nanResult env F32 ops n
  else match s2.1 with
    | .nan .. => (nanPat env F32 [], n)
    | .inf neg => infPatOf env F32 neg n
    | .fin neg _ _ => roundFin env F32 s2.1.dy neg n
def State.dot2 (s : State) (d a b : BitVec 7) (f : Fmt) : Res :=
  let x := s.src a
  let y := s.srcB b
  let z := s.srcC d
  let env := s.env
  s.vnum d [x, y, z] fun l n => fdot2 env f (x.lane l).toNat (y.lane l).toNat (decodeIn env F32 (z.lane l).toNat) n
def execFdot2h (d a b : BitVec 7) (s : State) : Res := s.dot2 d a b F16
def execFdot2b (d a b : BitVec 7) (s : State) : Res := s.dot2 d a b BF16

/-- R115, R116: the float immediate, E4M3 or with a prefix BF16, decoded without flushing as an F32 value. -/
def State.fimm (s : State) (i : BitVec 8) : FVal :=
  match s.prefix? with
  | some p => decodeRaw BF16 (p.x % 256 * 256 + i.toNat)
  | none => decodeRaw E4M3 i.toNat
def execFmuli (d a : BitVec 7) (i : BitVec 8) (s : State) : Res :=
  let x := s.src a
  let env := s.env
  s.vnum d [x, .u 0] fun l n => fMul env F32 (decodeIn env F32 (x.lane l).toNat) (s.fimm i) n
def execFaddi (d a : BitVec 7) (i : BitVec 8) (s : State) : Res :=
  let x := s.src a
  let env := s.env
  s.vnum d [x, .u 0] fun l n => fAdd env F32 (decodeIn env F32 (x.lane l).toNat) (s.fimm i) n

end Sys2Proof.Machine
end

