-- ==== Sys2Proof/Machine/Dispatch.lean ====
section
/-! DEFINITION. One arm for each instruction, calling its meaning. -/

namespace Sys2Proof.Machine

def exec (i : Instr) (s : State) : Host.Outcome State Fault Refusal :=
  match i with
  | .iadd _ _ d a b => Sys2Proof.Machine.execIadd d a b s
  | .isub _ _ d a b => Sys2Proof.Machine.execIsub d a b s
  | .imul _ _ d a b => Sys2Proof.Machine.execImul d a b s
  | .imulhiS _ _ d a b => Sys2Proof.Machine.execImulhiS d a b s
  | .imulhiN _ _ d a b => Sys2Proof.Machine.execImulhiN d a b s
  | .imad _ _ d a b => Sys2Proof.Machine.execImad d a b s
  | .iaddsS _ _ d a b => Sys2Proof.Machine.execIaddsS d a b s
  | .iaddsN _ _ d a b => Sys2Proof.Machine.execIaddsN d a b s
  | .isubsS _ _ d a b => Sys2Proof.Machine.execIsubsS d a b s
  | .isubsN _ _ d a b => Sys2Proof.Machine.execIsubsN d a b s
  | .iminS _ _ d a b => Sys2Proof.Machine.execIminS d a b s
  | .iminN _ _ d a b => Sys2Proof.Machine.execIminN d a b s
  | .imaxS _ _ d a b => Sys2Proof.Machine.execImaxS d a b s
  | .imaxN _ _ d a b => Sys2Proof.Machine.execImaxN d a b s
  | .vand _ _ d a b => Sys2Proof.Machine.execVand d a b s
  | .vor _ _ d a b => Sys2Proof.Machine.execVor d a b s
  | .vxor _ _ d a b => Sys2Proof.Machine.execVxor d a b s
  | .andn _ _ d a b => Sys2Proof.Machine.execAndn d a b s
  | .shl _ _ d a b => Sys2Proof.Machine.execShl d a b s
  | .shr _ _ d a b => Sys2Proof.Machine.execShr d a b s
  | .sar _ _ d a b => Sys2Proof.Machine.execSar d a b s
  | .rot _ _ d a b => Sys2Proof.Machine.execRot d a b s
  | .bfe _ _ d a b => Sys2Proof.Machine.execBfe d a b s
  | .bfi _ _ d a b => Sys2Proof.Machine.execBfi d a b s
  | .bitopPopc _ _ d a => Sys2Proof.Machine.execBitopPopc d a s
  | .bitopClz _ _ d a => Sys2Proof.Machine.execBitopClz d a s
  | .bitopCtz _ _ d a => Sys2Proof.Machine.execBitopCtz d a s
  | .bitopBrev _ _ d a => Sys2Proof.Machine.execBitopBrev d a s
  | .bitopNot _ _ d a => Sys2Proof.Machine.execBitopNot d a s
  | .icmp _ _ k a b => Sys2Proof.Machine.execIcmp k a b s
  | .sel _ _ d a b => Sys2Proof.Machine.execSel d a b s
  | .mov _ _ d a => Sys2Proof.Machine.execMov d a s
  | .prmt _ _ d a b => Sys2Proof.Machine.execPrmt d a b s
  | .iadd64 _ _ d a b => Sys2Proof.Machine.execIadd64 d a b s
  | .isub64 _ _ d a b => Sys2Proof.Machine.execIsub64 d a b s
  | .lea _ _ d a b => Sys2Proof.Machine.execLea d a b s
  | .fadd _ _ d a b => Sys2Proof.Machine.execFadd d a b s
  | .fsub _ _ d a b => Sys2Proof.Machine.execFsub d a b s
  | .fmul _ _ d a b => Sys2Proof.Machine.execFmul d a b s
  | .ffma _ _ d a b => Sys2Proof.Machine.execFfma d a b s
  | .ffms _ _ d a b => Sys2Proof.Machine.execFfms d a b s
  | .fnma _ _ d a b => Sys2Proof.Machine.execFnma d a b s
  | .fmin _ _ d a b => Sys2Proof.Machine.execFmin d a b s
  | .fminn _ _ d a b => Sys2Proof.Machine.execFminn d a b s
  | .fmax _ _ d a b => Sys2Proof.Machine.execFmax d a b s
  | .fmaxn _ _ d a b => Sys2Proof.Machine.execFmaxn d a b s
  | .fcmp _ _ k a b => Sys2Proof.Machine.execFcmp k a b s
  | .fclass _ _ d a => Sys2Proof.Machine.execFclass d a s
  | .fcpsgn _ _ d a b => Sys2Proof.Machine.execFcpsgn d a b s
  | .frnd _ _ d a => Sys2Proof.Machine.execFrnd d a s
  | .ffract _ _ d a => Sys2Proof.Machine.execFfract d a s
  | .fsat _ _ d a => Sys2Proof.Machine.execFsat d a s
  | .flerp _ _ d a b => Sys2Proof.Machine.execFlerp d a b s
  | .fmed3 _ _ d a b => Sys2Proof.Machine.execFmed3 d a b s
  | .hadd2 _ _ d a b => Sys2Proof.Machine.execHadd2 d a b s
  | .hmul2 _ _ d a b => Sys2Proof.Machine.execHmul2 d a b s
  | .hfma2 _ _ d a b => Sys2Proof.Machine.execHfma2 d a b s
  | .badd2 _ _ d a b => Sys2Proof.Machine.execBadd2 d a b s
  | .bmul2 _ _ d a b => Sys2Proof.Machine.execBmul2 d a b s
  | .bfma2 _ _ d a b => Sys2Proof.Machine.execBfma2 d a b s
  | .fdot2h _ _ d a b => Sys2Proof.Machine.execFdot2h d a b s
  | .fdot2b _ _ d a b => Sys2Proof.Machine.execFdot2b d a b s
  | .iaddi _ d a im => Sys2Proof.Machine.execIaddi d a im s
  | .imuli _ d a im => Sys2Proof.Machine.execImuli d a im s
  | .andi _ d a im => Sys2Proof.Machine.execAndi d a im s
  | .ori _ d a im => Sys2Proof.Machine.execOri d a im s
  | .xori _ d a im => Sys2Proof.Machine.execXori d a im s
  | .shli _ d a im => Sys2Proof.Machine.execShli d a im s
  | .shri _ d a im => Sys2Proof.Machine.execShri d a im s
  | .sari _ d a im => Sys2Proof.Machine.execSari d a im s
  | .icmpi _ k a im => Sys2Proof.Machine.execIcmpi k a im s
  | .movi _ d im => Sys2Proof.Machine.execMovi d im s
  | .laneidx _ d a im => Sys2Proof.Machine.execLaneidx d a im s
  | .fmuli _ d a im => Sys2Proof.Machine.execFmuli d a im s
  | .faddi _ d a im => Sys2Proof.Machine.execFaddi d a im s
  | .iminiS _ d a im => Sys2Proof.Machine.execIminiS d a im s
  | .imaxiS _ d a im => Sys2Proof.Machine.execImaxiS d a im s
  | .wadd _ d a b => Sys2Proof.Machine.execWadd d a b s
  | .wsub _ d a b => Sys2Proof.Machine.execWsub d a b s
  | .wmul _ d a b => Sys2Proof.Machine.execWmul d a b s
  | .wand _ d a b => Sys2Proof.Machine.execWand d a b s
  | .wor _ d a b => Sys2Proof.Machine.execWor d a b s
  | .wxor _ d a b => Sys2Proof.Machine.execWxor d a b s
  | .wshl _ d a b => Sys2Proof.Machine.execWshl d a b s
  | .wshr _ d a b => Sys2Proof.Machine.execWshr d a b s
  | .wsar _ d a b => Sys2Proof.Machine.execWsar d a b s
  | .wcmp _ k a b => Sys2Proof.Machine.execWcmp k a b s
  | .wsel _ d a b => Sys2Proof.Machine.execWsel d a b s
  | .wmov _ d a => Sys2Proof.Machine.execWmov d a s
  | .wli _ d im => Sys2Proof.Machine.execWli d im s
  | .wlih _ d im => Sys2Proof.Machine.execWlih d im s
  | .wadd64 _ d a b => Sys2Proof.Machine.execWadd64 d a b s
  | .wtov _ d a => Sys2Proof.Machine.execWtov d a s
  | .vtow _ d a b => Sys2Proof.Machine.execVtow d a b s
  | .waddi _ d a im => Sys2Proof.Machine.execWaddi d a im s
  | .wmin _ d a b => Sys2Proof.Machine.execWmin d a b s
  | .wmax _ d a b => Sys2Proof.Machine.execWmax d a b s
  | .shflIdx _ _ d a b => Sys2Proof.Machine.execShflIdx d a b s
  | .shflUp _ _ d a b => Sys2Proof.Machine.execShflUp d a b s
  | .shflDn _ _ d a b => Sys2Proof.Machine.execShflDn d a b s
  | .shflXor _ _ d a b => Sys2Proof.Machine.execShflXor d a b s
  | .voteAny _ _ d a => Sys2Proof.Machine.execVoteAny d a s
  | .voteAll _ _ d a => Sys2Proof.Machine.execVoteAll d a s
  | .ballot _ _ d a => Sys2Proof.Machine.execBallot d a s
  | .matchLanes _ _ d a => Sys2Proof.Machine.execMatchLanes d a s
  | .redAdd _ _ d a b => Sys2Proof.Machine.execRedAdd d a b s
  | .redMinS _ _ d a b => Sys2Proof.Machine.execRedMinS d a b s
  | .redMinN _ _ d a b => Sys2Proof.Machine.execRedMinN d a b s
  | .redMaxS _ _ d a b => Sys2Proof.Machine.execRedMaxS d a b s
  | .redMaxN _ _ d a b => Sys2Proof.Machine.execRedMaxN d a b s
  | .redAnd _ _ d a b => Sys2Proof.Machine.execRedAnd d a b s
  | .redOr _ _ d a b => Sys2Proof.Machine.execRedOr d a b s
  | .redFadd _ _ d a b => Sys2Proof.Machine.execRedFadd d a b s
  | .scanAdd _ _ d a b => Sys2Proof.Machine.execScanAdd d a b s
  | .scanFadd _ _ d a b => Sys2Proof.Machine.execScanFadd d a b s
  | .mand _ _ d a b => Sys2Proof.Machine.execMand d a b s
  | .mor _ _ d a b => Sys2Proof.Machine.execMor d a b s
  | .mxor _ _ d a b => Sys2Proof.Machine.execMxor d a b s
  | .mandn _ _ d a b => Sys2Proof.Machine.execMandn d a b s
  | .mmov _ _ d a => Sys2Proof.Machine.execMmov d a s
  | .mpopc _ _ d a => Sys2Proof.Machine.execMpopc d a s
  | .mpopcRank _ _ d a => Sys2Proof.Machine.execMpopcRank d a s
  | .mfirst _ _ d a => Sys2Proof.Machine.execMfirst d a s
  | .mtov _ _ d a => Sys2Proof.Machine.execMtov d a s
  | .vtom _ _ d a b => Sys2Proof.Machine.execVtom d a b s
  | .elect _ _ d => Sys2Proof.Machine.execElect d s
  | .issuem _ _ d => Sys2Proof.Machine.execIssuem d s
  | .bra _ o => Sys2Proof.Machine.execBra o s
  | .brc _ n k o => Sys2Proof.Machine.execBrc n k o s
  | .brw _ n o => Sys2Proof.Machine.execBrw n o s
  | .call _ o => Sys2Proof.Machine.execCall o s
  | .bri _ _ a => Sys2Proof.Machine.execBri a s
  | .calli _ _ d a => Sys2Proof.Machine.execCalli d a s
  | .ret _ _ a => Sys2Proof.Machine.execRet a s
  | .split _ _ d => Sys2Proof.Machine.execSplit d s
  | .join _ _ d => Sys2Proof.Machine.execJoin d s
  | .exit _ _ => Sys2Proof.Machine.execExit s
  | .endAll _ _ => Sys2Proof.Machine.execEndAll s
  | .loopw _ w o => Sys2Proof.Machine.execLoopw w o s
  | .ldB8 _ l d v w => Sys2Proof.Machine.execLdB8 l d v w s
  | .ldS8 _ l d v w => Sys2Proof.Machine.execLdS8 l d v w s
  | .ldB16 _ l d v w => Sys2Proof.Machine.execLdB16 l d v w s
  | .ldS16 _ l d v w => Sys2Proof.Machine.execLdS16 l d v w s
  | .ldB32 _ l d v w => Sys2Proof.Machine.execLdB32 l d v w s
  | .ldB64 _ l d v w => Sys2Proof.Machine.execLdB64 l d v w s
  | .ldB128 _ l d v w => Sys2Proof.Machine.execLdB128 l d v w s
  | .stB8 _ l d v w => Sys2Proof.Machine.execStB8 l d v w s
  | .stB16 _ l d v w => Sys2Proof.Machine.execStB16 l d v w s
  | .stB32 _ l d v w => Sys2Proof.Machine.execStB32 l d v w s
  | .stB64 _ l d v w => Sys2Proof.Machine.execStB64 l d v w s
  | .stB128 _ l d v w => Sys2Proof.Machine.execStB128 l d v w s
  | .ldsB32 _ l d v w => Sys2Proof.Machine.execLdsB32 l d v w s
  | .ldsB64 _ l d v w => Sys2Proof.Machine.execLdsB64 l d v w s
  | .ldsB128 _ l d v w => Sys2Proof.Machine.execLdsB128 l d v w s
  | .stsB32 _ l d v w => Sys2Proof.Machine.execStsB32 l d v w s
  | .stsB64 _ l d v w => Sys2Proof.Machine.execStsB64 l d v w s
  | .stsB128 _ l d v w => Sys2Proof.Machine.execStsB128 l d v w s
  | .ldw _ l d v w => Sys2Proof.Machine.execLdw l d v w s
  | .pref _ _ _ _ _ => Sys2Proof.Machine.execPref s
  | .atomAdd32 _ l d v w => Sys2Proof.Machine.execAtomAdd32 l d v w s
  | .atomAdd64 _ l d v w => Sys2Proof.Machine.execAtomAdd64 l d v w s
  | .atomSub32 _ l d v w => Sys2Proof.Machine.execAtomSub32 l d v w s
  | .atomSub64 _ l d v w => Sys2Proof.Machine.execAtomSub64 l d v w s
  | .atomMinS32 _ l d v w => Sys2Proof.Machine.execAtomMinS32 l d v w s
  | .atomMinS64 _ l d v w => Sys2Proof.Machine.execAtomMinS64 l d v w s
  | .atomMinN32 _ l d v w => Sys2Proof.Machine.execAtomMinN32 l d v w s
  | .atomMinN64 _ l d v w => Sys2Proof.Machine.execAtomMinN64 l d v w s
  | .atomMaxS32 _ l d v w => Sys2Proof.Machine.execAtomMaxS32 l d v w s
  | .atomMaxS64 _ l d v w => Sys2Proof.Machine.execAtomMaxS64 l d v w s
  | .atomMaxN32 _ l d v w => Sys2Proof.Machine.execAtomMaxN32 l d v w s
  | .atomMaxN64 _ l d v w => Sys2Proof.Machine.execAtomMaxN64 l d v w s
  | .atomAnd32 _ l d v w => Sys2Proof.Machine.execAtomAnd32 l d v w s
  | .atomAnd64 _ l d v w => Sys2Proof.Machine.execAtomAnd64 l d v w s
  | .atomOr32 _ l d v w => Sys2Proof.Machine.execAtomOr32 l d v w s
  | .atomOr64 _ l d v w => Sys2Proof.Machine.execAtomOr64 l d v w s
  | .atomXor32 _ l d v w => Sys2Proof.Machine.execAtomXor32 l d v w s
  | .atomXor64 _ l d v w => Sys2Proof.Machine.execAtomXor64 l d v w s
  | .atomExch32 _ l d v w => Sys2Proof.Machine.execAtomExch32 l d v w s
  | .atomExch64 _ l d v w => Sys2Proof.Machine.execAtomExch64 l d v w s
  | .atomCas32 _ l d v w => Sys2Proof.Machine.execAtomCas32 l d v w s
  | .atomCas64 _ l d v w => Sys2Proof.Machine.execAtomCas64 l d v w s
  | .atomInc32 _ l d v w => Sys2Proof.Machine.execAtomInc32 l d v w s
  | .atomInc64 _ l d v w => Sys2Proof.Machine.execAtomInc64 l d v w s
  | .atomDec32 _ l d v w => Sys2Proof.Machine.execAtomDec32 l d v w s
  | .atomDec64 _ l d v w => Sys2Proof.Machine.execAtomDec64 l d v w s
  | .atomFaddF32 _ l d v w => Sys2Proof.Machine.execAtomFaddF32 l d v w s
  | .atomFadd2Bf16 _ l d v w => Sys2Proof.Machine.execAtomFadd2Bf16 l d v w s
  | .mma _ _ sh g x y => Sys2Proof.Machine.execMma sh g x y s
  | .mman _ _ sh g x y => Sys2Proof.Machine.execMman sh g x y s
  | .mmas _ _ g x y => Sys2Proof.Machine.execMmas g x y s
  | .mmaz _ _ sh g x y => Sys2Proof.Machine.execMmaz sh g x y s
  | .aclr _ _ sh g => Sys2Proof.Machine.execAclr sh g s
  | .aanc _ _ sh g x => Sys2Proof.Machine.execAanc sh g x s
  | .ares _ _ sh g f y => Sys2Proof.Machine.execAres sh g f y s
  | .acmp _ _ k sh g x y => Sys2Proof.Machine.execAcmp k sh g x y s
  | .adrainRaw _ l sh g x => Sys2Proof.Machine.execAdrainRaw l sh g x s
  | .adrainValue _ l sh g x f => Sys2Proof.Machine.execAdrainValue l sh g x f s
  | .adrainAdd _ l sh g x => Sys2Proof.Machine.execAdrainAdd l sh g x s
  | .adrainValueAdd _ l sh g x f => Sys2Proof.Machine.execAdrainValueAdd l sh g x f s
  | .aloadRaw _ _ sh g x => Sys2Proof.Machine.execAloadRaw sh g x s
  | .aloadValue _ _ sh g x f => Sys2Proof.Machine.execAloadValue sh g x f s
  | .scld _ _ sh e y => Sys2Proof.Machine.execScld sh e y s
  | .mfmt _ _ im => Sys2Proof.Machine.execMfmt im s
  | .tmma _ _ t y => Sys2Proof.Machine.execTmma t y s
  | .twait _ _ t => Sys2Proof.Machine.execTwait t s
  | .twaitOc _ _ t => Sys2Proof.Machine.execTwaitOc t s
  | .acanon _ _ sh g => Sys2Proof.Machine.execAcanon sh g s
  | .amov _ _ sh g x => Sys2Proof.Machine.execAmov sh g x s
  | .edge _ l g x y => Sys2Proof.Machine.execEdge l g x y s
  | .bary _ l x y => Sys2Proof.Machine.execBary l x y s
  | .covpk _ l g x y => Sys2Proof.Machine.execCovpk l g x y s
  | .texg _ l g x y => Sys2Proof.Machine.execTexg l g x y s
  | .filt _ l sh g x y => Sys2Proof.Machine.execFilt l sh g x y s
  | .blnd _ l g x y => Sys2Proof.Machine.execBlnd l g x y s
  | .cpack _ l g x y => Sys2Proof.Machine.execCpack l g x y s
  | .cunpk _ l x y => Sys2Proof.Machine.execCunpk l x y s
  | .meshemit _ l sh g => Sys2Proof.Machine.execMeshemit l sh g s
  | .binnext _ l g y => Sys2Proof.Machine.execBinnext l g y s
  | .bararr _ e b z => Sys2Proof.Machine.execBararr e b z s
  | .barwait _ e b z => Sys2Proof.Machine.execBarwait e b z s
  | .barsync _ e b z => Sys2Proof.Machine.execBarsync e b z s
  | .barexp _ e a b z => Sys2Proof.Machine.execBarexp e a b z s
  | .ordenter _ a b z => Sys2Proof.Machine.execOrdenter a b z s
  | .ordleave _ a z => Sys2Proof.Machine.execOrdleave a z s
  | .ordskip _ a b z => Sys2Proof.Machine.execOrdskip a b z s
  | .ordtest _ a b z => Sys2Proof.Machine.execOrdtest a b z s
  | .seqnext _ a z => Sys2Proof.Machine.execSeqnext a z s
  | .put _ e a z => Sys2Proof.Machine.execPut e a z s
  | .putw _ e a b z => Sys2Proof.Machine.execPutw e a b z s
  | .cwait _ e a z => Sys2Proof.Machine.execCwait e a z s
  | .fenceAcq _ e => Sys2Proof.Machine.execFenceAcq e s
  | .fenceRel _ e => Sys2Proof.Machine.execFenceRel e s
  | .fenceAr _ e => Sys2Proof.Machine.execFenceAr e s
  | .fenceSc _ e => Sys2Proof.Machine.execFenceSc e s
  | .scwait _ => Sys2Proof.Machine.execScwait s
  | .qacq _ _ d q => Sys2Proof.Machine.execQacq d q s
  | .qrel _ _ a q => Sys2Proof.Machine.execQrel a q s
  | .qpacq _ _ d q => Sys2Proof.Machine.execQpacq d q s
  | .qpcommit _ _ a q => Sys2Proof.Machine.execQpcommit a q s
  | .tcopy _ _ d => Sys2Proof.Machine.execTcopy d s
  | .tstore _ _ d => Sys2Proof.Machine.execTstore d s
  | .apstart _ _ p a => Sys2Proof.Machine.execApstart p a s
  | .apstop _ _ p => Sys2Proof.Machine.execApstop p s
  | .xli _ d im => Sys2Proof.Machine.execXli d im s
  | .xlih _ d im => Sys2Proof.Machine.execXlih d im s
  | .xadd _ d a im => Sys2Proof.Machine.execXadd d a im s
  | .xmad _ d a im => Sys2Proof.Machine.execXmad d a im s
  | .xloop _ k o => Sys2Proof.Machine.execXloop k o s
  | .xloopSet _ k a => Sys2Proof.Machine.execXloopSet k a s
  | .xfetch _ a g q => Sys2Proof.Machine.execXfetch a g q s
  | .xstore _ a g q => Sys2Proof.Machine.execXstore a g q s
  | .xsigFill _ q => Sys2Proof.Machine.execXsigFill q s
  | .xsigFree _ q => Sys2Proof.Machine.execXsigFree q s
  | .xend _ => Sys2Proof.Machine.execXend s
  | .nop _ => Sys2Proof.Machine.execNop s
  | .sysrd _ p m => Sys2Proof.Machine.execSysrd p m s
  | .syswr _ p m => Sys2Proof.Machine.execSyswr p m s
  | .trap _ m => Sys2Proof.Machine.execTrap m s
  | .trapret _ p => Sys2Proof.Machine.execTrapret p s
  | .frsave _ p => Sys2Proof.Machine.execFrsave p s
  | .frload _ p => Sys2Proof.Machine.execFrload p s
  | .region _ p m => Sys2Proof.Machine.execRegion p m s
  | .reggrowTry _ m => Sys2Proof.Machine.execReggrowTry m s
  | .reggrowWait _ m => Sys2Proof.Machine.execReggrowWait m s
  | .regshrink _ m => Sys2Proof.Machine.execRegshrink m s
  | .vfree _ p m => Sys2Proof.Machine.execVfree p m s
  | .query _ p m => Sys2Proof.Machine.execQuery p m s
  | .launch _ p m => Sys2Proof.Machine.execLaunch p m s
  | .bkpt _ _ => Sys2Proof.Machine.execBkpt s
  | .waitev _ m => Sys2Proof.Machine.execWaitev m s
  | .perfrd _ p m => Sys2Proof.Machine.execPerfrd p m s
  | .rngseed _ p => Sys2Proof.Machine.execRngseed p s
  | .modesetWrite _ m => Sys2Proof.Machine.execModesetWrite m s
  | .modesetOr _ m => Sys2Proof.Machine.execModesetOr m s
  | .modesetAndn _ m => Sys2Proof.Machine.execModesetAndn m s
  | .modesetTen _ m => Sys2Proof.Machine.execModesetTen m s
  | .tinfo _ p m => Sys2Proof.Machine.execTinfo p m s
  | .cvtf _ _ sh d a => Sys2Proof.Machine.execCvtf sh d a s
  | .cvtfi _ _ sh d a => Sys2Proof.Machine.execCvtfi sh d a s
  | .cvtif _ _ sh d a => Sys2Proof.Machine.execCvtif sh d a s
  | .pack2 _ _ sh d a => Sys2Proof.Machine.execPack2 sh d a s
  | .pack4 _ _ sh d a => Sys2Proof.Machine.execPack4 sh d a s
  | .unpk _ _ sh d a => Sys2Proof.Machine.execUnpk sh d a s
  | .rcp _ _ sh d a => Sys2Proof.Machine.execRcp sh d a s
  | .rsq _ _ sh d a => Sys2Proof.Machine.execRsq sh d a s
  | .sqrt _ _ sh d a => Sys2Proof.Machine.execSqrt sh d a s
  | .exp2 _ _ sh d a => Sys2Proof.Machine.execExp2 sh d a s
  | .log2 _ _ sh d a => Sys2Proof.Machine.execLog2 sh d a s
  | .sinp _ _ sh d a => Sys2Proof.Machine.execSinp sh d a s
  | .cosp _ _ sh d a => Sys2Proof.Machine.execCosp sh d a s
  | .tanh _ _ sh d a => Sys2Proof.Machine.execTanh sh d a s
  | .rng _ _ sh d => Sys2Proof.Machine.execRng sh d s
  | .pfx m k r z q w x => Sys2Proof.Machine.execPfx m k r z q w x s
  | .illegalInstruction => Sys2Proof.Machine.execIllegalInstruction s
  | .instructionFetchFault => Sys2Proof.Machine.execInstructionFetchFault s
  | .rejoinRelease w k => Sys2Proof.Machine.execRejoinRelease w k s
  | .longLatencyCompletion f => Sys2Proof.Machine.execLongLatencyCompletion f s
  | .storeAcknowledgement f => Sys2Proof.Machine.execStoreAcknowledgement f s
  | .homeAtomic f => Sys2Proof.Machine.execHomeAtomic f s
  | .homeRawMerge f => Sys2Proof.Machine.execHomeRawMerge f s
  | .homeValueAdd f => Sys2Proof.Machine.execHomeValueAdd f s
  | .trapEntry w => Sys2Proof.Machine.execTrapEntry w s
  | .reggrowWaitGrant w => Sys2Proof.Machine.execReggrowWaitGrant w s
  | .reggrowEviction core => Sys2Proof.Machine.execReggrowEviction core s
  | .evictedWarpReadmission w => Sys2Proof.Machine.execEvictedWarpReadmission w s
  | .warpEnd w => Sys2Proof.Machine.execWarpEnd w s
  | .barrierRelease kind owner bar => Sys2Proof.Machine.execBarrierRelease kind owner bar s
  | .peerBarrierMessage port bar phase => Sys2Proof.Machine.execPeerBarrierMessage port bar phase s
  | .ordRequestAtHome f => Sys2Proof.Machine.execOrdRequestAtHome f s
  | .ordLeaveAtHome f => Sys2Proof.Machine.execOrdLeaveAtHome f s
  | .ordGrant f => Sys2Proof.Machine.execOrdGrant f s
  | .quietIntervalEnd slice => Sys2Proof.Machine.execQuietIntervalEnd slice s
  | .putArrival f => Sys2Proof.Machine.execPutArrival f s
  | .ringReconfigure wg ring => Sys2Proof.Machine.execRingReconfigure wg ring s
  | .copySlotAcquire f => Sys2Proof.Machine.execCopySlotAcquire f s
  | .copyBytesLand f => Sys2Proof.Machine.execCopyBytesLand f s
  | .flintRequestResume core slot => Sys2Proof.Machine.execFlintRequestResume core slot s
  | .tmmaKstep wg tag => Sys2Proof.Machine.execTmmaKstep wg tag s
  | .classifyMeshlet launch => Sys2Proof.Machine.execClassifyMeshlet launch s
  | .shaleBatchHandout w => Sys2Proof.Machine.execShaleBatchHandout w s
  | .stageStart launch stage => Sys2Proof.Machine.execStageStart launch stage s
  | .stageCompletion launch stage => Sys2Proof.Machine.execStageCompletion launch stage s
  | .queueDoorbell q v => Sys2Proof.Machine.execQueueDoorbell q v s
  | .run q => Sys2Proof.Machine.execRun q s
  | .event q => Sys2Proof.Machine.execEvent q s
  | .domalloc q => Sys2Proof.Machine.execDomalloc q s
  | .domfree q => Sys2Proof.Machine.execDomfree q s
  | .abort q => Sys2Proof.Machine.execAbort q s
  | .qctlWrite q v => Sys2Proof.Machine.execQctlWrite q v s
  | .residencyWalk launch => Sys2Proof.Machine.execResidencyWalk launch s
  | .gangPlacement launch => Sys2Proof.Machine.execGangPlacement launch s
  | .preemption launch => Sys2Proof.Machine.execPreemption launch s
  | .drainApproachExpiry w => Sys2Proof.Machine.execDrainApproachExpiry w s
  | .saveBlockStore launch gang => Sys2Proof.Machine.execSaveBlockStore launch gang s
  | .sliceExpiry launch gang => Sys2Proof.Machine.execSliceExpiry launch gang s
  | .fenceWaitPoll launch => Sys2Proof.Machine.execFenceWaitPoll launch s
  | .launchCompletion launch => Sys2Proof.Machine.execLaunchCompletion launch s
  | .gangIndexMirror launch => Sys2Proof.Machine.execGangIndexMirror launch s
  | .launchNodeCopyDone f => Sys2Proof.Machine.execLaunchNodeCopyDone f s
  | .dieFailure die => Sys2Proof.Machine.execDieFailure die s
  | .dieFailureGraceEnd launch => Sys2Proof.Machine.execDieFailureGraceEnd launch s
  | .iqDoorbell v => Sys2Proof.Machine.execIqDoorbell v s
  | .inval => Sys2Proof.Machine.execInval s
  | .retry => Sys2Proof.Machine.execRetry s
  | .refuse => Sys2Proof.Machine.execRefuse s
  | .sync => Sys2Proof.Machine.execSync s
  | .invalCompletion => Sys2Proof.Machine.execInvalCompletion s
  | .iqctlWrite v => Sys2Proof.Machine.execIqctlWrite v s
  | .atctlWrite v => Sys2Proof.Machine.execAtctlWrite v s
  | .ordovfctlWrite v => Sys2Proof.Machine.execOrdovfctlWrite v s
  | .pwrcapWrite v => Sys2Proof.Machine.execPwrcapWrite v s
  | .cxlClearIsolation port => Sys2Proof.Machine.execCxlClearIsolation port s
  | .registerWrite off v => Sys2Proof.Machine.execRegisterWrite off v s
  | .systemAgentAccess agent addr data => Sys2Proof.Machine.execSystemAgentAccess agent addr data s
  | .flitReceive unit outcome => Sys2Proof.Machine.execFlitReceive unit outcome s
  | .storageError unit place grade => Sys2Proof.Machine.execStorageError unit place grade s
  | .errorWindowEnd unit => Sys2Proof.Machine.execErrorWindowEnd unit s
  | .accessTimeout f => Sys2Proof.Machine.execAccessTimeout f s
  | .cxlReadTimeout port => Sys2Proof.Machine.execCxlReadTimeout port s
  | .peerPortDown port => Sys2Proof.Machine.execPeerPortDown port s
  | .linkUp port caps => Sys2Proof.Machine.execLinkUp port caps s
  | .coldReset => Sys2Proof.Machine.execColdReset s
  | .gneissImageLoad img => Sys2Proof.Machine.execGneissImageLoad img s
  | .serviceFirmwareLoad img => Sys2Proof.Machine.execServiceFirmwareLoad img s
  | .attestationRequest nonce => Sys2Proof.Machine.execAttestationRequest nonce s
  | .thermalTrip => Sys2Proof.Machine.execThermalTrip s
  | .debugResume w => Sys2Proof.Machine.execDebugResume w s
  | .flintIllegalInstruction core slot => Sys2Proof.Machine.execFlintIllegalInstruction core slot s
  | .flintCodeFetchFault core slot => Sys2Proof.Machine.execFlintCodeFetchFault core slot s
  | .rqctlWrite v => Sys2Proof.Machine.execRqctlWrite v s
  | .elctlWrite v => Sys2Proof.Machine.execElctlWrite v s

end Sys2Proof.Machine
end

