-- ==== Sys2Proof/Machine/Legal.lean ====
section
/-! DEFINITION. Which words and which prefixed pairs are instructions (R23, R24, R26 to R29, R34, R100, R101, R105, and the entries
of the instruction chapters). -/

namespace Sys2Proof

/-! ## Conditions on fields -/

def even (r : BitVec 7) : Bool := !r.getLsbD 0
def even8 (r : BitVec 8) : Bool := !r.getLsbD 0
def quad (r : BitVec 7) : Bool := decide (r.toNat % 4 = 0)
/-- R181: a shape, and runs of A and B registers within v127. -/
def shapeLegal (sh : BitVec 3) (x : BitVec 5) (y : BitVec 6) : Bool :=
  decide (sh.toNat ≤ 4 ∧ (sh.toNat ∈ [1, 3, 4] → x.toNat ≤ 30) ∧ 2 * y.toNat + (if sh.toNat ∈ [1, 2, 4] then 8 else 4) ≤ 128)
/-- R192: the registers that ARES writes. -/
def resolveRegs (f : Nat) : Nat := if f ∈ [0, 5] then 8 else if f ∈ [1, 2] then 4 else if f = 7 then 1 else 2
/-- R192, R195: the bytes of a row in a value mode. -/
def rowBytes (f : Nat) : Nat := 4 * resolveRegs f
/-- R179, R180: legal codes, pairs and SM. -/
def mfmtLegal (i : BitVec 10) : Bool :=
  let a := (i.extractLsb' 0 4).toNat
  let b := (i.extractLsb' 4 4).toNat
  decide ((a = 0 ∧ b = 0) ∨ (1 ≤ a ∧ a ≤ 4 ∧ 1 ≤ b ∧ b ≤ 4) ∨ (a = 5 ∧ b = 5) ∨ (6 ≤ a ∧ a ≤ 7 ∧ 6 ≤ b ∧ b ≤ 7)) &&
    (!i.getLsbD 8 || decide (a ≤ 4))
/-- R223. -/
def barLegal (e : BitVec 3) (b : BitVec 7) (z : BitVec 5) : Bool :=
  if e = 2 then !z.getLsbD 4 && b == 0 else decide (3 ≤ e.toNat ∧ e.toNat ≤ 6 ∧ b.toNat < 8)
def wideScope (e : BitVec 3) : Bool := decide (2 ≤ e.toNat ∧ e.toNat ≤ 6)
def rowsLegal (m : BitVec 14) : Bool := decide (1 ≤ m.toNat ∧ m.toNat ≤ 8191)
/-- R133: a float format, and an even register for a 64-bit integer. -/
def convLegal (sh : BitVec 4) (r : BitVec 7) : Bool := decide (sh.toNat % 4 ≠ 3) && (!sh.getLsbD 3 || even r)
/-- R135: elements of a packed value. -/
def unpkCount (sh : Nat) : Nat := if sh ∈ [0, 1, 10, 11] then 2 else if sh = 6 then 8 else 4

/-! ## The rules of one instruction -/

/-- What prefix field X may hold (R26, R29 and the entries). -/
inductive Ext
  | zero
  | lea
  | imm
  | low8
  | elem (n : Nat)
  | load
  | store
  | hint
  | atomic
  | scale
  | bytes
  | anchor (zero : Bool)
  | pitch (row : Nat)
  deriving DecidableEq, Repr
/-- Whether source B may be a uniform register: not, one register or a pair; the B field must then be 0 (R26). -/
inductive Uniform
  | no
  | one (b : BitVec 7)
  | pair (b : BitVec 7)
  deriving DecidableEq, Repr

/-- The rules of one instruction: its own fields, and what a prefix before it may hold. -/
structure Rules where
  own : Bool := true
  prefixable : Bool := false
  pred : Bool := true
  rounds : Bool := false
  zero : Bool := false
  third : Bool := false
  uniform : Uniform := .no
  ext : Ext := .zero
  /-- R186: it always carries a prefix -/
  needs : Bool := false
  /-- R33: only an address program executes it -/
  flint : Bool := false
  deriving DecidableEq, Repr

/-- The rules of every instruction; an event has none. -/
def Instr.rules : Instr → Rules
  | .iadd _ _ _ _ b => { prefixable := true, zero := true, uniform := .one b }
  | .isub _ _ _ _ b => { prefixable := true, zero := true, uniform := .one b }
  | .imul _ _ _ _ b => { prefixable := true, zero := true, uniform := .one b }
  | .imulhiS _ _ _ _ b => { prefixable := true, zero := true, uniform := .one b }
  | .imulhiN _ _ _ _ b => { prefixable := true, zero := true, uniform := .one b }
  | .imad _ _ _ _ b => { prefixable := true, zero := true, third := true, uniform := .one b }
  | .iaddsS _ _ _ _ b => { prefixable := true, zero := true, uniform := .one b }
  | .iaddsN _ _ _ _ b => { prefixable := true, zero := true, uniform := .one b }
  | .isubsS _ _ _ _ b => { prefixable := true, zero := true, uniform := .one b }
  | .isubsN _ _ _ _ b => { prefixable := true, zero := true, uniform := .one b }
  | .iminS _ _ _ _ b => { prefixable := true, zero := true, uniform := .one b }
  | .iminN _ _ _ _ b => { prefixable := true, zero := true, uniform := .one b }
  | .imaxS _ _ _ _ b => { prefixable := true, zero := true, uniform := .one b }
  | .imaxN _ _ _ _ b => { prefixable := true, zero := true, uniform := .one b }
  | .vand _ _ _ _ b => { prefixable := true, zero := true, uniform := .one b }
  | .vor _ _ _ _ b => { prefixable := true, zero := true, uniform := .one b }
  | .vxor _ _ _ _ b => { prefixable := true, zero := true, uniform := .one b }
  | .andn _ _ _ _ b => { prefixable := true, zero := true, uniform := .one b }
  | .shl _ _ _ _ b => { prefixable := true, zero := true, uniform := .one b }
  | .shr _ _ _ _ b => { prefixable := true, zero := true, uniform := .one b }
  | .sar _ _ _ _ b => { prefixable := true, zero := true, uniform := .one b }
  | .rot _ _ _ _ b => { prefixable := true, zero := true, uniform := .one b }
  | .bfe _ _ _ _ b => { prefixable := true, zero := true, uniform := .one b }
  | .bfi _ _ _ _ b => { prefixable := true, zero := true, third := true, uniform := .one b }
  | .bitopPopc _ _ _ _ => { prefixable := true, zero := true }
  | .bitopClz _ _ _ _ => { prefixable := true, zero := true }
  | .bitopCtz _ _ _ _ => { prefixable := true, zero := true }
  | .bitopBrev _ _ _ _ => { prefixable := true, zero := true }
  | .bitopNot _ _ _ _ => { prefixable := true, zero := true }
  | .icmp _ _ k _ b => { own := decide (k.toNat ≤ 9), prefixable := true, zero := true, uniform := .one b }
  | .sel _ _ _ _ b => { prefixable := true, zero := true, uniform := .one b }
  | .mov _ _ _ _ => { prefixable := true, zero := true }
  | .prmt _ _ _ _ b => { prefixable := true, zero := true, third := true, uniform := .one b }
  | .iadd64 _ _ d a b => { own := even d && even a && even b, prefixable := true, zero := true, uniform := .pair b }
  | .isub64 _ _ d a b => { own := even d && even a && even b, prefixable := true, zero := true, uniform := .pair b }
  | .lea _ _ d a b => { own := even d && even a, prefixable := true, zero := true, uniform := .one b, ext := .lea }
  | .fadd _ _ _ _ b => { prefixable := true, zero := true, rounds := true, uniform := .one b }
  | .fsub _ _ _ _ b => { prefixable := true, zero := true, rounds := true, uniform := .one b }
  | .fmul _ _ _ _ b => { prefixable := true, zero := true, rounds := true, uniform := .one b }
  | .ffma _ _ _ _ b => { prefixable := true, zero := true, rounds := true, third := true, uniform := .one b }
  | .ffms _ _ _ _ b => { prefixable := true, zero := true, rounds := true, third := true, uniform := .one b }
  | .fnma _ _ _ _ b => { prefixable := true, zero := true, rounds := true, third := true, uniform := .one b }
  | .fmin _ _ _ _ b => { prefixable := true, zero := true, uniform := .one b }
  | .fminn _ _ _ _ b => { prefixable := true, zero := true, uniform := .one b }
  | .fmax _ _ _ _ b => { prefixable := true, zero := true, uniform := .one b }
  | .fmaxn _ _ _ _ b => { prefixable := true, zero := true, uniform := .one b }
  | .fcmp _ _ k _ b => { own := decide (k.toNat ≤ 7), prefixable := true, zero := true, uniform := .one b }
  | .fclass _ _ _ _ => { prefixable := true, zero := true }
  | .fcpsgn _ _ _ _ b => { prefixable := true, zero := true, uniform := .one b }
  | .frnd _ _ _ _ => { prefixable := true, zero := true, rounds := true }
  | .ffract _ _ _ _ => { prefixable := true, zero := true, rounds := true }
  | .fsat _ _ _ _ => { prefixable := true, zero := true }
  | .flerp _ _ _ _ b => { prefixable := true, zero := true, rounds := true, third := true, uniform := .one b }
  | .fmed3 _ _ _ _ b => { prefixable := true, zero := true, third := true, uniform := .one b }
  | .hadd2 _ _ _ _ b => { prefixable := true, zero := true, rounds := true, uniform := .one b }
  | .hmul2 _ _ _ _ b => { prefixable := true, zero := true, rounds := true, uniform := .one b }
  | .hfma2 _ _ _ _ b => { prefixable := true, zero := true, rounds := true, third := true, uniform := .one b }
  | .badd2 _ _ _ _ b => { prefixable := true, zero := true, rounds := true, uniform := .one b }
  | .bmul2 _ _ _ _ b => { prefixable := true, zero := true, rounds := true, uniform := .one b }
  | .bfma2 _ _ _ _ b => { prefixable := true, zero := true, rounds := true, third := true, uniform := .one b }
  | .fdot2h _ _ _ _ b => { prefixable := true, zero := true, rounds := true, third := true, uniform := .one b }
  | .fdot2b _ _ _ _ b => { prefixable := true, zero := true, rounds := true, third := true, uniform := .one b }
  | .iaddi _ _ _ _ => { prefixable := true, zero := true, ext := .imm }
  | .imuli _ _ _ _ => { prefixable := true, zero := true, ext := .imm }
  | .andi _ _ _ _ => { prefixable := true, zero := true, ext := .imm }
  | .ori _ _ _ _ => { prefixable := true, zero := true, ext := .imm }
  | .xori _ _ _ _ => { prefixable := true, zero := true, ext := .imm }
  | .shli _ _ _ _ => { prefixable := true, zero := true, ext := .imm }
  | .shri _ _ _ _ => { prefixable := true, zero := true, ext := .imm }
  | .sari _ _ _ _ => { prefixable := true, zero := true, ext := .imm }
  | .icmpi _ k _ _ => { own := decide (k.toNat ≤ 9), prefixable := true, zero := true, ext := .imm }
  | .movi _ _ _ => { prefixable := true, zero := true, ext := .imm }
  | .laneidx _ _ _ _ => { prefixable := true, zero := true, ext := .imm }
  | .fmuli _ _ _ _ => { prefixable := true, zero := true, rounds := true, ext := .low8 }
  | .faddi _ _ _ _ => { prefixable := true, zero := true, rounds := true, ext := .low8 }
  | .iminiS _ _ _ _ => { prefixable := true, zero := true, ext := .imm }
  | .imaxiS _ _ _ _ => { prefixable := true, zero := true, ext := .imm }
  | .wadd _ _ _ _ => {}
  | .wsub _ _ _ _ => {}
  | .wmul _ _ _ _ => {}
  | .wand _ _ _ _ => {}
  | .wor _ _ _ _ => {}
  | .wxor _ _ _ _ => {}
  | .wshl _ _ _ _ => {}
  | .wshr _ _ _ _ => {}
  | .wsar _ _ _ _ => {}
  | .wcmp _ k _ _ => { own := decide (k.toNat ≤ 9) }
  | .wsel _ _ _ _ => {}
  | .wmov _ _ _ => {}
  | .wli _ _ _ => {}
  | .wlih _ _ _ => {}
  | .wadd64 _ d a b => { own := even8 d && even8 a && b.getLsbD 0 == false }
  | .wtov _ _ _ => {}
  | .vtow _ _ _ b => { own := !b.getLsbD 5 || b == 0x20 }
  | .waddi _ _ _ _ => {}
  | .wmin _ _ _ _ => {}
  | .wmax _ _ _ _ => {}
  | .shflIdx _ _ _ _ b => { prefixable := true, zero := true, uniform := .one b }
  | .shflUp _ _ _ _ b => { prefixable := true, zero := true, uniform := .one b }
  | .shflDn _ _ _ _ b => { prefixable := true, zero := true, uniform := .one b }
  | .shflXor _ _ _ _ b => { prefixable := true, zero := true, uniform := .one b }
  | .voteAny _ _ _ _ => { prefixable := true, zero := true }
  | .voteAll _ _ _ _ => { prefixable := true, zero := true }
  | .ballot _ _ _ _ => { prefixable := true }
  | .matchLanes _ _ _ _ => { prefixable := true, zero := true }
  | .redAdd _ _ _ _ b => { own := (b == 0 || decide (8 ≤ b.toNat ∧ b.toNat < 16)), prefixable := true, zero := true }
  | .redMinS _ _ _ _ b => { own := (b == 0 || decide (8 ≤ b.toNat ∧ b.toNat < 16)), prefixable := true, zero := true }
  | .redMinN _ _ _ _ b => { own := (b == 0 || decide (8 ≤ b.toNat ∧ b.toNat < 16)), prefixable := true, zero := true }
  | .redMaxS _ _ _ _ b => { own := (b == 0 || decide (8 ≤ b.toNat ∧ b.toNat < 16)), prefixable := true, zero := true }
  | .redMaxN _ _ _ _ b => { own := (b == 0 || decide (8 ≤ b.toNat ∧ b.toNat < 16)), prefixable := true, zero := true }
  | .redAnd _ _ _ _ b => { own := (b == 0 || decide (8 ≤ b.toNat ∧ b.toNat < 16)), prefixable := true, zero := true }
  | .redOr _ _ _ _ b => { own := (b == 0 || decide (8 ≤ b.toNat ∧ b.toNat < 16)), prefixable := true, zero := true }
  | .redFadd _ _ _ _ b => { own := (b == 0 || decide (8 ≤ b.toNat ∧ b.toNat < 16)), prefixable := true, zero := true, rounds := true }
  | .scanAdd _ _ _ _ b => { own := (b == 0 || decide (8 ≤ b.toNat ∧ b.toNat < 16)), prefixable := true, zero := true }
  | .scanFadd _ _ _ _ b => { own := (b == 0 || decide (8 ≤ b.toNat ∧ b.toNat < 16)), prefixable := true, zero := true, rounds := true }
  | .mand _ _ _ _ _ => { prefixable := true, pred := false }
  | .mor _ _ _ _ _ => { prefixable := true, pred := false }
  | .mxor _ _ _ _ _ => { prefixable := true, pred := false }
  | .mandn _ _ _ _ _ => { prefixable := true, pred := false }
  | .mmov _ _ _ _ => { prefixable := true, pred := false }
  | .mpopc _ _ _ _ => { prefixable := true, zero := true }
  | .mpopcRank _ _ _ _ => { prefixable := true, zero := true }
  | .mfirst _ _ _ _ => { prefixable := true, zero := true }
  | .mtov _ _ _ _ => { prefixable := true, zero := true }
  | .vtom _ _ _ _ _ => { prefixable := true, zero := true }
  | .elect _ _ _ => { prefixable := true }
  | .issuem _ _ _ => { prefixable := true }
  | .bra _ _ => {}
  | .brc _ _ _ _ => {}
  | .brw _ _ _ => {}
  | .call _ _ => {}
  | .bri _ _ _ => {}
  | .calli _ _ _ _ => {}
  | .ret _ _ _ => {}
  | .split _ _ _ => {}
  | .join _ _ _ => {}
  | .exit _ _ => {}
  | .endAll _ _ => {}
  | .loopw _ _ _ => {}
  | .ldB8 _ _ _ _ _ => { prefixable := true, zero := true, ext := .load }
  | .ldS8 _ _ _ _ _ => { prefixable := true, zero := true, ext := .load }
  | .ldB16 _ _ _ _ _ => { prefixable := true, zero := true, ext := .load }
  | .ldS16 _ _ _ _ _ => { prefixable := true, zero := true, ext := .load }
  | .ldB32 _ _ _ _ _ => { prefixable := true, zero := true, ext := .load }
  | .ldB64 _ _ d _ _ => { own := even d, prefixable := true, zero := true, ext := .load }
  | .ldB128 _ _ d _ _ => { own := quad d, prefixable := true, zero := true, ext := .load }
  | .stB8 _ _ _ _ _ => { prefixable := true, ext := .store }
  | .stB16 _ _ _ _ _ => { prefixable := true, ext := .store }
  | .stB32 _ _ _ _ _ => { prefixable := true, ext := .store }
  | .stB64 _ _ d _ _ => { own := even d, prefixable := true, ext := .store }
  | .stB128 _ _ d _ _ => { own := quad d, prefixable := true, ext := .store }
  | .ldsB32 _ _ _ _ _ => { prefixable := true, zero := true, ext := .load }
  | .ldsB64 _ _ d _ _ => { own := even d, prefixable := true, zero := true, ext := .load }
  | .ldsB128 _ _ d _ _ => { own := quad d, prefixable := true, zero := true, ext := .load }
  | .stsB32 _ _ _ _ _ => { prefixable := true, ext := .store }
  | .stsB64 _ _ d _ _ => { own := even d, prefixable := true, ext := .store }
  | .stsB128 _ _ d _ _ => { own := quad d, prefixable := true, ext := .store }
  | .ldw _ _ _ _ _ => { prefixable := true, pred := false, ext := .load }
  | .pref _ _ _ _ _ => { prefixable := true, ext := .hint }
  | .atomAdd32 _ _ _ _ _ => { prefixable := true, zero := true, ext := .atomic }
  | .atomAdd64 _ _ d _ _ => { own := even d, prefixable := true, zero := true, ext := .atomic }
  | .atomSub32 _ _ _ _ _ => { prefixable := true, zero := true, ext := .atomic }
  | .atomSub64 _ _ d _ _ => { own := even d, prefixable := true, zero := true, ext := .atomic }
  | .atomMinS32 _ _ _ _ _ => { prefixable := true, zero := true, ext := .atomic }
  | .atomMinS64 _ _ d _ _ => { own := even d, prefixable := true, zero := true, ext := .atomic }
  | .atomMinN32 _ _ _ _ _ => { prefixable := true, zero := true, ext := .atomic }
  | .atomMinN64 _ _ d _ _ => { own := even d, prefixable := true, zero := true, ext := .atomic }
  | .atomMaxS32 _ _ _ _ _ => { prefixable := true, zero := true, ext := .atomic }
  | .atomMaxS64 _ _ d _ _ => { own := even d, prefixable := true, zero := true, ext := .atomic }
  | .atomMaxN32 _ _ _ _ _ => { prefixable := true, zero := true, ext := .atomic }
  | .atomMaxN64 _ _ d _ _ => { own := even d, prefixable := true, zero := true, ext := .atomic }
  | .atomAnd32 _ _ _ _ _ => { prefixable := true, zero := true, ext := .atomic }
  | .atomAnd64 _ _ d _ _ => { own := even d, prefixable := true, zero := true, ext := .atomic }
  | .atomOr32 _ _ _ _ _ => { prefixable := true, zero := true, ext := .atomic }
  | .atomOr64 _ _ d _ _ => { own := even d, prefixable := true, zero := true, ext := .atomic }
  | .atomXor32 _ _ _ _ _ => { prefixable := true, zero := true, ext := .atomic }
  | .atomXor64 _ _ d _ _ => { own := even d, prefixable := true, zero := true, ext := .atomic }
  | .atomExch32 _ _ _ _ _ => { prefixable := true, zero := true, ext := .atomic }
  | .atomExch64 _ _ d _ _ => { own := even d, prefixable := true, zero := true, ext := .atomic }
  | .atomCas32 _ _ d _ _ => { own := even d, prefixable := true, zero := true, ext := .atomic }
  | .atomCas64 _ _ d _ _ => { own := quad d, prefixable := true, zero := true, ext := .atomic }
  | .atomInc32 _ _ _ _ _ => { prefixable := true, zero := true, ext := .atomic }
  | .atomInc64 _ _ d _ _ => { own := even d, prefixable := true, zero := true, ext := .atomic }
  | .atomDec32 _ _ _ _ _ => { prefixable := true, zero := true, ext := .atomic }
  | .atomDec64 _ _ d _ _ => { own := even d, prefixable := true, zero := true, ext := .atomic }
  | .atomFaddF32 _ _ _ _ _ => { prefixable := true, zero := true, ext := .atomic }
  | .atomFadd2Bf16 _ _ _ _ _ => { prefixable := true, zero := true, ext := .atomic }
  | .mma _ _ sh _ x y => { own := shapeLegal sh x y, prefixable := true, ext := .scale }
  | .mman _ _ sh _ x y => { own := shapeLegal sh x y, prefixable := true, ext := .scale }
  | .mmas _ _ _ _ y => { own := decide (y.toNat ≤ 62), prefixable := true, third := true, needs := true, ext := .bytes }
  | .mmaz _ _ sh _ x y => { own := shapeLegal sh x y, prefixable := true, ext := .scale }
  | .aclr _ _ _ _ => { prefixable := true }
  | .aanc _ _ _ _ x => { prefixable := true, ext := .anchor (x == 0) }
  | .ares _ _ _ _ f y => { own := decide (f.toNat ≤ 7 ∧ 2 * y.toNat + resolveRegs f.toNat ≤ 128), prefixable := true, rounds := true }
  | .acmp _ _ _ _ _ _ _ => { prefixable := true }
  | .adrainRaw _ _ _ _ _ => { prefixable := true, ext := .pitch 192 }
  | .adrainValue _ _ _ _ _ f => { own := decide (f.toNat ≤ 7), prefixable := true, rounds := true, ext := .pitch (rowBytes f.toNat) }
  | .adrainAdd _ _ _ _ _ => { prefixable := true, ext := .pitch 192 }
  | .adrainValueAdd _ _ _ _ _ f => { own := [0, 1, 2, 5].contains f.toNat, prefixable := true, rounds := true, ext := .pitch (rowBytes f.toNat) }
  | .aloadRaw _ _ _ _ _ => { prefixable := true, ext := .pitch 192 }
  | .aloadValue _ _ _ _ _ f => { own := [0, 1, 2, 5].contains f.toNat, prefixable := true, ext := .pitch (rowBytes f.toNat) }
  | .scld _ _ _ _ _ => { prefixable := true }
  | .mfmt _ _ im => { own := mfmtLegal im, prefixable := true }
  | .tmma _ _ _ y => { own := decide (y.toNat % 8 = 0), prefixable := true }
  | .twait _ _ _ => { prefixable := true }
  | .twaitOc _ _ _ => { prefixable := true }
  | .acanon _ _ _ _ => { prefixable := true }
  | .amov _ _ _ _ _ => { prefixable := true }
  | .edge _ _ _ x y => { own := decide (x.toNat ≤ 30 ∧ y.toNat % 2 = 0), prefixable := true }
  | .bary _ _ x _ => { own := decide (x.toNat ≤ 30), prefixable := true, rounds := true, zero := true }
  | .covpk _ _ _ _ _ => { prefixable := true }
  | .texg _ _ _ _ y => { own := decide (y.toNat % 2 = 0), prefixable := true, zero := true }
  | .filt _ _ sh _ _ y => { own := decide (sh.toNat ≤ 2 ∧ y.toNat ≤ 62), prefixable := true, rounds := true, zero := true }
  | .blnd _ _ g _ _ => { own := decide (g.toNat ≤ 30), prefixable := true, rounds := true }
  | .cpack _ _ _ _ _ => { prefixable := true }
  | .cunpk _ _ _ _ => { prefixable := true }
  | .meshemit _ _ _ _ => { prefixable := true }
  | .binnext _ _ g _ => { own := decide (g.toNat % 2 = 0), prefixable := true }
  | .bararr _ e b z => { own := barLegal e b z }
  | .barwait _ e b z => { own := barLegal e b z }
  | .barsync _ e b z => { own := barLegal e b z }
  | .barexp _ e _ b z => { own := barLegal e b z }
  | .ordenter _ a _ _ => { own := even a }
  | .ordleave _ a _ => { own := even a }
  | .ordskip _ a _ _ => { own := even a }
  | .ordtest _ a _ _ => { own := even a }
  | .seqnext _ _ _ => {}
  | .put _ e a _ => { own := wideScope e && quad a }
  | .putw _ e a _ _ => { own := wideScope e && even a }
  | .cwait _ e a _ => { own := wideScope e && even a }
  | .fenceAcq _ e => { own := decide (e.toNat ≤ 6) }
  | .fenceRel _ e => { own := decide (e.toNat ≤ 6) }
  | .fenceAr _ e => { own := decide (e.toNat ≤ 6) }
  | .fenceSc _ e => { own := decide (e.toNat ≤ 6) }
  | .scwait _ => {}
  | .qacq _ _ _ _ => {}
  | .qrel _ _ _ _ => {}
  | .qpacq _ _ _ _ => {}
  | .qpcommit _ _ _ _ => {}
  | .tcopy _ _ _ => {}
  | .tstore _ _ _ => {}
  | .apstart _ _ _ a => { own := decide (a.toNat ≤ 14) }
  | .apstop _ _ _ => {}
  | .xli _ _ _ => { flint := true }
  | .xlih _ _ _ => { flint := true }
  | .xadd _ _ _ _ => { flint := true }
  | .xmad _ _ _ _ => { flint := true }
  | .xloop _ _ _ => { flint := true }
  | .xloopSet _ _ _ => { flint := true }
  | .xfetch _ _ _ _ => { flint := true }
  | .xstore _ _ _ _ => { flint := true }
  | .xsigFill _ _ => { flint := true }
  | .xsigFree _ _ => { flint := true }
  | .xend _ => { flint := true }
  | .nop _ => {}
  | .sysrd _ _ _ => {}
  | .syswr _ _ _ => {}
  | .trap _ _ => {}
  | .trapret _ p => { own := decide (p.toNat ≤ 2) }
  | .frsave _ _ => {}
  | .frload _ _ => {}
  | .region _ p m => { own := decide (p.toNat ≤ 128 ∧ m.toNat ≤ 256) }
  | .reggrowTry _ m => { own := rowsLegal m }
  | .reggrowWait _ m => { own := rowsLegal m }
  | .regshrink _ m => { own := rowsLegal m }
  | .vfree _ p m => { own := decide (p.toNat + m.toNat ≤ 127) }
  | .query _ _ _ => {}
  | .launch _ p _ => { own := even8 p }
  | .bkpt _ _ => {}
  | .waitev _ _ => {}
  | .perfrd _ p _ => { own := even8 p }
  | .rngseed _ p => { own := even p }
  | .modesetWrite _ _ => {}
  | .modesetOr _ _ => {}
  | .modesetAndn _ _ => {}
  | .modesetTen _ _ => {}
  | .tinfo _ _ _ => {}
  | .cvtf _ _ sh _ _ => { own := decide (sh.toNat ≤ 14), prefixable := true, zero := true, rounds := [0, 1, 4, 5, 6, 7, 8, 9, 10, 11].contains sh.toNat }
  | .cvtfi _ _ sh d _ => { own := convLegal sh d, prefixable := true, zero := true, rounds := true }
  | .cvtif _ _ sh _ a => { own := convLegal sh a, prefixable := true, zero := true, rounds := true }
  | .pack2 _ _ sh _ a => { own := decide (sh.toNat ≤ 3 ∧ a.toNat ≤ 126), prefixable := true, zero := true, rounds := decide (sh.toNat ≤ 1) }
  | .pack4 _ _ sh _ a => { own := decide (sh.toNat ≤ 7 ∧ a.toNat ≤ 124), prefixable := true, zero := true, rounds := !(([4, 5] : List Nat).contains sh.toNat) }
  | .unpk _ _ sh _ _ => { own := decide (sh.toNat ≤ 11), prefixable := true, zero := true, ext := .elem (unpkCount sh.toNat) }
  | .rcp _ _ sh _ _ => { own := decide (sh.toNat ≤ 1), prefixable := true, zero := true, rounds := true }
  | .rsq _ _ sh _ _ => { own := decide (sh.toNat ≤ 1), prefixable := true, zero := true }
  | .sqrt _ _ sh _ _ => { own := decide (sh.toNat ≤ 1), prefixable := true, zero := true, rounds := true }
  | .exp2 _ _ sh _ _ => { own := decide (sh.toNat ≤ 1), prefixable := true, zero := true }
  | .log2 _ _ sh _ _ => { own := decide (sh.toNat ≤ 1), prefixable := true, zero := true }
  | .sinp _ _ sh _ _ => { own := decide (sh.toNat ≤ 1), prefixable := true, zero := true }
  | .cosp _ _ sh _ _ => { own := decide (sh.toNat ≤ 1), prefixable := true, zero := true }
  | .tanh _ _ sh _ _ => { own := decide (sh.toNat ≤ 1), prefixable := true, zero := true }
  | .rng _ _ sh _ => { own := decide (sh.toNat ≤ 1), prefixable := true, zero := true }
  | .pfx m k r _ _ _ _ => { own := (m == 1 || k == 0) && r != 7 }
  | .illegalInstruction => {}
  | .instructionFetchFault => {}
  | .rejoinRelease _ _ => {}
  | .longLatencyCompletion _ => {}
  | .storeAcknowledgement _ => {}
  | .homeAtomic _ => {}
  | .homeRawMerge _ => {}
  | .homeValueAdd _ => {}
  | .trapEntry _ => {}
  | .reggrowWaitGrant _ => {}
  | .reggrowEviction _ => {}
  | .evictedWarpReadmission _ => {}
  | .warpEnd _ => {}
  | .barrierRelease _ _ _ => {}
  | .peerBarrierMessage _ _ _ => {}
  | .ordRequestAtHome _ => {}
  | .ordLeaveAtHome _ => {}
  | .ordGrant _ => {}
  | .quietIntervalEnd _ => {}
  | .putArrival _ => {}
  | .ringReconfigure _ _ => {}
  | .copySlotAcquire _ => {}
  | .copyBytesLand _ => {}
  | .flintRequestResume _ _ => {}
  | .tmmaKstep _ _ => {}
  | .classifyMeshlet _ => {}
  | .shaleBatchHandout _ => {}
  | .stageStart _ _ => {}
  | .stageCompletion _ _ => {}
  | .queueDoorbell _ _ => {}
  | .run _ => {}
  | .event _ => {}
  | .domalloc _ => {}
  | .domfree _ => {}
  | .abort _ => {}
  | .qctlWrite _ _ => {}
  | .residencyWalk _ => {}
  | .gangPlacement _ => {}
  | .preemption _ => {}
  | .drainApproachExpiry _ => {}
  | .saveBlockStore _ _ => {}
  | .sliceExpiry _ _ => {}
  | .fenceWaitPoll _ => {}
  | .launchCompletion _ => {}
  | .gangIndexMirror _ => {}
  | .launchNodeCopyDone _ => {}
  | .dieFailure _ => {}
  | .dieFailureGraceEnd _ => {}
  | .iqDoorbell _ => {}
  | .inval => {}
  | .retry => {}
  | .refuse => {}
  | .sync => {}
  | .invalCompletion => {}
  | .iqctlWrite _ => {}
  | .atctlWrite _ => {}
  | .ordovfctlWrite _ => {}
  | .pwrcapWrite _ => {}
  | .cxlClearIsolation _ => {}
  | .registerWrite _ _ => {}
  | .systemAgentAccess _ _ _ => {}
  | .flitReceive _ _ => {}
  | .storageError _ _ _ => {}
  | .errorWindowEnd _ => {}
  | .accessTimeout _ => {}
  | .cxlReadTimeout _ => {}
  | .peerPortDown _ => {}
  | .linkUp _ _ => {}
  | .coldReset => {}
  | .gneissImageLoad _ => {}
  | .serviceFirmwareLoad _ => {}
  | .attestationRequest _ => {}
  | .thermalTrip => {}
  | .debugResume _ => {}
  | .flintIllegalInstruction _ _ => {}
  | .flintCodeFetchFault _ _ => {}
  | .rqctlWrite _ => {}
  | .elctlWrite _ => {}

/-! ## Pairs -/

/-- A field of a word, as a number. -/
def wfield (w : BitVec 32) (lo n : Nat) : Nat := (w.extractLsb' lo n).toNat
/-- R26, R29: X beside an instruction, without WS. -/
def Ext.legal (e : Ext) (p : BitVec 32) : Bool :=
  let x := wfield p 0 11
  let ord := wfield p 9 2
  let scope := wfield p 6 3
  match e with
  | .zero => x == 0
  | .lea => decide (x < 16)
  | .imm => true
  | .low8 => decide (x < 256)
  | .elem n => decide (x < n)
  | .load => decide (ord ≤ 1 ∧ scope ≤ 6)
  | .store => decide ((ord = 0 ∨ ord = 2) ∧ scope ≤ 6)
  | .hint => decide (ord = 0 ∧ scope ≤ 6)
  | .atomic => decide (scope ≤ 6 ∧ wfield p 2 4 = 0) && !(p.getLsbD 0 && p.getLsbD 19)
  | .scale => decide (x < 1024)
  | .bytes => decide (x < 16)
  | .anchor z => decide (x ≤ 1) && !(z && x == 1)
  | .pitch row => decide (x ≠ 0 ∧ row ≤ 16 * x)
/-- R26: WS and X together. -/
def Rules.extLegal (r : Rules) (p : BitVec 32) : Bool :=
  if p.getLsbD 11 then
    match r.uniform with
    | .no => false
    | .one b => b == 0 && decide (wfield p 8 3 = 0)
    | .pair b => b == 0 && decide (wfield p 8 3 = 0) && !p.getLsbD 0
  else r.ext.legal p
/-- R24, R26, R27, R34: the prefix word `p` and the base instruction form an instruction. -/
def Instr.pairLegal (p : BitVec 32) (i : Instr) : Bool :=
  let r := i.rules
  r.own && r.prefixable && !p.getLsbD 31 && (p.getLsbD 26 || wfield p 23 3 == 0) && (r.pred || !p.getLsbD 26) &&
    wfield p 20 3 != 7 && (r.rounds || wfield p 20 3 == 0) && (r.zero || !p.getLsbD 19) && (r.third || wfield p 12 7 == 0) &&
    r.extLegal p

end Sys2Proof
end

