-- ==== Sys2Proof/Machine/Names.lean ====
section
/-! DEFINITION. The registers that an instruction names: its sources and destinations in the scoreboard (R45, R56), with the prefix
word before it.

A register is a number: v0 to v127 from 0, w0 to w255 from 128, m0 to m7 from 384, j0 to j7 from 392. -/

namespace Sys2Proof

/-- Sources and destinations. -/
structure Names where
  reads : List Nat
  writes : List Nat
  deriving DecidableEq, Repr

def vRun (r n : Nat) : List Nat := (List.range n).map (r + ·)
def wRun (r n : Nat) : List Nat := (List.range n).map (128 + r + ·)
def mRun (k : Nat) : List Nat := [384 + k]
def jRun (k : Nat) : List Nat := [392 + k]
/-- R99: operand c. -/
def thirdOf (p : Option (BitVec 32)) (d : BitVec 7) : List Nat := match p with
  | some w => [wfield w 12 7]
  | none => [d.toNat]
/-- R26: source B, of one register or a pair. -/
def secondOf (p : Option (BitVec 32)) (b : BitVec 7) (n : Nat) : List Nat := match p with
  | some w => if w.getLsbD 11 then wRun (wfield w 0 8) n else vRun b.toNat n
  | none => vRun b.toNat n
/-- R186: the scale register of MMAS. -/
def quartOf (p : Option (BitVec 32)) : List Nat := match p with
  | some w => [wfield w 12 7]
  | none => []
/-- R29, R169. -/
def spadOf (p : Option (BitVec 32)) : Bool := match p with
  | some w => w.getLsbD 1
  | none => false
def noReturn (p : Option (BitVec 32)) : Bool := match p with
  | some w => w.getLsbD 0
  | none => false
/-- R143: the mask of a contribution. -/
def contribOf (b : BitVec 7) : List Nat := if b.getLsbD 3 then mRun (b.toNat % 8) else []
/-- R177: the uniform register of a region tile. -/
def regionOf (sh : BitVec 1) (g : BitVec 5) : List Nat := if sh = 1 then wRun g.toNat 1 else []
/-- R246: the register groups. -/
def groupsOf (g : BitVec 4) : List Nat :=
  (if g.getLsbD 0 then vRun 0 128 else []) ++ (if g.getLsbD 1 then wRun 0 256 else []) ++
    (if g.getLsbD 2 then (List.range 16).map (384 + ·) else [])

/-- The registers of every instruction after the prefix word `p`, its predicate apart; an event names none. -/
def Instr.ownNames (p : Option (BitVec 32)) : Instr → Names
  | .iadd _ _ d a b => ⟨vRun a.toNat 1 ++ secondOf p b 1, vRun d.toNat 1⟩
  | .isub _ _ d a b => ⟨vRun a.toNat 1 ++ secondOf p b 1, vRun d.toNat 1⟩
  | .imul _ _ d a b => ⟨vRun a.toNat 1 ++ secondOf p b 1, vRun d.toNat 1⟩
  | .imulhiS _ _ d a b => ⟨vRun a.toNat 1 ++ secondOf p b 1, vRun d.toNat 1⟩
  | .imulhiN _ _ d a b => ⟨vRun a.toNat 1 ++ secondOf p b 1, vRun d.toNat 1⟩
  | .imad _ _ d a b => ⟨thirdOf p d ++ vRun a.toNat 1 ++ secondOf p b 1, vRun d.toNat 1⟩
  | .iaddsS _ _ d a b => ⟨vRun a.toNat 1 ++ secondOf p b 1, vRun d.toNat 1⟩
  | .iaddsN _ _ d a b => ⟨vRun a.toNat 1 ++ secondOf p b 1, vRun d.toNat 1⟩
  | .isubsS _ _ d a b => ⟨vRun a.toNat 1 ++ secondOf p b 1, vRun d.toNat 1⟩
  | .isubsN _ _ d a b => ⟨vRun a.toNat 1 ++ secondOf p b 1, vRun d.toNat 1⟩
  | .iminS _ _ d a b => ⟨vRun a.toNat 1 ++ secondOf p b 1, vRun d.toNat 1⟩
  | .iminN _ _ d a b => ⟨vRun a.toNat 1 ++ secondOf p b 1, vRun d.toNat 1⟩
  | .imaxS _ _ d a b => ⟨vRun a.toNat 1 ++ secondOf p b 1, vRun d.toNat 1⟩
  | .imaxN _ _ d a b => ⟨vRun a.toNat 1 ++ secondOf p b 1, vRun d.toNat 1⟩
  | .vand _ _ d a b => ⟨vRun a.toNat 1 ++ secondOf p b 1, vRun d.toNat 1⟩
  | .vor _ _ d a b => ⟨vRun a.toNat 1 ++ secondOf p b 1, vRun d.toNat 1⟩
  | .vxor _ _ d a b => ⟨vRun a.toNat 1 ++ secondOf p b 1, vRun d.toNat 1⟩
  | .andn _ _ d a b => ⟨vRun a.toNat 1 ++ secondOf p b 1, vRun d.toNat 1⟩
  | .shl _ _ d a b => ⟨vRun a.toNat 1 ++ secondOf p b 1, vRun d.toNat 1⟩
  | .shr _ _ d a b => ⟨vRun a.toNat 1 ++ secondOf p b 1, vRun d.toNat 1⟩
  | .sar _ _ d a b => ⟨vRun a.toNat 1 ++ secondOf p b 1, vRun d.toNat 1⟩
  | .rot _ _ d a b => ⟨vRun a.toNat 1 ++ secondOf p b 1, vRun d.toNat 1⟩
  | .bfe _ _ d a b => ⟨vRun a.toNat 1 ++ secondOf p b 1, vRun d.toNat 1⟩
  | .bfi _ _ d a b => ⟨thirdOf p d ++ vRun a.toNat 1 ++ secondOf p b 1, vRun d.toNat 1⟩
  | .bitopPopc _ _ d a => ⟨vRun a.toNat 1, vRun d.toNat 1⟩
  | .bitopClz _ _ d a => ⟨vRun a.toNat 1, vRun d.toNat 1⟩
  | .bitopCtz _ _ d a => ⟨vRun a.toNat 1, vRun d.toNat 1⟩
  | .bitopBrev _ _ d a => ⟨vRun a.toNat 1, vRun d.toNat 1⟩
  | .bitopNot _ _ d a => ⟨vRun a.toNat 1, vRun d.toNat 1⟩
  | .icmp _ _ _ a b => ⟨vRun a.toNat 1 ++ secondOf p b 1 ++ [384], [384]⟩
  | .sel _ _ d a b => ⟨vRun a.toNat 1 ++ secondOf p b 1 ++ [384], vRun d.toNat 1⟩
  | .mov _ _ d a => ⟨vRun a.toNat 1, vRun d.toNat 1⟩
  | .prmt _ _ d a b => ⟨thirdOf p d ++ vRun a.toNat 1 ++ secondOf p b 1, vRun d.toNat 1⟩
  | .iadd64 _ _ d a b => ⟨vRun a.toNat 2 ++ secondOf p b 2, vRun d.toNat 2⟩
  | .isub64 _ _ d a b => ⟨vRun a.toNat 2 ++ secondOf p b 2, vRun d.toNat 2⟩
  | .lea _ _ d a b => ⟨vRun a.toNat 2 ++ secondOf p b 1, vRun d.toNat 2⟩
  | .fadd _ _ d a b => ⟨vRun a.toNat 1 ++ secondOf p b 1, vRun d.toNat 1⟩
  | .fsub _ _ d a b => ⟨vRun a.toNat 1 ++ secondOf p b 1, vRun d.toNat 1⟩
  | .fmul _ _ d a b => ⟨vRun a.toNat 1 ++ secondOf p b 1, vRun d.toNat 1⟩
  | .ffma _ _ d a b => ⟨thirdOf p d ++ vRun a.toNat 1 ++ secondOf p b 1, vRun d.toNat 1⟩
  | .ffms _ _ d a b => ⟨thirdOf p d ++ vRun a.toNat 1 ++ secondOf p b 1, vRun d.toNat 1⟩
  | .fnma _ _ d a b => ⟨thirdOf p d ++ vRun a.toNat 1 ++ secondOf p b 1, vRun d.toNat 1⟩
  | .fmin _ _ d a b => ⟨vRun a.toNat 1 ++ secondOf p b 1, vRun d.toNat 1⟩
  | .fminn _ _ d a b => ⟨vRun a.toNat 1 ++ secondOf p b 1, vRun d.toNat 1⟩
  | .fmax _ _ d a b => ⟨vRun a.toNat 1 ++ secondOf p b 1, vRun d.toNat 1⟩
  | .fmaxn _ _ d a b => ⟨vRun a.toNat 1 ++ secondOf p b 1, vRun d.toNat 1⟩
  | .fcmp _ _ _ a b => ⟨vRun a.toNat 1 ++ secondOf p b 1 ++ [384], [384]⟩
  | .fclass _ _ d a => ⟨vRun a.toNat 1, vRun d.toNat 1⟩
  | .fcpsgn _ _ d a b => ⟨vRun a.toNat 1 ++ secondOf p b 1, vRun d.toNat 1⟩
  | .frnd _ _ d a => ⟨vRun a.toNat 1, vRun d.toNat 1⟩
  | .ffract _ _ d a => ⟨vRun a.toNat 1, vRun d.toNat 1⟩
  | .fsat _ _ d a => ⟨vRun a.toNat 1, vRun d.toNat 1⟩
  | .flerp _ _ d a b => ⟨thirdOf p d ++ vRun a.toNat 1 ++ secondOf p b 1, vRun d.toNat 1⟩
  | .fmed3 _ _ d a b => ⟨thirdOf p d ++ vRun a.toNat 1 ++ secondOf p b 1, vRun d.toNat 1⟩
  | .hadd2 _ _ d a b => ⟨vRun a.toNat 1 ++ secondOf p b 1, vRun d.toNat 1⟩
  | .hmul2 _ _ d a b => ⟨vRun a.toNat 1 ++ secondOf p b 1, vRun d.toNat 1⟩
  | .hfma2 _ _ d a b => ⟨thirdOf p d ++ vRun a.toNat 1 ++ secondOf p b 1, vRun d.toNat 1⟩
  | .badd2 _ _ d a b => ⟨vRun a.toNat 1 ++ secondOf p b 1, vRun d.toNat 1⟩
  | .bmul2 _ _ d a b => ⟨vRun a.toNat 1 ++ secondOf p b 1, vRun d.toNat 1⟩
  | .bfma2 _ _ d a b => ⟨thirdOf p d ++ vRun a.toNat 1 ++ secondOf p b 1, vRun d.toNat 1⟩
  | .fdot2h _ _ d a b => ⟨thirdOf p d ++ vRun a.toNat 1 ++ secondOf p b 1, vRun d.toNat 1⟩
  | .fdot2b _ _ d a b => ⟨thirdOf p d ++ vRun a.toNat 1 ++ secondOf p b 1, vRun d.toNat 1⟩
  | .iaddi _ d a _ => ⟨[a.toNat], [d.toNat]⟩
  | .imuli _ d a _ => ⟨[a.toNat], [d.toNat]⟩
  | .andi _ d a _ => ⟨[a.toNat], [d.toNat]⟩
  | .ori _ d a _ => ⟨[a.toNat], [d.toNat]⟩
  | .xori _ d a _ => ⟨[a.toNat], [d.toNat]⟩
  | .shli _ d a _ => ⟨[a.toNat], [d.toNat]⟩
  | .shri _ d a _ => ⟨[a.toNat], [d.toNat]⟩
  | .sari _ d a _ => ⟨[a.toNat], [d.toNat]⟩
  | .icmpi _ _ a _ => ⟨[a.toNat] ++ [384], [384]⟩
  | .movi _ d _ => ⟨[], [d.toNat]⟩
  | .laneidx _ d a _ => ⟨[a.toNat], [d.toNat]⟩
  | .fmuli _ d a _ => ⟨[a.toNat], [d.toNat]⟩
  | .faddi _ d a _ => ⟨[a.toNat], [d.toNat]⟩
  | .iminiS _ d a _ => ⟨[a.toNat], [d.toNat]⟩
  | .imaxiS _ d a _ => ⟨[a.toNat], [d.toNat]⟩
  | .wadd _ d a b => ⟨wRun a.toNat 1 ++ wRun b.toNat 1, wRun d.toNat 1⟩
  | .wsub _ d a b => ⟨wRun a.toNat 1 ++ wRun b.toNat 1, wRun d.toNat 1⟩
  | .wmul _ d a b => ⟨wRun a.toNat 1 ++ wRun b.toNat 1, wRun d.toNat 1⟩
  | .wand _ d a b => ⟨wRun a.toNat 1 ++ wRun b.toNat 1, wRun d.toNat 1⟩
  | .wor _ d a b => ⟨wRun a.toNat 1 ++ wRun b.toNat 1, wRun d.toNat 1⟩
  | .wxor _ d a b => ⟨wRun a.toNat 1 ++ wRun b.toNat 1, wRun d.toNat 1⟩
  | .wshl _ d a b => ⟨wRun a.toNat 1 ++ wRun b.toNat 1, wRun d.toNat 1⟩
  | .wshr _ d a b => ⟨wRun a.toNat 1 ++ wRun b.toNat 1, wRun d.toNat 1⟩
  | .wsar _ d a b => ⟨wRun a.toNat 1 ++ wRun b.toNat 1, wRun d.toNat 1⟩
  | .wcmp _ _ a b => ⟨wRun a.toNat 1 ++ wRun b.toNat 1, []⟩
  | .wsel _ d a b => ⟨wRun a.toNat 1 ++ wRun b.toNat 1, wRun d.toNat 1⟩
  | .wmov _ d a => ⟨wRun a.toNat 1, wRun d.toNat 1⟩
  | .wli _ d _ => ⟨[], wRun d.toNat 1⟩
  | .wlih _ d _ => ⟨wRun d.toNat 1, wRun d.toNat 1⟩
  | .wadd64 _ d a b => ⟨wRun a.toNat 2 ++ wRun b.toNat 2, wRun d.toNat 2⟩
  | .wtov _ d a => ⟨wRun a.toNat 1, [d.toNat]⟩
  | .vtow _ d a _ => ⟨[a.toNat], wRun d.toNat 1⟩
  | .waddi _ d a _ => ⟨wRun a.toNat 1, wRun d.toNat 1⟩
  | .wmin _ d a b => ⟨wRun a.toNat 1 ++ wRun b.toNat 1, wRun d.toNat 1⟩
  | .wmax _ d a b => ⟨wRun a.toNat 1 ++ wRun b.toNat 1, wRun d.toNat 1⟩
  | .shflIdx _ _ d a b => ⟨[a.toNat] ++ secondOf p b 1, [d.toNat]⟩
  | .shflUp _ _ d a b => ⟨[a.toNat] ++ secondOf p b 1, [d.toNat]⟩
  | .shflDn _ _ d a b => ⟨[a.toNat] ++ secondOf p b 1, [d.toNat]⟩
  | .shflXor _ _ d a b => ⟨[a.toNat] ++ secondOf p b 1, [d.toNat]⟩
  | .voteAny _ _ d a => ⟨[a.toNat], [d.toNat]⟩
  | .voteAll _ _ d a => ⟨[a.toNat], [d.toNat]⟩
  | .ballot _ _ d a => ⟨[a.toNat], mRun d.toNat⟩
  | .matchLanes _ _ d a => ⟨[a.toNat], [d.toNat]⟩
  | .redAdd _ _ d a b => ⟨[a.toNat] ++ contribOf b, [d.toNat]⟩
  | .redMinS _ _ d a b => ⟨[a.toNat] ++ contribOf b, [d.toNat]⟩
  | .redMinN _ _ d a b => ⟨[a.toNat] ++ contribOf b, [d.toNat]⟩
  | .redMaxS _ _ d a b => ⟨[a.toNat] ++ contribOf b, [d.toNat]⟩
  | .redMaxN _ _ d a b => ⟨[a.toNat] ++ contribOf b, [d.toNat]⟩
  | .redAnd _ _ d a b => ⟨[a.toNat] ++ contribOf b, [d.toNat]⟩
  | .redOr _ _ d a b => ⟨[a.toNat] ++ contribOf b, [d.toNat]⟩
  | .redFadd _ _ d a b => ⟨[a.toNat] ++ contribOf b, [d.toNat]⟩
  | .scanAdd _ _ d a b => ⟨[a.toNat] ++ contribOf b, [d.toNat]⟩
  | .scanFadd _ _ d a b => ⟨[a.toNat] ++ contribOf b, [d.toNat]⟩
  | .mand _ _ d a b => ⟨mRun a.toNat ++ mRun b.toNat, mRun d.toNat⟩
  | .mor _ _ d a b => ⟨mRun a.toNat ++ mRun b.toNat, mRun d.toNat⟩
  | .mxor _ _ d a b => ⟨mRun a.toNat ++ mRun b.toNat, mRun d.toNat⟩
  | .mandn _ _ d a b => ⟨mRun a.toNat ++ mRun b.toNat, mRun d.toNat⟩
  | .mmov _ _ d a => ⟨mRun a.toNat, mRun d.toNat⟩
  | .mpopc _ _ d a => ⟨mRun a.toNat, [d.toNat]⟩
  | .mpopcRank _ _ d a => ⟨mRun a.toNat, [d.toNat]⟩
  | .mfirst _ _ d a => ⟨mRun a.toNat, [d.toNat]⟩
  | .mtov _ _ d a => ⟨mRun a.toNat, [d.toNat]⟩
  | .vtom _ _ d a _ => ⟨[a.toNat] ++ mRun d.toNat, mRun d.toNat⟩
  | .elect _ _ d => ⟨[], mRun d.toNat⟩
  | .issuem _ _ d => ⟨[], mRun d.toNat⟩
  | .bra _ _ => ⟨[], []⟩
  | .brc _ _ k _ => ⟨mRun k.toNat, []⟩
  | .brw _ _ _ => ⟨[], []⟩
  | .call _ _ => ⟨[], [127]⟩
  | .bri _ _ a => ⟨[a.toNat], []⟩
  | .calli _ _ d a => ⟨[a.toNat], [d.toNat]⟩
  | .ret _ _ a => ⟨[a.toNat], []⟩
  | .split _ _ d => ⟨[], jRun d.toNat⟩
  | .join _ _ d => ⟨jRun d.toNat, []⟩
  | .exit _ _ => ⟨[], []⟩
  | .endAll _ _ => ⟨[], []⟩
  | .loopw _ w _ => ⟨wRun w.toNat 1, wRun w.toNat 1⟩
  | .ldB8 _ _ d v w => ⟨[v.toNat] ++ wRun (2 * w.toNat) 2, vRun d.toNat 1⟩
  | .ldS8 _ _ d v w => ⟨[v.toNat] ++ wRun (2 * w.toNat) 2, vRun d.toNat 1⟩
  | .ldB16 _ _ d v w => ⟨[v.toNat] ++ wRun (2 * w.toNat) 2, vRun d.toNat 1⟩
  | .ldS16 _ _ d v w => ⟨[v.toNat] ++ wRun (2 * w.toNat) 2, vRun d.toNat 1⟩
  | .ldB32 _ _ d v w => ⟨[v.toNat] ++ wRun (2 * w.toNat) 2, vRun d.toNat 1⟩
  | .ldB64 _ _ d v w => ⟨[v.toNat] ++ wRun (2 * w.toNat) 2, vRun d.toNat 2⟩
  | .ldB128 _ _ d v w => ⟨[v.toNat] ++ wRun (2 * w.toNat) 2, vRun d.toNat 4⟩
  | .stB8 _ _ d v w => ⟨[v.toNat] ++ wRun (2 * w.toNat) 2 ++ vRun d.toNat 1, []⟩
  | .stB16 _ _ d v w => ⟨[v.toNat] ++ wRun (2 * w.toNat) 2 ++ vRun d.toNat 1, []⟩
  | .stB32 _ _ d v w => ⟨[v.toNat] ++ wRun (2 * w.toNat) 2 ++ vRun d.toNat 1, []⟩
  | .stB64 _ _ d v w => ⟨[v.toNat] ++ wRun (2 * w.toNat) 2 ++ vRun d.toNat 2, []⟩
  | .stB128 _ _ d v w => ⟨[v.toNat] ++ wRun (2 * w.toNat) 2 ++ vRun d.toNat 4, []⟩
  | .ldsB32 _ _ d v w => ⟨[v.toNat] ++ wRun (2 * w.toNat) 1, vRun d.toNat 1⟩
  | .ldsB64 _ _ d v w => ⟨[v.toNat] ++ wRun (2 * w.toNat) 1, vRun d.toNat 2⟩
  | .ldsB128 _ _ d v w => ⟨[v.toNat] ++ wRun (2 * w.toNat) 1, vRun d.toNat 4⟩
  | .stsB32 _ _ d v w => ⟨[v.toNat] ++ wRun (2 * w.toNat) 1 ++ vRun d.toNat 1, []⟩
  | .stsB64 _ _ d v w => ⟨[v.toNat] ++ wRun (2 * w.toNat) 1 ++ vRun d.toNat 2, []⟩
  | .stsB128 _ _ d v w => ⟨[v.toNat] ++ wRun (2 * w.toNat) 1 ++ vRun d.toNat 4, []⟩
  | .ldw _ _ d v w => ⟨wRun v.toNat 1 ++ wRun (2 * w.toNat) 2, wRun d.toNat 1⟩
  | .pref _ _ _ v w => ⟨[v.toNat] ++ wRun (2 * w.toNat) 2, []⟩
  | .atomAdd32 _ _ d v w => ⟨[v.toNat] ++ wRun (2 * w.toNat) (if spadOf p then 1 else 2) ++ vRun d.toNat 1, if noReturn p then [] else vRun d.toNat 1⟩
  | .atomAdd64 _ _ d v w => ⟨[v.toNat] ++ wRun (2 * w.toNat) (if spadOf p then 1 else 2) ++ vRun d.toNat 2, if noReturn p then [] else vRun d.toNat 2⟩
  | .atomSub32 _ _ d v w => ⟨[v.toNat] ++ wRun (2 * w.toNat) (if spadOf p then 1 else 2) ++ vRun d.toNat 1, if noReturn p then [] else vRun d.toNat 1⟩
  | .atomSub64 _ _ d v w => ⟨[v.toNat] ++ wRun (2 * w.toNat) (if spadOf p then 1 else 2) ++ vRun d.toNat 2, if noReturn p then [] else vRun d.toNat 2⟩
  | .atomMinS32 _ _ d v w => ⟨[v.toNat] ++ wRun (2 * w.toNat) (if spadOf p then 1 else 2) ++ vRun d.toNat 1, if noReturn p then [] else vRun d.toNat 1⟩
  | .atomMinS64 _ _ d v w => ⟨[v.toNat] ++ wRun (2 * w.toNat) (if spadOf p then 1 else 2) ++ vRun d.toNat 2, if noReturn p then [] else vRun d.toNat 2⟩
  | .atomMinN32 _ _ d v w => ⟨[v.toNat] ++ wRun (2 * w.toNat) (if spadOf p then 1 else 2) ++ vRun d.toNat 1, if noReturn p then [] else vRun d.toNat 1⟩
  | .atomMinN64 _ _ d v w => ⟨[v.toNat] ++ wRun (2 * w.toNat) (if spadOf p then 1 else 2) ++ vRun d.toNat 2, if noReturn p then [] else vRun d.toNat 2⟩
  | .atomMaxS32 _ _ d v w => ⟨[v.toNat] ++ wRun (2 * w.toNat) (if spadOf p then 1 else 2) ++ vRun d.toNat 1, if noReturn p then [] else vRun d.toNat 1⟩
  | .atomMaxS64 _ _ d v w => ⟨[v.toNat] ++ wRun (2 * w.toNat) (if spadOf p then 1 else 2) ++ vRun d.toNat 2, if noReturn p then [] else vRun d.toNat 2⟩
  | .atomMaxN32 _ _ d v w => ⟨[v.toNat] ++ wRun (2 * w.toNat) (if spadOf p then 1 else 2) ++ vRun d.toNat 1, if noReturn p then [] else vRun d.toNat 1⟩
  | .atomMaxN64 _ _ d v w => ⟨[v.toNat] ++ wRun (2 * w.toNat) (if spadOf p then 1 else 2) ++ vRun d.toNat 2, if noReturn p then [] else vRun d.toNat 2⟩
  | .atomAnd32 _ _ d v w => ⟨[v.toNat] ++ wRun (2 * w.toNat) (if spadOf p then 1 else 2) ++ vRun d.toNat 1, if noReturn p then [] else vRun d.toNat 1⟩
  | .atomAnd64 _ _ d v w => ⟨[v.toNat] ++ wRun (2 * w.toNat) (if spadOf p then 1 else 2) ++ vRun d.toNat 2, if noReturn p then [] else vRun d.toNat 2⟩
  | .atomOr32 _ _ d v w => ⟨[v.toNat] ++ wRun (2 * w.toNat) (if spadOf p then 1 else 2) ++ vRun d.toNat 1, if noReturn p then [] else vRun d.toNat 1⟩
  | .atomOr64 _ _ d v w => ⟨[v.toNat] ++ wRun (2 * w.toNat) (if spadOf p then 1 else 2) ++ vRun d.toNat 2, if noReturn p then [] else vRun d.toNat 2⟩
  | .atomXor32 _ _ d v w => ⟨[v.toNat] ++ wRun (2 * w.toNat) (if spadOf p then 1 else 2) ++ vRun d.toNat 1, if noReturn p then [] else vRun d.toNat 1⟩
  | .atomXor64 _ _ d v w => ⟨[v.toNat] ++ wRun (2 * w.toNat) (if spadOf p then 1 else 2) ++ vRun d.toNat 2, if noReturn p then [] else vRun d.toNat 2⟩
  | .atomExch32 _ _ d v w => ⟨[v.toNat] ++ wRun (2 * w.toNat) (if spadOf p then 1 else 2) ++ vRun d.toNat 1, if noReturn p then [] else vRun d.toNat 1⟩
  | .atomExch64 _ _ d v w => ⟨[v.toNat] ++ wRun (2 * w.toNat) (if spadOf p then 1 else 2) ++ vRun d.toNat 2, if noReturn p then [] else vRun d.toNat 2⟩
  | .atomCas32 _ _ d v w => ⟨[v.toNat] ++ wRun (2 * w.toNat) (if spadOf p then 1 else 2) ++ vRun d.toNat 2, if noReturn p then [] else vRun d.toNat 1⟩
  | .atomCas64 _ _ d v w => ⟨[v.toNat] ++ wRun (2 * w.toNat) (if spadOf p then 1 else 2) ++ vRun d.toNat 4, if noReturn p then [] else vRun d.toNat 2⟩
  | .atomInc32 _ _ d v w => ⟨[v.toNat] ++ wRun (2 * w.toNat) (if spadOf p then 1 else 2) ++ vRun d.toNat 1, if noReturn p then [] else vRun d.toNat 1⟩
  | .atomInc64 _ _ d v w => ⟨[v.toNat] ++ wRun (2 * w.toNat) (if spadOf p then 1 else 2) ++ vRun d.toNat 2, if noReturn p then [] else vRun d.toNat 2⟩
  | .atomDec32 _ _ d v w => ⟨[v.toNat] ++ wRun (2 * w.toNat) (if spadOf p then 1 else 2) ++ vRun d.toNat 1, if noReturn p then [] else vRun d.toNat 1⟩
  | .atomDec64 _ _ d v w => ⟨[v.toNat] ++ wRun (2 * w.toNat) (if spadOf p then 1 else 2) ++ vRun d.toNat 2, if noReturn p then [] else vRun d.toNat 2⟩
  | .atomFaddF32 _ _ d v w => ⟨[v.toNat] ++ wRun (2 * w.toNat) (if spadOf p then 1 else 2) ++ vRun d.toNat 1, if noReturn p then [] else vRun d.toNat 1⟩
  | .atomFadd2Bf16 _ _ d v w => ⟨[v.toNat] ++ wRun (2 * w.toNat) (if spadOf p then 1 else 2) ++ vRun d.toNat 1, if noReturn p then [] else vRun d.toNat 1⟩
  | .mma _ _ sh _ x y => ⟨vRun (4 * x.toNat) (if sh.toNat ∈ [1, 3, 4] then 8 else 4) ++ vRun (2 * y.toNat) (if sh.toNat ∈ [1, 2, 4] then 8 else 4), []⟩
  | .mman _ _ sh _ x y => ⟨vRun (4 * x.toNat) (if sh.toNat ∈ [1, 3, 4] then 8 else 4) ++ vRun (2 * y.toNat) (if sh.toNat ∈ [1, 2, 4] then 8 else 4), []⟩
  | .mmas _ _ _ x y => ⟨vRun (4 * x.toNat) 4 ++ vRun (2 * y.toNat) 4 ++ quartOf p, []⟩
  | .mmaz _ _ sh _ x y => ⟨vRun (4 * x.toNat) (if sh.toNat ∈ [1, 3, 4] then 8 else 4) ++ vRun (2 * y.toNat) (if sh.toNat ∈ [1, 2, 4] then 8 else 4), []⟩
  | .aclr _ _ sh g => ⟨regionOf sh g, []⟩
  | .aanc _ _ sh g _ => ⟨regionOf sh g, []⟩
  | .ares _ _ sh g f y => ⟨regionOf sh g, vRun (2 * y.toNat) (resolveRegs f.toNat)⟩
  | .acmp _ _ _ sh g x y => ⟨regionOf sh g ++ [4 * x.toNat], [2 * y.toNat]⟩
  | .adrainRaw _ _ sh g x => ⟨regionOf sh g ++ wRun (2 * (x.toNat % 16)) (if x.getLsbD 4 then 1 else 2), []⟩
  | .adrainValue _ _ sh g x _ => ⟨regionOf sh g ++ wRun (2 * (x.toNat % 16)) (if x.getLsbD 4 then 1 else 2), []⟩
  | .adrainAdd _ _ sh g x => ⟨regionOf sh g ++ wRun (2 * (x.toNat % 16)) (if x.getLsbD 4 then 1 else 2), []⟩
  | .adrainValueAdd _ _ sh g x _ => ⟨regionOf sh g ++ wRun (2 * (x.toNat % 16)) (if x.getLsbD 4 then 1 else 2), []⟩
  | .aloadRaw _ _ sh g x => ⟨regionOf sh g ++ wRun (2 * (x.toNat % 16)) (if x.getLsbD 4 then 1 else 2), []⟩
  | .aloadValue _ _ sh g x _ => ⟨regionOf sh g ++ wRun (2 * (x.toNat % 16)) (if x.getLsbD 4 then 1 else 2), []⟩
  | .scld _ _ _ _ y => ⟨wRun y.toNat 1, []⟩
  | .mfmt _ _ _ => ⟨[], []⟩
  | .tmma _ _ _ y => ⟨wRun y.toNat 8, []⟩
  | .twait _ _ _ => ⟨[], []⟩
  | .twaitOc _ _ _ => ⟨[], []⟩
  | .acanon _ _ sh g => ⟨regionOf sh g, []⟩
  | .amov _ _ sh g x => ⟨(if sh.getLsbD 0 then wRun x.toNat 1 else []) ++ (if sh.getLsbD 1 then wRun g.toNat 1 else []), []⟩
  | .edge _ _ g x y => ⟨vRun (4 * x.toNat) 6 ++ wRun g.toNat 1, vRun (2 * y.toNat) 2⟩
  | .bary _ _ x y => ⟨vRun (4 * x.toNat) 6 ++ [2 * y.toNat], vRun (2 * y.toNat) 2⟩
  | .covpk _ _ g x y => ⟨vRun (2 * y.toNat) 2 ++ wRun g.toNat 1, [4 * x.toNat] ++ wRun g.toNat 1⟩
  | .texg _ _ g x y => ⟨vRun (4 * x.toNat) 2 ++ wRun (8 * g.toNat) 8, vRun (2 * y.toNat) 4⟩
  | .filt _ _ sh g x y => ⟨vRun (2 * y.toNat) 4 ++ vRun (4 * x.toNat) 3 ++ (if sh = 2 then vRun (4 * g.toNat) 4 else []), vRun (4 * g.toNat) 4⟩
  | .blnd _ _ g x y => ⟨vRun (4 * x.toNat) 4 ++ [2 * y.toNat] ++ wRun g.toNat 2, []⟩
  | .cpack _ _ g x y => ⟨wRun g.toNat 1 ++ wRun x.toNat 1 ++ wRun (8 * y.toNat) 8, []⟩
  | .cunpk _ _ x y => ⟨wRun x.toNat 1 ++ wRun (8 * y.toNat) 8, []⟩
  | .meshemit _ _ _ g => ⟨wRun g.toNat 1, []⟩
  | .binnext _ _ g y => ⟨wRun y.toNat 1, wRun g.toNat 2⟩
  | .bararr _ _ _ _ => ⟨[], []⟩
  | .barwait _ _ _ _ => ⟨[], []⟩
  | .barsync _ _ _ _ => ⟨[], []⟩
  | .barexp _ _ a _ _ => ⟨wRun a.toNat 1, []⟩
  | .ordenter _ a b _ => ⟨vRun a.toNat 2 ++ [b.toNat], [384]⟩
  | .ordleave _ a _ => ⟨vRun a.toNat 2, []⟩
  | .ordskip _ a b _ => ⟨vRun a.toNat 2 ++ [b.toNat], []⟩
  | .ordtest _ a b _ => ⟨vRun a.toNat 2 ++ [b.toNat], [384]⟩
  | .seqnext _ a _ => ⟨[], [a.toNat]⟩
  | .put _ _ a _ => ⟨wRun a.toNat 4, []⟩
  | .putw _ _ a b _ => ⟨vRun a.toNat 2 ++ [b.toNat], []⟩
  | .cwait _ _ a _ => ⟨wRun a.toNat 2, []⟩
  | .fenceAcq _ _ => ⟨[], []⟩
  | .fenceRel _ _ => ⟨[], []⟩
  | .fenceAr _ _ => ⟨[], []⟩
  | .fenceSc _ _ => ⟨[], []⟩
  | .scwait _ => ⟨[], []⟩
  | .qacq _ _ d _ => ⟨[], wRun d.toNat 1⟩
  | .qrel _ _ a _ => ⟨wRun a.toNat 1, []⟩
  | .qpacq _ _ d _ => ⟨[], wRun d.toNat 1⟩
  | .qpcommit _ _ a _ => ⟨wRun a.toNat 1, []⟩
  | .tcopy _ _ d => ⟨wRun (16 * d.toNat) 16, []⟩
  | .tstore _ _ d => ⟨wRun (16 * d.toNat) 16, []⟩
  | .apstart _ _ _ a => ⟨wRun (2 * a.toNat) 4, []⟩
  | .apstop _ _ _ => ⟨[], []⟩
  | .xli _ _ _ => ⟨[], []⟩
  | .xlih _ _ _ => ⟨[], []⟩
  | .xadd _ _ _ _ => ⟨[], []⟩
  | .xmad _ _ _ _ => ⟨[], []⟩
  | .xloop _ _ _ => ⟨[], []⟩
  | .xloopSet _ _ _ => ⟨[], []⟩
  | .xfetch _ _ _ _ => ⟨[], []⟩
  | .xstore _ _ _ _ => ⟨[], []⟩
  | .xsigFill _ _ => ⟨[], []⟩
  | .xsigFree _ _ => ⟨[], []⟩
  | .xend _ => ⟨[], []⟩
  | .nop _ => ⟨[], []⟩
  | .sysrd _ p1 _ => ⟨[], wRun p1.toNat 1⟩
  | .syswr _ p1 _ => ⟨wRun p1.toNat 1, []⟩
  | .trap _ _ => ⟨[], []⟩
  | .trapret _ _ => ⟨[], []⟩
  | .frsave _ p1 => ⟨groupsOf p1, []⟩
  | .frload _ p1 => ⟨[], groupsOf p1⟩
  | .region _ _ _ => ⟨[], []⟩
  | .reggrowTry _ _ => ⟨[], []⟩
  | .reggrowWait _ _ => ⟨[], []⟩
  | .regshrink _ _ => ⟨[], []⟩
  | .vfree _ p1 m => ⟨[], vRun p1.toNat (m.toNat + 1)⟩
  | .query _ p1 _ => ⟨[], wRun p1.toNat 1⟩
  | .launch _ p1 _ => ⟨wRun p1.toNat 2, [384]⟩
  | .bkpt _ _ => ⟨[], []⟩
  | .waitev _ _ => ⟨[], []⟩
  | .perfrd _ p1 _ => ⟨[], wRun p1.toNat 2⟩
  | .rngseed _ p1 => ⟨vRun p1.toNat 2, []⟩
  | .modesetWrite _ _ => ⟨[], []⟩
  | .modesetOr _ _ => ⟨[], []⟩
  | .modesetAndn _ _ => ⟨[], []⟩
  | .modesetTen _ _ => ⟨[], []⟩
  | .tinfo _ p1 _ => ⟨[], [p1.toNat]⟩
  | .cvtf _ _ _ d a => ⟨[a.toNat], [d.toNat]⟩
  | .cvtfi _ _ sh d a => ⟨[a.toNat], vRun d.toNat (if sh.getLsbD 3 then 2 else 1)⟩
  | .cvtif _ _ sh d a => ⟨vRun a.toNat (if sh.getLsbD 3 then 2 else 1), [d.toNat]⟩
  | .pack2 _ _ _ d a => ⟨vRun a.toNat 2, [d.toNat]⟩
  | .pack4 _ _ sh d a => ⟨vRun a.toNat 4 ++ (if sh.getLsbD 1 && sh.getLsbD 2 then [d.toNat] else []), [d.toNat]⟩
  | .unpk _ _ _ d a => ⟨[a.toNat], [d.toNat]⟩
  | .rcp _ _ _ d a => ⟨[a.toNat], [d.toNat]⟩
  | .rsq _ _ _ d a => ⟨[a.toNat], [d.toNat]⟩
  | .sqrt _ _ _ d a => ⟨[a.toNat], [d.toNat]⟩
  | .exp2 _ _ _ d a => ⟨[a.toNat], [d.toNat]⟩
  | .log2 _ _ _ d a => ⟨[a.toNat], [d.toNat]⟩
  | .sinp _ _ _ d a => ⟨[a.toNat], [d.toNat]⟩
  | .cosp _ _ _ d a => ⟨[a.toNat], [d.toNat]⟩
  | .tanh _ _ _ d a => ⟨[a.toNat], [d.toNat]⟩
  | .rng _ _ _ d => ⟨[], [d.toNat]⟩
  | .pfx _ _ _ _ _ _ _ => ⟨[], []⟩
  | .illegalInstruction => ⟨[], []⟩
  | .instructionFetchFault => ⟨[], []⟩
  | .rejoinRelease _ _ => ⟨[], []⟩
  | .longLatencyCompletion _ => ⟨[], []⟩
  | .storeAcknowledgement _ => ⟨[], []⟩
  | .homeAtomic _ => ⟨[], []⟩
  | .homeRawMerge _ => ⟨[], []⟩
  | .homeValueAdd _ => ⟨[], []⟩
  | .trapEntry _ => ⟨[], []⟩
  | .reggrowWaitGrant _ => ⟨[], []⟩
  | .reggrowEviction _ => ⟨[], []⟩
  | .evictedWarpReadmission _ => ⟨[], []⟩
  | .warpEnd _ => ⟨[], []⟩
  | .barrierRelease _ _ _ => ⟨[], []⟩
  | .peerBarrierMessage _ _ _ => ⟨[], []⟩
  | .ordRequestAtHome _ => ⟨[], []⟩
  | .ordLeaveAtHome _ => ⟨[], []⟩
  | .ordGrant _ => ⟨[], []⟩
  | .quietIntervalEnd _ => ⟨[], []⟩
  | .putArrival _ => ⟨[], []⟩
  | .ringReconfigure _ _ => ⟨[], []⟩
  | .copySlotAcquire _ => ⟨[], []⟩
  | .copyBytesLand _ => ⟨[], []⟩
  | .flintRequestResume _ _ => ⟨[], []⟩
  | .tmmaKstep _ _ => ⟨[], []⟩
  | .classifyMeshlet _ => ⟨[], []⟩
  | .shaleBatchHandout _ => ⟨[], []⟩
  | .stageStart _ _ => ⟨[], []⟩
  | .stageCompletion _ _ => ⟨[], []⟩
  | .queueDoorbell _ _ => ⟨[], []⟩
  | .run _ => ⟨[], []⟩
  | .event _ => ⟨[], []⟩
  | .domalloc _ => ⟨[], []⟩
  | .domfree _ => ⟨[], []⟩
  | .abort _ => ⟨[], []⟩
  | .qctlWrite _ _ => ⟨[], []⟩
  | .residencyWalk _ => ⟨[], []⟩
  | .gangPlacement _ => ⟨[], []⟩
  | .preemption _ => ⟨[], []⟩
  | .drainApproachExpiry _ => ⟨[], []⟩
  | .saveBlockStore _ _ => ⟨[], []⟩
  | .sliceExpiry _ _ => ⟨[], []⟩
  | .fenceWaitPoll _ => ⟨[], []⟩
  | .launchCompletion _ => ⟨[], []⟩
  | .gangIndexMirror _ => ⟨[], []⟩
  | .launchNodeCopyDone _ => ⟨[], []⟩
  | .dieFailure _ => ⟨[], []⟩
  | .dieFailureGraceEnd _ => ⟨[], []⟩
  | .iqDoorbell _ => ⟨[], []⟩
  | .inval => ⟨[], []⟩
  | .retry => ⟨[], []⟩
  | .refuse => ⟨[], []⟩
  | .sync => ⟨[], []⟩
  | .invalCompletion => ⟨[], []⟩
  | .iqctlWrite _ => ⟨[], []⟩
  | .atctlWrite _ => ⟨[], []⟩
  | .ordovfctlWrite _ => ⟨[], []⟩
  | .pwrcapWrite _ => ⟨[], []⟩
  | .cxlClearIsolation _ => ⟨[], []⟩
  | .registerWrite _ _ => ⟨[], []⟩
  | .systemAgentAccess _ _ _ => ⟨[], []⟩
  | .flitReceive _ _ => ⟨[], []⟩
  | .storageError _ _ _ => ⟨[], []⟩
  | .errorWindowEnd _ => ⟨[], []⟩
  | .accessTimeout _ => ⟨[], []⟩
  | .cxlReadTimeout _ => ⟨[], []⟩
  | .peerPortDown _ => ⟨[], []⟩
  | .linkUp _ _ => ⟨[], []⟩
  | .coldReset => ⟨[], []⟩
  | .gneissImageLoad _ => ⟨[], []⟩
  | .serviceFirmwareLoad _ => ⟨[], []⟩
  | .attestationRequest _ => ⟨[], []⟩
  | .thermalTrip => ⟨[], []⟩
  | .debugResume _ => ⟨[], []⟩
  | .flintIllegalInstruction _ _ => ⟨[], []⟩
  | .flintCodeFetchFault _ _ => ⟨[], []⟩
  | .rqctlWrite _ => ⟨[], []⟩
  | .elctlWrite _ => ⟨[], []⟩

/-- With the predicate of the prefix (R49). -/
def Instr.names (p : Option (BitVec 32)) (i : Instr) : Names :=
  let n := i.ownNames p
  match p with
  | some w => if w.getLsbD 26 then { n with reads := (384 + wfield w 23 3) :: n.reads } else n
  | none => n
/-- R57, R294 to R299: instructions that access memory. -/
def memoryClass (w : BitVec 32) : Bool := [6, 7, 8, 9, 11].contains (wfield w 27 4)

end Sys2Proof
end

