-- ==== Sys2Proof/WellFormed.lean ====
section
/-! DEFINITION. Well-formed instructions: a word whose own fields are legal, alone or after a prefix (R34). -/

namespace Sys2Proof

/-- The instruction's own fields are legal. -/
def WellFormed (i : Instr) : Bool := i.rules.own
/-- A warp may execute the word alone: it needs no prefix, and is no form of an address program (R33, R186). That it is no prefix itself is
tested where words are met (`Machine/Issue.lean`). -/
def WellFormed.alone (i : Instr) : Bool := WellFormed i && !i.rules.needs && !i.rules.flint
/-- A warp may execute the word after the prefix word `p`. -/
def WellFormed.paired (p : BitVec 32) (i : Instr) : Bool := i.pairLegal p

end Sys2Proof
end

