-- ==== Sys2Proof/Machine/Issue.lean ====
section
/-! DEFINITION. Issue: what a lane group meets at its program counter (R17, R24, R35, R36, R459), which groups may issue (R43, R45,
R56, R57, R294 to R299), the picking of warp and issue set (R46, R47), and one instruction from its opening to its close
(R49, R50, R63, R460). Pipes, chains and banks (R52 to R55, R59 to R61) change timing only. -/

namespace Sys2Proof.Machine

/-! ## What stands at a program counter -/

/-- What the fetch of a lane group meets; `word` and `pfx` are what the fault record will hold (R35, R36). -/
inductive Met
  | fetchFault (word : Word) (pfx : Option Word)
  | illegal (word : Word) (pfx : Option Word)
  | alone (word : Word) (i : Instr)
  | paired (pfx word : Word) (i : Instr)

def isPrefix (w : Word) : Bool := wbits w 27 4 == 14
/-- A base word after a prefix (R24, R26, R36). -/
noncomputable def meetBase (p : Word) : Option Word → Met
  | none => .fetchFault 0 (some p)
  | some b => match decode b with
    | .ok i => if WellFormed.paired p i then .paired p b i else .illegal b (some p)
    | .error _ => .illegal b (some p)
/-- R17, R24, R35, R36, R459: what stands at a word index of a code segment. -/
noncomputable def State.meet (s : State) (x : Launch) (pc : Nat) : Met :=
  if x.desc.limit.toNat ≤ pc then .fetchFault 0 none
  else match s.codeWord? x pc with
    | none => .fetchFault 0 none
    | some w =>
      if isPrefix w then
        if pc % 3 = 2 then .illegal w none
        else meetBase w (if x.desc.limit.toNat ≤ pc + 1 then none else s.codeWord? x (pc + 1))
      else match decode w with
        | .ok i => if WellFormed.alone i then .alone w i else .illegal w none
        | .error _ => .illegal w none

def Met.word : Met → Word
  | .fetchFault w _ => w
  | .illegal w _ => w
  | .alone w _ => w
  | .paired _ w _ => w
def Met.pfx : Met → Option Word
  | .fetchFault _ p => p
  | .illegal _ p => p
  | .alone _ _ => none
  | .paired p _ _ => some p
/-- The instruction that executes. -/
def Met.instr : Met → Instr
  | .fetchFault _ _ => .instructionFetchFault
  | .illegal _ _ => .illegalInstruction
  | .alone _ i => i
  | .paired _ _ i => i
def Met.cls (m : Met) : Nat := match m with
  | .alone w _ => wbits w 27 4
  | .paired _ w _ => wbits w 27 4
  | _ => 16
def Met.names (m : Met) : Names := m.instr.names m.pfx

/-! ## One instruction, opened and closed -/

/-- R57: the instruction counts in every open window of its lanes. -/
def Flight.countIssue (f : Flight) (w : Nat) (set : Mask) : Flight :=
  if f.warp = w then { f with windows := f.windows.map fun e => if set.getLsbD e.1 then (e.1, e.2 - 1) else e } else f
/-- An instruction of a warp begins to issue for a set. -/
def State.openIssue (s : State) (w pc : Nat) (set : Mask) (m : Met) : State :=
  { s with issue := { warp := w, set := set, pc := pc, word := m.word, pfx := m.pfx }
           flights := s.flights.map fun f => f.countIssue w set }
/-- R21, R31: the word is of the V3 format, has H = 1 and reads its source A. -/
def latches (w : Word) (n : Names) : Bool :=
  w.getLsbD 21 && ([0, 1, 4].contains (wbits w 27 4) || (wbits w 27 4 == 5 && decide (4 ≤ wbits w 22 5 ∧ wbits w 22 5 ≤ 10))) &&
    n.reads.contains (wbits w 7 7)
/-- R63, R64: the latch after an instruction; `old` is the warp as it issued, and `wrote` says that it wrote its destinations. -/
def Warp.latchStep (x old : Warp) (off : Bool) (w : Word) (n : Names) (wrote : Bool) : Warp :=
  let a := wbits w 7 7
  let aged := x.latch.filterMap fun e => if e.2.2 ≤ 1 then none else some (e.1, e.2.1, e.2.2 - 1)
  let all := if latches w n then aged ++ [(a, (List.range 32).map (old.vlane a), 2)] else aged
  { x with latch := if off then [] else (all.drop (all.length - 3)).filter fun e => !(wrote && n.writes.contains e.1) }
/-- Some lane of E was neither stopped by a fault nor holds: the instruction wrote its destinations. -/
def State.wrote (s t : State) : Bool := (lanesOf s.eff).any fun l =>
  let x := s.cur.lane l
  let y := (t.warp s.issue.warp).lane l
  (y.trap == x.trap && y.status != .hold) || y.pc != x.pc

/-- R56: registers that an access on its way is still to write; a region-form save clears the pending bits of the loads that it drops
(R58). -/
def Flight.pending (f : Flight) : List Nat := if f.dropped && f.windows.isEmpty then [] else match f.kind with
  | .load _ n _ d u => (List.range (max 1 (n / 4))).map fun i => (if u then 128 else 0) + d + i
  | .atomic _ _ n _ _ (some d) => (List.range (n / 32)).map (d + ·)
  | .launchCopy .. => [384]
  | _ => []
/-- R56: registers that an instruction of a lane in HOLD is still to write; a trap entry clears the pending bits (R58). The bit of
m0 that an ORDENTER receives is written by the grant (R228), so no pending bit waits for it (R340's second variant runs). -/
noncomputable def State.heldWrites (s : State) (x : Lane) : List Nat :=
  let of (word : Word) (pfx : Option Word) : List Nat := match decode word with
    | .ok i => (i.names pfx).writes
    | .error _ => []
  if x.status = .hold ∧ x.unpended = false then
    match x.wait with
    | .batch _ _ d _ => [128 + d, 129 + d]
    | .order f => match (s.flight? f).map Flight.kind with
      | some (.ordReq op ..) => if op = 2 then [384] else []
      | _ => []
    | .retry _ w p _ => of w p
    | .grow _ _ w => of w none
    | _ => []
  else []
/-- R56: every register of a warp that is still to be written. -/
noncomputable def State.pendingRegs (s : State) (w : Nat) : List Nat :=
  (s.flights.filter fun f => f.warp == w).flatMap Flight.pending ++ (List.range 32).flatMap fun l => s.heldWrites ((s.warp w).lane l)
/-- R57: the lanes of a warp with a closed window. -/
def State.shutLanes (s : State) (w : Nat) : Mask :=
  maskOf fun l => s.flights.any fun f => f.warp == w && f.windows.any fun e => e.1 == l && e.2 == 0
/-- R52: the pipe of a word. -/
def pipeOf (w : Word) : Nat := match wbits w 27 4 with
  | 0 => 0
  | 2 => 0
  | 6 => 6
  | 7 => 6
  | 11 => 6
  | 8 => 8
  | 9 => 8
  | c => c
/-- R53, R56, R57: a word may issue in the clock of the earlier words of its chain. -/
def Chain.takes (c : Chain) (w : Word) (n : Names) : Bool :=
  !c.pipes.contains (pipeOf w) && c.shut &&& c.set == 0 && !(n.reads ++ n.writes).any fun r => c.writes.contains r || c.busy.contains r
/-- R19, R53, R54, R55: what of the chain may still issue after a word, for the lanes that it did not stop. -/
noncomputable def State.chainAfter (s t : State) (n : Names) : Option Chain :=
  let i := s.issue
  let next := i.pc + s.len
  if i.word.getLsbD 31 && decide (i.pc % 3 + s.len ≤ 2) && wbits i.word 27 4 != 5 && !((s.core s.cur.core).issueCtl.getLsbD 2) then
    let set := maskOf fun l =>
      let y := (t.warp i.warp).lane l
      i.set.getLsbD l && y.status == .run && y.trap.isNone && y.pc == next
    let new : Chain := {
      set := set, pc := next, pipes := [pipeOf i.word], writes := n.writes, busy := s.pendingRegs i.warp, shut := s.shutLanes i.warp }
    match s.cur.chain with
    | some c => if c.pc = i.pc ∧ c.set = i.set ∧ c.takes i.word n = true then
        some { new with pipes := new.pipes ++ c.pipes, writes := new.writes ++ c.writes, busy := c.busy, shut := c.shut } else some new
    | none => some new
  else none
/-- R460: the marks of what an instruction has written are gone; those of what it is still to write stay, and those that it set itself. -/
noncomputable def State.mendAfter (t s : State) (n : Names) (wrote : Bool) (x : Warp) : List Nat :=
  if !wrote ∨ x.bad ≠ s.cur.bad then x.bad
  else x.bad.filter fun b => !(n.writes.contains b && !(t.pendingRegs s.issue.warp).contains b)
/-- An instruction has issued, in the state `s`: R460's marks of what it wrote are gone, it counts as issued (R245), and the latch
ages. -/
noncomputable def State.closeIssue (t s : State) (n : Names) : State :=
  let wrote := s.wrote t
  let u := t.modWarp s.issue.warp fun x =>
    { ({ x with
        bad := t.mendAfter s n wrote x
        issued := x.issued + 1 } : Warp).latchStep s.cur ((s.core x.core).issueCtl.getLsbD 1) s.issue.word n wrote with
      chain := s.chainAfter t n }
  { u with issue := {} }
/-- R460: an item that the instruction reads, or the warp's own state, holds an uncorrectable error. -/
def Warp.spoilt (x : Warp) (n : Names) : Bool := x.bad.any fun b => b == 400 || n.reads.contains b
/-- R36: a fetch fault, or an illegal instruction, comes first. -/
def faultsFirst (i : Instr) : Bool := match i with
  | .instructionFetchFault => true
  | .illegalInstruction => true
  | _ => false
/-- The instruction raised the illegal-instruction trap. -/
def State.isIllegal (s t : State) : Bool := (lanesOf s.issue.set).any fun l =>
  (s.cur.lane l).trap.isNone && match ((t.warp s.issue.warp).lane l).trap with
    | some r => r.kind == 2
    | none => false
/-- The meaning of the instruction being issued, or the fault of R460 in its place, after the faults that come before it (R36). -/
def State.execute (s : State) (i : Instr) : Res :=
  let r := exec i s
  if s.cur.spoilt (i.names s.issue.pfx) && !faultsFirst i then
    match r with
    | .next t => if s.isIllegal t then r else .next (s.trapE (s.record 8))
    | _ => r
  else r
/-- R468: the record of a sector that arrived marked from a link, or of a read that timed out. -/
def State.logArrival (s : State) (unit : Option Nat) (h : Nat × Nat × Nat) : State := match unit with
  | some u => s.countUncorrected u h.1 h.2.1
  | none => s.logTimeout (lineUnit h.2.2) (h.1, h.2.1)
/-- The next fetch of a warp arrives poisoned (R458, R459, R466). -/
def State.fetchArmed? (s : State) (w : Nat) : Option Armed := s.armed.find? fun a => a.warp == w && a.fetch
/-- What of the sectors that are to arrive marked has arrived, with the instruction that met them, is recorded. -/
def State.closeArmed (t s : State) (i : Instr) : State :=
  let hits := t.armed.filter fun a => a.hit.isSome
  let t := hits.foldl (fun (t : State) a => match a.hit with
    | some h => ({ t with armed := t.armed.filter (· != a) } : State).logArrival a.unit h
    | none => t) t
  match i, s.fetchArmed? s.issue.warp with
  | .instructionFetchFault, some a =>
    let x := s.curLaunch
    let va := x.desc.code.toNat + 4 * s.issue.pc
    if s.codeLimit ≤ s.issue.pc then t
    else ({ t with armed := t.armed.erase a } : State).logArrival a.unit (va / 128 * 128, x.asid, (physOf [s.placeAt x.asid va]).headD 0)
  | _, _ => t
/-- An instruction from its opening to its close. -/
noncomputable def State.finishIssue (s : State) (i : Instr) : Res :=
  match s.execute i with
  | .next t => .next ((t.closeIssue s (i.names s.issue.pfx)).closeArmed s i)
  | r => r
/-- What was opened runs. A pair latches its prefix first, and its base word is the next step (R24). -/
noncomputable def State.runIssue (s : State) : Met → Res
  | .paired p _ _ => match decode p with
    | .ok q => exec q s
    | .error _ => .fault .noMove
  | m => s.finishIssue m.instr
/-- The base word of an open pair. -/
noncomputable def State.runBase (s : State) : Res :=
  match decode s.issue.word with
  | .ok i => ({ s with issue := { s.issue with open_ := false } }).finishIssue i
  | .error _ => .fault .noMove

/-! ## May a group issue -/

/-- R56: a register that the instruction names has its pending bit set. -/
noncomputable def State.registerBusy (s : State) (w : Nat) (n : Names) : Bool :=
  let names r := n.reads.contains r || n.writes.contains r
  (s.flights.any fun f => f.warp == w && f.pending.any names) ||
    (List.range 32).any fun l => (s.heldWrites ((s.warp w).lane l)).any names
/-- R57: classes whose instructions open windows. -/
def longLatency (cls : Nat) : Bool := [6, 7, 8, 9, 11, 13].contains cls
/-- R57: a closed window blocks a lane of the set, or a lane has no room for one more; the accesses of one instruction share a
window. -/
def State.windowBlocks (s : State) (w : Nat) (set : Mask) (cls : Nat) : Bool :=
  let mine := s.flights.filter fun f => f.warp == w && !f.windows.isEmpty
  let openFor (l : Nat) : List Nat := ((mine.filter fun f => f.windows.any fun e => e.1 == l).map fun f => f.group).eraseDups
  mine.any (fun f => f.windows.any fun e => set.getLsbD e.1 && e.2 == 0) ||
    (longLatency cls && (lanesOf set).any fun l => decide (16 ≤ (openFor l).length))
/-- The instruction goes on for the lowest lane of its set: an instruction that does not issue yet leaves it as it is (R45). -/
def State.moved (s t : State) (w : Nat) (set : Mask) (cls : Nat) : Bool :=
  cls == 5 || match lanesOf set with
    | [] => false
    | l :: _ =>
      let x := (s.warp w).lane l
      let y := (t.warp w).lane l
      x.pc != y.pc || x.status != y.status || x.trap != y.trap || x.parked != y.parked || (s.warp w).halted != (t.warp w).halted
/-- R45: the group's first instruction may issue now. -/
noncomputable def State.groupIssues (s : State) (w pc : Nat) (set : Mask) (m : Met) : Bool :=
  !s.registerBusy w m.names && !s.windowBlocks w set m.cls &&
    (let o := s.openIssue w pc set m
     match o.execute m.instr with
     | .next t => o.moved t w set m.cls
     | _ => true)

/-! ## Groups, warps and the pick -/

/-- R43, R407, R417: the lane takes part in issue. -/
def State.laneIssues (s : State) (w : Nat) (x : Warp) (l : Nat) : Bool :=
  let y := x.lane l
  y.status == .run && (!x.handlerMode || y.handler) && !(x.drain == .approach && s.laneStops w y)
/-- The warp runs (R370, R417, R429). -/
def State.warpRuns (s : State) (x : Warp) : Bool :=
  x.resident && !x.evicted && !x.ended && !x.halted && x.drain != .full && (s.launch x.launch).phase == .admitted
/-- The warp is one that issues: no trap is due in it (R405), or the rest of a chain may still issue (R55). -/
def State.warpIssues (s : State) (x : Warp) : Bool := s.warpRuns x && (!x.trapDue || x.chain.isSome)
/-- R45: the lane groups of a warp, by program counter. -/
def State.groups (s : State) (w : Nat) : List (Nat × Mask) :=
  let x := s.warp w
  let ls := (List.range 32).filter (s.laneIssues w x)
  (ls.map fun l => (x.lane l).pc).eraseDups.map fun p => (p, maskOf fun l => ls.contains l && (x.lane l).pc == p)
/-- A group that is issuable, with what it meets. -/
structure Ready where
  pc : Nat
  set : Mask
  met : Met
/-- What a group meets, when it is issuable. -/
noncomputable def State.ready? (s : State) (w pc : Nat) (set : Mask) : Option Ready :=
  let x := s.launch (s.warp w).launch
  let m := if (s.fetchArmed? w).isSome && decide (pc < x.desc.limit.toNat) then Met.fetchFault 0 none else s.meet x pc
  if s.groupIssues w pc set m then some ⟨pc, set, m⟩ else none
/-- The issuable groups; once a trap is due, the rest of the chain alone: a word that can issue in the clock of the words before it
(R53, R55). Whether the pipes accept it in that clock is a matter of timing, so the trap may be entered first as well. -/
noncomputable def State.readyGroups (s : State) (w : Nat) : List Ready :=
  let x := s.warp w
  if s.warpRuns x then
    if x.trapDue then
      match x.chain with
      | some c => ((s.ready? w c.pc c.set).filter fun r => c.set != 0 && c.takes r.met.word r.met.names).toList
      | none => []
    else (s.groups w).filterMap fun g => s.ready? w g.1 g.2
  else []
def laneCount (m : Mask) : Nat := (lanesOf m).length
/-- R47: the issue set of a warp among its issuable groups. -/
def pickGroup (x : Warp) (gs : List Ready) : Option Ready :=
  let late := gs.filter fun g => (lanesOf g.set).any fun l => decide (64 ≤ (x.lane l).passed)
  let lower (a : Option Ready) (g : Ready) : Option Ready := match a with
    | some b => if g.pc < b.pc then some g else a
    | none => some g
  if late.isEmpty then
    gs.foldl (fun a g => match a with
      | some b =>
        if laneCount b.set < laneCount g.set ∨ (laneCount g.set = laneCount b.set ∧ g.pc < b.pc) then some g else a
      | none => some g) none
  else late.foldl lower none
/-- R47: pass-over counts after the pick. -/
def Warp.passLanes (x : Warp) (gs : List Ready) (set : Mask) : Warp :=
  let seen := gs.foldl (fun a g => a ||| g.set) (0 : Mask)
  x.mapLanes fun l y =>
    if set.getLsbD l then { y with passed := 0 } else if seen.getLsbD l then { y with passed := min (y.passed + 1) 64 } else y
/-- A warp that is ready, on one scheduler. -/
structure Candidate where
  warp : Nat
  prio : Nat
  age : Nat
  passes : Nat
  groups : List Ready
/-- R44, R45: the ready warps of a scheduler. -/
noncomputable def State.candidates (s : State) (core sched : Nat) : List Candidate :=
  s.warps.filterMap fun e =>
    if e.2.core = core ∧ e.2.slot % 4 = sched then
      match s.readyGroups e.1 with
      | [] => none
      | gs => some ⟨e.1, s.effPrio e.2.launch, e.2.age, e.2.passCount, gs⟩
    else none
def oldestOf (cs : List Candidate) : Option Candidate := cs.foldl (fun a c => match a with
  | some b => if c.age < b.age then some c else a
  | none => some c) none
/-- R46: the highest effective priority; among those a warp whose count is 256; the oldest. -/
def pickWarp (cs : List Candidate) : Option Candidate :=
  let top := cs.foldl (fun a c => max a c.prio) 0
  let best := cs.filter fun c => c.prio == top
  match oldestOf (best.filter fun c => decide (256 ≤ c.passes)) with
  | some c => some c
  | none => oldestOf best
/-- R46, R47: the counts after a pick. -/
def State.passCounts (s : State) (cs : List Candidate) (c : Candidate) (g : Ready) : State :=
  let t := cs.foldl (fun s d => if d.warp ≠ c.warp ∧ d.prio = c.prio then
    s.modWarp d.warp fun x => { x with passCount := min (x.passCount + 1) 256 } else s) s
  t.modWarp c.warp fun x => { x.passLanes c.groups g.set with passCount := 0 }
/-- One issue of a scheduler. -/
noncomputable def State.issueStep (s : State) (core sched : Nat) : Res :=
  let cs := s.candidates core sched
  match pickWarp cs with
  | none => .next s
  | some c => match pickGroup (s.warp c.warp) c.groups with
    | none => .next s
    | some g => (((s.passCounts cs c g).openIssue c.warp g.pc g.set g.met)).runIssue g.met

/-! ## Lanes in HOLD whose condition is tested again (R43, R234 to R238) -/

/-- The lanes of a warp that wait under a number. -/
def Warp.retrySet (x : Warp) (n : Nat) : Mask := maskOf fun l =>
  let y := x.lane l
  y.status == .hold && match y.wait with
    | .retry q _ _ _ => q == n
    | _ => false
/-- Numbers that lanes of a warp wait under. -/
def Warp.retries (x : Warp) : List Nat :=
  ((List.range 32).filterMap fun l => match (x.lane l).wait with
    | .retry q _ _ _ => if (x.lane l).status == .hold then some q else none
    | _ => none).eraseDups
/-- R407: lanes of a set that are no handler lanes are parked, where they would go on while their warp is in handler mode. -/
def Warp.parkSet (x : Warp) (set : Mask) : Warp :=
  if x.handlerMode then
    x.mapLanes fun l y => if set.getLsbD l && !y.handler && y.status == .run then y.release true else y
  else x
/-- The instruction that the lanes hold on is tried again for them, with the words and the sources of its issue; none while its
condition is still not met. -/
noncomputable def State.retry? (s : State) (w n : Nat) : Option State :=
  let set := (s.warp w).retrySet n
  match lanesOf set with
  | [] => none
  | l :: _ =>
    let y := (s.warp w).lane l
    match y.wait with
    | .retry q word pfx kept => match decode word with
      | .error _ => none
      | .ok i =>
        let o : State := { (s.modWarp w fun x => x.mapLanes fun l y =>
          if set.getLsbD l then { y with status := .run, wait := .none } else y) with
            issue := { warp := w, set := set, pc := y.pc, word := word, pfx := pfx, held := some q, kept := kept } }
        match exec i o with
        | .next t =>
          let held := match ((t.warp w).lane l).wait with
            | .retry .. => true
            | _ => false
          if held || !o.moved t w set (wbits word 27 4) then none
          else some { (t.modWarp w fun x => (x.parkSet set).mend (if o.wrote t then (i.names pfx).writes else [])) with issue := {} }
        | _ => none
    | _ => none

/-! ## Address programs (R243, R269, R270) -/

/-- What a RUNNING program of a slot meets, through its core's L1 (R285, R287): no word to fetch, or a word with its instruction if an address program may execute it. -/
noncomputable def State.flintMeet (s : State) (core slot : Nat) : Option (Word × Option Instr) :=
  let p := s.flintSlot core slot
  let x := s.launch (s.wg p.owner).launch
  let r := s.view p.owner (s.placesAt x.asid p.pc.toNat 4)
  if s.codeGranted x p.pc.toNat = false ∨ r.2 = true then none
  else
    let w : Word := BitVec.ofNat 32 (ofBytes r.1)
    some (w, match decode w with
      | .ok i => if WellFormed i && i.rules.flint then some i else none
      | .error _ => none)
/-- One instruction of an address program. -/
noncomputable def State.flintStep (s : State) (core slot : Nat) : Res :=
  let run (word : Word) (i : Instr) : Res :=
    match exec i { s with issue := { word := word, flint := some (core, slot) } } with
    | .next t => .next { t with issue := {} }
    | r => r
  match s.flintMeet core slot with
  | none => run 0 (.flintCodeFetchFault core slot)
  | some (w, none) => run w (.flintIllegalInstruction core slot)
  | some (w, some i) => run w i

end Sys2Proof.Machine
end

