-- ==== Sys2Proof/Machine/Moves.lean ====
section
/-! DEFINITION. What the device can do next: the events whose condition holds, the issues of the schedulers, the instructions of lanes in
HOLD and of address programs. One move is one step. Which of several comes first is open (R10, R287; log entry 7). -/

namespace Sys2Proof.Machine

inductive Move
  /-- an event of the device -/
  | event (i : Instr)
  /-- the pick of a scheduler of a core (R44) -/
  | issue (core sched : Nat)
  /-- lanes in HOLD go on -/
  | retry (w n : Nat)
  /-- an address program's next instruction -/
  | flint (core slot : Nat)
  /-- a store reaches its core, or an ordering point without an access takes its next step (R293, R298) -/
  | stage (f : Nat)
  /-- a workgroup's L1 drops a line of older values, or its port all of them (R293, R303) -/
  | refresh (wg : Nat)

/-- An event changes the state. -/
def State.can (s : State) (i : Instr) : Bool := match exec i s with
  | .next t => t != s
  | _ => true

/-! ## Events by what they happen to -/

/-- What an access on its way, or a request, may do next. -/
noncomputable def Flight.events (f : Flight) : List Instr := match f.kind with
  | .load .. => [.longLatencyCompletion f.id]
  | .store .. => if f.toCore then [] else [.storeAcknowledgement f.id]
  | .atomic .. => [.homeAtomic f.id]
  | .rawMerge .. => [.homeRawMerge f.id]
  | .valueAdd .. => [.homeValueAdd f.id]
  | .put .. => [.putArrival f.id]
  | .copy c => if c.start?.isSome then [.copyBytesLand f.id] else [.copySlotAcquire f.id]
  | .ordReq _ _ _ _ _ st => if st = 1 then [.ordGrant f.id] else [.ordRequestAtHome f.id]
  | .ordLeave .. => [.ordLeaveAtHome f.id]
  | .launchCopy .. => [.launchNodeCopyDone f.id]
  | .fence .. => []
  | .veil _ => []
noncomputable def State.warpEvents (s : State) (w : Nat) (x : Warp) : List Instr :=
  (if s.mayTrap w then [.trapEntry w] else []) ++
  (if s.growReady w then [.reggrowWaitGrant w] else []) ++
  (if (s.returnSlot? w).isSome then [.evictedWarpReadmission w] else []) ++
  (if x.batchWait?.isSome then [.shaleBatchHandout w] else []) ++
  (if s.warpOver w && (!x.ended || (s.wgFinished x.wg && !(s.wg x.wg).ended)) then [.warpEnd w] else [])
noncomputable def State.coreEvents (s : State) (c : Nat) : List Instr :=
  (if (s.evictee? c).isSome then [.reggrowEviction c] else []) ++
  ((s.core c).flint.filter fun e => (s.flintReady c e.1).isSome).map fun e => .flintRequestResume c e.1
noncomputable def releases? (kind owner : Nat) (bs : AMap Barrier) : List Instr :=
  (bs.filter fun e => !e.2.releasing.isEmpty).map fun e => .barrierRelease kind owner e.1
/-- R281, R419: the tile operations of a workgroup that is saved stand still. -/
noncomputable def Workgroup.eventsOf (g : Nat) (x : Workgroup) : List Instr :=
  releases? 0 g x.bars ++ if x.resident then (x.tags.filter fun e => e.2.inFlight).map fun e => .tmmaKstep g e.1 else []
noncomputable def State.launchEvents (s : State) (i : Nat) (x : Launch) : List Instr :=
  (if x.phase = .walking then [.residencyWalk i] else []) ++
  (if (s.nextUnit i).isEmpty then [] else [.gangPlacement i, .preemption i]) ++
  (x.gangs.filter fun e => e.2.draining).map (fun e => .saveBlockStore i e.1) ++
  x.gangs.flatMap (fun e => releases? 1 (i * 2 ^ 32 + e.1) e.2.bars) ++
  (if (s.newFences i).isEmpty then [] else [.fenceWaitPoll i]) ++
  (if (s.mirrorStage? i).isSome then [.gangIndexMirror i] else []) ++
  (if x.nextRecord?.isSome then [.classifyMeshlet i] else []) ++
  (if x.render.isSome then [1, 2, 3].flatMap fun k => [.stageStart i k, .stageCompletion i k] else []) ++
  (if (x.phase == .ending && s.endDue i) || s.canComplete i then [.launchCompletion i] else [])
/-- R344: the head of a host queue. -/
noncomputable def State.queueEvents (s : State) (q : Nat) : List Instr := match s.queueHead? q with
  | none => []
  | some e => match e.op with
    | 1 => [.event q]
    | 2 => [.domalloc q]
    | 3 => [.domfree q]
    | 4 => [.abort q]
    | _ => [.run q]
/-- R397: the head of the invalidation queue, and the end of a command that waited. -/
noncomputable def State.iqEvents (s : State) : List Instr :=
  (if s.dev.iqBusy.isSome then [.invalCompletion] else []) ++
  match s.iqHead? with
  | none => []
  | some c => match c.op with
    | 1 => [.retry]
    | 2 => [.refuse]
    | 3 => [.sync]
    | _ => [.inval]
/-- R51: rejoin masks that are released before the schedulers pick. -/
noncomputable def State.rejoins (s : State) : List Instr :=
  s.warps.flatMap fun e =>
    ((List.range 8).filter fun k => e.2.resident && !e.2.evicted && e.2.rejoinWaits k && e.2.rejoinReady k).map fun k => .rejoinRelease e.1 k
noncomputable def State.candidateEvents (s : State) : List Instr :=
  s.flights.flatMap Flight.events ++ s.warps.flatMap (fun e => s.warpEvents e.1 e.2) ++
  ((s.cores.map Prod.fst ++ s.warps.map fun e => e.2.core).eraseDups).flatMap s.coreEvents ++
  s.wgs.flatMap (fun e => Workgroup.eventsOf e.1 e.2) ++ releases? 2 0 s.trees ++
  s.launches.flatMap (fun e => s.launchEvents e.1 e.2) ++ s.dev.queues.flatMap (fun e => s.queueEvents e.1) ++ s.iqEvents ++
  (if s.bootState = 2 then [.serviceFirmwareLoad []] else [])

/-! ## Issues -/

/-- A scheduler, by a number. -/
def Warp.sched (x : Warp) : Nat := 4 * x.core + x.slot % 4
noncomputable def State.issueMoves (s : State) : List Move :=
  (((s.warps.filter fun e => s.warpIssues e.2).map fun e => e.2.sched).eraseDups.filter fun k =>
    (pickWarp (s.candidates (k / 4) (k % 4))).isSome).map fun k => .issue (k / 4) (k % 4)
/-- The oldest wait of a workgroup that can go on. -/
noncomputable def State.retryMoves (s : State) : List Move :=
  let ok := s.warps.flatMap fun e =>
    if s.warpRuns e.2 then (e.2.retries.filter fun n => (s.retry? e.1 n).isSome).map fun n => (e.2.wg, e.1, n) else []
  (ok.filter fun a => ok.all fun b => b.1 != a.1 || decide (a.2.2 ≤ b.2.2)).map fun a => .retry a.2.1 a.2.2
/-- R269, R370, R419: the RUNNING programs of admitted launches, but not of a workgroup that drains. -/
def State.flintMoves (s : State) : List Move :=
  s.cores.flatMap fun e => (e.2.flint.filter fun p =>
    p.2.status == .running && (s.wg p.2.owner).resident && !s.wgDrains p.2.owner && (s.launch (s.wg p.2.owner).launch).phase == .admitted).map fun p => .flint e.1 p.1

/-- Accesses on their way that can be performed at their core, and ordering points that can take a step. -/
def State.stageMoves (s : State) : List Move := (s.flights.filter fun f => (s.stage? f).isSome).map fun f => .stage f.id
/-- L1s that hold older values. -/
def State.refreshMoves (s : State) : List Move := (s.wgs.filter fun e => !e.2.stale.isEmpty).map fun e => .refresh e.1

/-- Nothing is being issued between steps, except a pair whose base word is next. -/
def idleAfter : Res → Res
  | .next t => .next { t with issue := {} }
  | r => r
/-- What may come next. Rejoin masks are released first (R51). Nothing comes before the service firmware runs (R480), or after a
thermal trip (R483). -/
noncomputable def State.moves (s : State) : List Move :=
  if s.dev.tripped || !s.firmwareRuns then []
  else match s.rejoins with
    | i :: _ => [.event i]
    | [] => (s.candidateEvents.filter s.can).map .event ++ s.issueMoves ++ s.retryMoves ++ s.flintMoves ++ s.stageMoves ++
      s.refreshMoves

/-- One of the lines of older values that a workgroup holds is dropped. -/
def State.dropOld (s : State) (g : Nat) : State :=
  let lines := ((s.wg g).stale.map fun e => e.1 / 128).eraseDups
  let r := s.choose lines.length
  r.2.modWg g fun x => { x with stale := x.stale.filter fun e => some (e.1 / 128) != lines[r.1]? }
noncomputable def State.move (s : State) : Move → Res
  | .event i => idleAfter (exec i s)
  | .issue c k => s.issueStep c k
  | .retry w n => match s.retry? w n with
    | some t => .next t
    | none => .next s
  | .flint c p => s.flintStep c p
  | .stage f => .next (((s.flight? f).bind s.stage?).getD s)
  | .refresh g => .next (s.dropOld g)

/-! ## From outside (the host interface) -/

/-- Events that come from outside the device, from its wires and storage, or from the passing of time. -/
def Instr.external : Instr → Bool
  | .peerBarrierMessage .. => true
  | .quietIntervalEnd .. => true
  | .queueDoorbell .. => true
  | .qctlWrite .. => true
  | .drainApproachExpiry .. => true
  | .sliceExpiry .. => true
  | .dieFailure .. => true
  | .dieFailureGraceEnd .. => true
  | .iqDoorbell .. => true
  | .iqctlWrite .. => true
  | .atctlWrite .. => true
  | .ordovfctlWrite .. => true
  | .pwrcapWrite .. => true
  | .cxlClearIsolation .. => true
  | .registerWrite .. => true
  | .systemAgentAccess .. => true
  | .flitReceive .. => true
  | .storageError .. => true
  | .errorWindowEnd .. => true
  | .accessTimeout .. => true
  | .cxlReadTimeout .. => true
  | .peerPortDown .. => true
  | .linkUp .. => true
  | .coldReset => true
  | .gneissImageLoad .. => true
  | .serviceFirmwareLoad .. => true
  | .attestationRequest .. => true
  | .thermalTrip => true
  | .debugResume .. => true
  | .rqctlWrite .. => true
  | .elctlWrite .. => true
  | _ => false
/-- The event that arrives now, if there is one. -/
def State.due? (s : State) : Option Instr := match s.inputs with
  | (0, i) :: _ => some i
  | _ => none
/-- R472: the interface that a host's event uses: 1 the queues and the window, 5 the debug port, 6 attestation. -/
def Instr.hostId : Instr → Option Nat
  | .queueDoorbell .. => some 1
  | .qctlWrite .. => some 1
  | .iqDoorbell .. => some 1
  | .iqctlWrite .. => some 1
  | .atctlWrite .. => some 1
  | .ordovfctlWrite .. => some 1
  | .pwrcapWrite .. => some 1
  | .cxlClearIsolation .. => some 1
  | .rqctlWrite .. => some 1
  | .elctlWrite .. => some 1
  | .registerWrite off _ => if off < 2 ^ 32 then some 1 else none
  | .debugResume .. => some 5
  | .attestationRequest .. => some 6
  | _ => none
/-- R480: the events of the security core and the host link, which alone run before the service firmware does. -/
def Instr.boots : Instr → Bool
  | .gneissImageLoad .. => true
  | .serviceFirmwareLoad .. => true
  | .linkUp port _ => port == 22
  | .thermalTrip => true
  | .debugResume .. => false
  | i => (Instr.hostId i).isSome
/-- The device takes an event: one of those from outside. After a thermal trip (R483), or a failed boot, only the cold reset; before the
service firmware runs, those of the boot (R480); and what the adapter's list leaves out is not in use (R472). -/
def State.takes (s : State) (i : Instr) : Bool := Instr.external i && (i == .coldReset ||
  (!s.dev.tripped && s.bootState != 15 && (s.firmwareRuns || Instr.boots i) && match Instr.hostId i, s.dev.adapter with
    | some k, some ids => bitAt ids k
    | _, _ => true))
/-- The next arrival comes one step nearer. -/
def State.wait (s : State) : State := { s with inputs := match s.inputs with
  | (n + 1, i) :: r => (n, i) :: r
  | r => r }
def State.arrive (s : State) (i : Instr) : Res :=
  let t : State := { s with inputs := s.inputs.drop 1 }
  if t.takes i then idleAfter (exec i t) else .next t
/-- The device's own next move. With several, a free choice names one. -/
noncomputable def State.advanceOne (s : State) : Res :=
  match s.moves with
  | [] => .next { s with tick := s.tick + 1 }
  | [m] => s.move m
  | m :: ms => match (m :: ms)[(s.choose (ms.length + 1)).1]? with
    | some x => (s.choose (ms.length + 1)).2.move x
    | none => .fault .noMove

end Sys2Proof.Machine
end

