-- ==== Sys2Proof/Machine/Step.lean ====
section
/-! DEFINITION. One step of the device: the base word of an open pair, an event that arrives from outside, or the device's own next
move. And the placing of one instruction where the next step fetches. -/

namespace Sys2Proof.Machine

noncomputable def step (s : State) : Host.Outcome State Fault Refusal :=
  if s.issue.open_ then s.runBase
  else match s.due? with
    | some i => s.arrive i
    | none => s.wait.advanceOne

/-! ## Placing one instruction -/

/-- Where the placed word lies, at the same virtual and physical address. -/
def fetchBase : Nat := 0x1000
/-- The launch that runs it: admitted, with one gang, and a code segment of the word and a word of zeros. -/
def fetchLaunch : Launch :=
  { desc := { ngang := 1, code := BitVec.ofNat 64 fetchBase, limit := 2, leases := [(0x1000, 0x0010000000001000)] }
    phase := .admitted
    gangs := [(2 ^ 24, { started := true, resident := true, wgs := [1] })]
    grids := [(1, { started := true, next := 1 })] }
/-- Its workgroup, and its one warp with every lane in RUN at word 0 (R349). -/
def fetchGroup : Workgroup := { launch := 1, gang := 2 ^ 24, nwarps := 1 }
def fetchWarp : Warp :=
  { launch := 1, gang := 2 ^ 24, wg := 1, budget := 128, lanes := (List.range 32).map fun l => (l, { status := .run }) }
/-- The word stored, its page pinned, the launch and its workgroup in place, the device booted, and nothing else of it under way. -/
def State.withLaunch (s : State) (w : Nat) : State :=
  { s with
    inputs := [], issue := {}, flights := [], trees := [], warps := [], cores := [], hist := [], tlb := [], lines := [], armed := []
    wgs := [(1, fetchGroup)], launches := [(1, fetchLaunch)]
    pins := [{ owner := 1, asid := 0, vpage := fetchBase / 4096, ppage := fetchBase / 4096, read := true, write := false, order := .consistent }]
    mem := memWriteN s.mem fetchBase (toBytes 8 w)
    dev := { s.dev with queues := [], iq := {}, iqBusy := none, atCtl := 0, tripped := false, fwstat := 3 } }
/-- The instruction placed: in a warp's code; for an instruction that always carries a prefix, as the base word of a pair whose prefix
has been latched; for an address program's, in the code of a RUNNING program. -/
noncomputable def State.withFetchWord (s : State) (nbits w : Nat) : State :=
  let t := s.withLaunch w
  match decodeTableWord nbits w with
  | some i =>
    if i.rules.flint then
      { t with cores := [(0, { flint := [(0, { owner := 1, status := .running, pc := BitVec.ofNat 64 fetchBase })] })] }
    else if i.rules.needs then
      { t with
        warps := [(1, fetchWarp)]
        issue := { warp := 1, set := allLanes, word := BitVec.ofNat 32 w, pfx := some 0x70000000, open_ := true } }
    else { t with warps := [(1, fetchWarp)] }
  | none => { t with warps := [(1, fetchWarp)] }

end Sys2Proof.Machine
end

