-- ==== Sys2Proof/Safety.lean ====
section
/-! DEFINITION. What counts as a state that runs can be in and as a step that goes on, and the terms in which statements say what an
instruction changes and what it leaves alone. -/

namespace Sys2Proof.Machine

/-- An answer that goes on: a next state, and neither a fault nor a refusal. -/
def Answers (o : Res) : Prop := ∃ t, o = .next t

/-- Every memory of the device is in its canonical form: physical memory, the scratchpad windows and the scale memories. -/
def State.memoryWf (s : State) : Prop :=
  Memory.wf s.mem = true ∧ ∀ e ∈ s.wgs, Memory.wf e.2.sp = true ∧ Memory.wf e.2.scale = true

/-- The keys of a map rise. -/
def KeysRise {α : Type} (m : AMap α) : Prop := m.Pairwise fun x y => x.1 < y.1
/-- The maps that name warps, workgroups, launches and shared domains rise, and so do the registers that each warp lists; accesses on their
way have names of their own, which were given out before. -/
structure State.Tidy (s : State) : Prop where
  warps : KeysRise s.warps
  wgs : KeysRise s.wgs
  launches : KeysRise s.launches
  shared : KeysRise s.shared
  vregs : ∀ e ∈ s.warps, KeysRise e.2.vregs
  names : (s.flights.map (·.id)).Nodup
  given : ∀ f ∈ s.flights, f.id < s.nextId

/-- What stands in `issue` between steps: nothing, or a pair whose prefix has been latched and whose base word decodes to an
instruction that is legal after it (R24, R26). -/
def IssueInv (s : State) : Prop :=
  s.issue = {} ∨
  ∃ p i, s.issue.open_ = true ∧ s.issue.flint = none ∧ s.issue.pfx = some p ∧ decode s.issue.word = .ok i ∧
    WellFormed.paired p i = true

/-! ## What an instruction leaves alone -/

/-- Every byte of physical memory and of every scratchpad window reads as before. -/
structure BytesKept (s t : State) : Prop where
  mem : ∀ a, memRead t.mem a = memRead s.mem a
  pads : ∀ g a, memRead (t.wg g).sp a = memRead (s.wg g).sp a

/-- Nothing changes but the issuing warp: no other warp, no memory, no workgroup, core, launch, access or device register. -/
structure OnlyWarp (s t : State) : Prop extends BytesKept s t where
  rest : t = { s with warps := t.warps }
  others : ∀ v, v ≠ s.issue.warp → t.warp v = s.warp v

/-- The generators as they are. -/
def State.gens (s : State) (l : Nat) : DWord := (s.cur.lane l).gen
/-- R73: the arithmetic trap of a lane that raised an enabled flag. -/
def State.arithRec (s : State) (f : Flags) : TrapRec := { s.record 3 with flags := f, after := true }
/-- R50, R73: every lane of the issue set goes on at the word after the instruction, lanes of E with the generator state `gen`, and with
the arithmetic trap pending where they raised an enabled flag and had no trap pending; in nothing else do the warp's lanes change. -/
def LanesPass (s t : State) (gen : Nat → DWord) (fl : Nat → Flags) : Prop := ∀ l < 32, t.cur.lane l =
  if s.inSet l then
    { s.cur.lane l with
      pc := s.issue.pc + s.len, gen := if s.inE l then gen l else (s.cur.lane l).gen
      trap := if s.inE l = true ∧ fl l &&& s.cur.ten ≠ 0 then (s.cur.lane l).trap <|> some (s.arithRec (fl l)) else (s.cur.lane l).trap }
  else s.cur.lane l
/-- No flags. -/
def noFlags (_ : Nat) : Flags := 0
/-- R73: the flags that the lanes of E raise together. -/
def State.raisedFlags (s : State) (fl : Nat → Flags) : Flags := (lanesOf s.eff).foldl (fun a l => a ||| fl l) 0
/-- R49, R103, R259: the rows that destinations `ds` need fit the budget, or nothing is written: one row for each destination, or,
where the registers are listed in their order, for each that holds none. -/
def State.fits (s : State) (ds : List Nat) : Prop :=
  s.eff = 0 ∨ s.cur.rows + ds.length ≤ s.cur.budget ∨
    (KeysRise s.cur.vregs ∧ s.cur.rows + ds.countP (fun d => !(s.cur.vreg d).isG) ≤ s.cur.budget)

/-- R98, R50, R73: an instruction that writes vector registers `ds` has been executed. Each destination holds `val` in the lanes of E,
zero in the other lanes of the issue set under Z, and what it held in every other lane; with an empty E nothing is written (R49).
No other vector register, no uniform register, no mask and no other part of the warp changes: `MODE` only by the flags raised, and
`WC` to `wc`. -/
structure VecResult (s t : State) (ds : List Nat) (val : Nat → Nat → Word) (fl : Nat → Flags) (gen : Nat → DWord) (wc : Word) :
    Prop where
  only : OnlyWarp s t
  lanes : LanesPass s t gen fl
  value : ∀ d ∈ ds, ∀ l < 32, t.cur.vlane d l =
    if s.inE l then val d l
    else if s.eff ≠ 0 ∧ s.pz = true ∧ s.inSet l = true then 0
    else s.cur.vlane d l
  regs : ∀ r, r ∉ ds → t.cur.vreg r = s.cur.vreg r
  warp : t.cur = { s.cur with
    vregs := t.cur.vregs, lanes := t.cur.lanes, mode := modeRaise s.cur.mode (s.raisedFlags fl)
    wc := if s.eff = 0 then s.cur.wc else wc }

/-- R106: an instruction that writes bits of mask `k`, lane by lane. -/
structure MaskResult (s t : State) (k : Nat) (val : Nat → Bool) (fl : Nat → Flags) : Prop where
  only : OnlyWarp s t
  lanes : LanesPass s t s.gens fl
  value : ∀ l < 32, (t.cur.mask k).getLsbD l =
    if s.inE l then val l
    else if s.eff ≠ 0 ∧ s.pz = true ∧ s.inSet l = true then false
    else (s.cur.mask k).getLsbD l
  masks : ∀ j, j ≠ k → t.cur.mask j = s.cur.mask j
  warp : t.cur = { s.cur with
    masks := t.cur.masks, lanes := t.cur.lanes, mode := modeRaise s.cur.mode (s.raisedFlags fl) }

/-- R126, R384: an instruction that executes once for its warp: uniform registers `ws` receive `val`, mask `k` receives a whole
value where one is given, and `WC` becomes `wc`; nothing else of the warp changes but the program counters. Where every lane of E is a
helper none of this happens but the advance. -/
structure UniResult (s t : State) (ws : List Nat) (val : Nat → Word) (mk : Option (Nat × Mask)) (wc : Word) : Prop where
  only : OnlyWarp s t
  lanes : LanesPass s t s.gens noFlags
  value : ∀ r ∈ ws, t.cur.wreg r = if s.acts then val r else s.cur.wreg r
  regs : ∀ r, r ∉ ws → t.cur.wreg r = s.cur.wreg r
  masks : ∀ j, t.cur.mask j = match mk with
    | some (k, m) => if j = k ∧ s.acts = true then m else s.cur.mask j
    | none => s.cur.mask j
  warp : t.cur = { s.cur with
    wregs := t.cur.wregs, masks := t.cur.masks, lanes := t.cur.lanes, wc := if s.acts then wc else s.cur.wc }

/-- R50, R405: an instruction that lanes of the issue set take a trap on: each lane for which `r` gives a record has it pending and
stays on the instruction, one that had a trap pending keeps that; the other lanes of the issue set go on; nothing else changes. -/
structure TrapResult (s t : State) (r : Nat → Option TrapRec) : Prop where
  only : OnlyWarp s t
  lanes : ∀ l < 32, t.cur.lane l =
    if s.inSet l then
      match r l with
      | some x => { s.cur.lane l with trap := (s.cur.lane l).trap <|> some x }
      | none => { s.cur.lane l with pc := s.issue.pc + s.len }
    else s.cur.lane l
  warp : t.cur = { s.cur with lanes := t.cur.lanes }

end Sys2Proof.Machine
end

