-- ==== Sys2Proof/Certificates/Slice0/Obligations.lean ====
section
/-! DEFINITION. The statements for the provers, and the terms in which they say what an instruction does. -/

namespace Sys2Proof.Claim
open Sys2Proof.Machine

/-! ## Encoding -/

/-- R32: the operation values that no instruction of a class has. -/
def unassigned (w : BitVec 32) : Bool :=
  let op := (w.extractLsb' 22 5).toNat
  match (w.extractLsb' 27 4).toNat with
  | 0x0 => false
  | 0x1 => decide (26 ≤ op)
  | 0x2 => decide (15 ≤ op)
  | 0x3 => decide (20 ≤ op)
  | 0x4 => decide (29 ≤ op)
  | 0x5 => decide (12 ≤ op)
  | 0x6 => decide (20 ≤ op)
  | 0x7 => op == 15 || decide (29 ≤ op)
  | 0x8 => false
  | 0x9 => decide (20 ≤ op)
  | 0xA => decide (14 ≤ op)
  | 0xB => decide (17 ≤ op)
  | 0xC => decide (19 ≤ op)
  | 0xD => decide (15 ≤ op)
  | 0xE => false
  | _ => true

/-- Words written out from the encodings of the spec (R16, R21, R32, R128 and the worked examples), with what they stand for. -/
noncomputable def specWords : List (BitVec 32 × Instr) := [
  (0b0_0000_00000_0_0000001_0000010_0000011, .iadd 0 0 1 2 3),
  (0b0_0000_00101_1_0000100_0000101_0000110, .imad 0 1 4 5 6),
  (0b0_0000_11000_0_0000001_0000010_0000000, .bitopPopc 0 0 1 2),
  (0b0_0001_00011_0_0000001_0000010_0000011, .ffma 0 0 1 2 3),
  (0b0_0010_00000_0000010_0000001_00000100, .iaddi 0 2 1 4),
  (0b0_0011_00000_00000001_00000010_000011, .wadd 0 1 2 3),
  (0b0_0011_01100_00000110_00000001100100, .wli 0 6 100),
  (0b0_0100_00000_0_0000001_0000010_0000011, .shflIdx 0 0 1 2 3),
  (0b0_0101_00000_0000_111111111111111110, .bra 0 (-2)),
  (0b0_0110_00100_0010_0000101_0000110_0111, .ldB32 0 2 5 6 7),
  (0b0_0110_01001_0010_0000101_0000110_0111, .stB32 0 2 5 6 7),
  (0b0_0111_00000_0010_0000101_0000110_0111, .atomAdd32 0 2 5 6 7),
  (0b0_0111_10000_0010_0000101_0000110_0111, .atomAdd64 0 2 5 6 7),
  (0b0_1000_0000_0010_010_00100_00010_001000, .mma 0 2 2 4 2 8),
  (0b0_1001_0000_0000_000_00001_00010_000011, .edge 0 0 1 2 3),
  (0b0_1010_00011_010_0000011_0000000_00001, .barexp 0 2 3 0 1),
  (0b0_1010_01100_000_00000000000000_00_111, .fenceSc 0 0),
  (0b0_1010_01100_000_00000000000000_00_011, .fenceAr 0 0),
  (0b0_1011_00000_0_0000_0000_0000_0000_00000, .qacq 0 0 0 0),
  (0b0_1100_00000_0000000000000000000000, .nop 0),
  (0b0_1101_00110_0000_0000_0000001_0000010, .rcp 0 0 0 1 2),
  (0b0_1110_0_000_000_0_0000001_0_00000000110, .pfx 0 0 0 0 1 0 6)]

end Sys2Proof.Claim

open Sys2Proof Sys2Proof.Machine

/-- The decoder gives back every instruction that has an encoding, with every field at every value. -/
def Obligations.DecodeEncode : Prop := ∀ (i : Instr) (w : BitVec 32), encode i = some w → decode w = .ok i

/-- A word that decodes to an instruction is the encoding of that instruction and of no other. -/
def Obligations.EncodeDecode : Prop := ∀ (w : BitVec 32) (i : Instr), decode w = .ok i → encode i = some w

/-- R32, R34: the decoder finds an operation value unassigned exactly where the table of R32 has none. -/
def Obligations.UnassignedWords : Prop := ∀ w : BitVec 32, decode w = .error .unassigned ↔ Claim.unassigned w = true

/-- Words of the spec's formats decode to the instructions they stand for. -/
def Obligations.DecodeSpecWords : Prop := ∀ e ∈ Claim.specWords, decode e.1 = .ok e.2
namespace Sys2Proof.Claim
open Sys2Proof.Machine

/-! ## Register results -/

/-- The prefix gives source B as a uniform register (R26). -/
def wsB (s : State) : Option Nat := s.prefix?.bind fun p => if p.ws then some (p.x % 256) else none
/-- A vector source in a lane (R97). -/
def vA (s : State) (r : BitVec 7) (l : Nat) : Word := s.cur.vlane r.toNat l
/-- Source B in a lane: a uniform register under WS (R26). -/
def vB (s : State) (r : BitVec 7) (l : Nat) : Word := match wsB s with
  | some u => s.cur.wreg u
  | none => vA s r l
/-- A 64-bit source B in a lane (R114). -/
def pB (s : State) (r : BitVec 7) (l : Nat) : DWord := match wsB s with
  | some u => s.cur.wpair u
  | none => s.cur.vpair r.toNat l
/-- Operand c in a lane: v(Q) under a prefix, else the destination (R99). -/
def vC (s : State) (d : BitVec 7) (l : Nat) : Word := match s.prefix? with
  | some p => s.cur.vlane p.q l
  | none => vA s d l
/-- The immediate IMM8, or X[10:0]:IMM8 under a prefix (R115), sign-extended and zero-extended. -/
def imm (s : State) (i : BitVec 8) (signed : Bool) : Word := match s.prefix? with
  | some p => if signed then (BitVec.ofNat 11 p.x ++ i).signExtend 32 else (BitVec.ofNat 11 p.x ++ i).setWidth 32
  | none => if signed then i.signExtend 32 else i.setWidth 32
/-- The set bits of a word among the lowest `n`. -/
def bitCount (x : Word) (n : Nat) : Nat := (List.range n).countP fun i => x.getLsbD i

/-- The destination of an instruction of class 0x0, and WTOV, MTOV and the counts of class 0x4, with its value in a lane of E. -/
inductive IntVal (s : State) : Instr → Nat → (Nat → Word) → Prop
  | iadd (c h d a b) : IntVal s (.iadd c h d a b) d.toNat (fun l => vA s a l + vB s b l)
  | isub (c h d a b) : IntVal s (.isub c h d a b) d.toNat (fun l => vA s a l - vB s b l)
  | imul (c h d a b) : IntVal s (.imul c h d a b) d.toNat (fun l => vA s a l * vB s b l)
  | imulhiS (c h d a b) : IntVal s (.imulhiS c h d a b) d.toNat (fun l => (((vA s a l).signExtend 64 * (vB s b l).signExtend 64) >>> 32).setWidth 32)
  | imulhiN (c h d a b) : IntVal s (.imulhiN c h d a b) d.toNat (fun l => (((vA s a l).setWidth 64 * (vB s b l).setWidth 64) >>> 32).setWidth 32)
  | imad (c h d a b) : IntVal s (.imad c h d a b) d.toNat (fun l => vA s a l * vB s b l + vC s d l)
  | iminS (c h d a b) : IntVal s (.iminS c h d a b) d.toNat (fun l => if (vB s b l).slt (vA s a l) then vB s b l else vA s a l)
  | iminN (c h d a b) : IntVal s (.iminN c h d a b) d.toNat (fun l => if (vB s b l).ult (vA s a l) then vB s b l else vA s a l)
  | imaxS (c h d a b) : IntVal s (.imaxS c h d a b) d.toNat (fun l => if (vA s a l).slt (vB s b l) then vB s b l else vA s a l)
  | imaxN (c h d a b) : IntVal s (.imaxN c h d a b) d.toNat (fun l => if (vA s a l).ult (vB s b l) then vB s b l else vA s a l)
  | vand (c h d a b) : IntVal s (.vand c h d a b) d.toNat (fun l => vA s a l &&& vB s b l)
  | vor (c h d a b) : IntVal s (.vor c h d a b) d.toNat (fun l => vA s a l ||| vB s b l)
  | vxor (c h d a b) : IntVal s (.vxor c h d a b) d.toNat (fun l => vA s a l ^^^ vB s b l)
  | andn (c h d a b) : IntVal s (.andn c h d a b) d.toNat (fun l => vA s a l &&& ~~~vB s b l)
  | shl (c h d a b) : IntVal s (.shl c h d a b) d.toNat (fun l => vA s a l <<< vB s b l)
  | shr (c h d a b) : IntVal s (.shr c h d a b) d.toNat (fun l => vA s a l >>> vB s b l)
  | sar (c h d a b) : IntVal s (.sar c h d a b) d.toNat (fun l => (vA s a l).sshiftRight (vB s b l).toNat)
  | rot (c h d a b) : IntVal s (.rot c h d a b) d.toNat (fun l => (vA s a l).rotateLeft (vB s b l).toNat)
  | bfe (c h d a b) : IntVal s (.bfe c h d a b) d.toNat (fun l => bfeW (vA s a l) (vB s b l))
  | bfi (c h d a b) : IntVal s (.bfi c h d a b) d.toNat (fun l => bfiW (vA s a l) (vB s b l) (vC s d l))
  | bitopPopc (c h d a) : IntVal s (.bitopPopc c h d a) d.toNat (fun l => BitVec.ofNat 32 (bitCount (vA s a l) 32))
  | bitopClz (c h d a) : IntVal s (.bitopClz c h d a) d.toNat (fun l => clzW (vA s a l))
  | bitopCtz (c h d a) : IntVal s (.bitopCtz c h d a) d.toNat (fun l => ctzW (vA s a l))
  | bitopBrev (c h d a) : IntVal s (.bitopBrev c h d a) d.toNat (fun l => (vA s a l).reverse)
  | bitopNot (c h d a) : IntVal s (.bitopNot c h d a) d.toNat (fun l => ~~~vA s a l)
  | sel (c h d a b) : IntVal s (.sel c h d a b) d.toNat (fun l => if (s.cur.mask 0).getLsbD l then vA s a l else vB s b l)
  | mov (c h d a) : IntVal s (.mov c h d a) d.toNat (fun l => vA s a l)
  | prmt (c h d a b) : IntVal s (.prmt c h d a b) d.toNat (fun l => prmtW (vA s a l) (vB s b l) (vC s d l))
  | fclass (c h d a) : IntVal s (.fclass c h d a) d.toNat (fun l => BitVec.ofNat 32 (2 ^ fclassBit (vA s a l).toNat))
  | fcpsgn (c h d a b) : IntVal s (.fcpsgn c h d a b) d.toNat (fun l => (vB s b l).extractLsb' 31 1 ++ (vA s a l).extractLsb' 0 31)
  | wtov (c d a) (acts : s.acts = true) : IntVal s (.wtov c d a) d.toNat (fun _ => s.cur.wreg a.toNat)

/-- As `IntVal`, for the immediate forms of class 0x2 (R115). -/
inductive ImmVal (s : State) : Instr → Nat → (Nat → Word) → Prop
  | iaddi (c d a i) : ImmVal s (.iaddi c d a i) d.toNat (fun l => vA s a l + imm s i true)
  | imuli (c d a i) : ImmVal s (.imuli c d a i) d.toNat (fun l => vA s a l * imm s i true)
  | andi (c d a i) : ImmVal s (.andi c d a i) d.toNat (fun l => vA s a l &&& imm s i false)
  | ori (c d a i) : ImmVal s (.ori c d a i) d.toNat (fun l => vA s a l ||| imm s i false)
  | xori (c d a i) : ImmVal s (.xori c d a i) d.toNat (fun l => vA s a l ^^^ imm s i false)
  | shli (c d a i) : ImmVal s (.shli c d a i) d.toNat (fun l => vA s a l <<< imm s i false)
  | shri (c d a i) : ImmVal s (.shri c d a i) d.toNat (fun l => vA s a l >>> imm s i false)
  | sari (c d a i) : ImmVal s (.sari c d a i) d.toNat (fun l => (vA s a l).sshiftRight (imm s i false).toNat)
  | movi (c d i) : ImmVal s (.movi c d i) d.toNat (fun _ => imm s i true)
  | laneidx (c d a i) : ImmVal s (.laneidx c d a i) d.toNat (fun l => vA s a l + BitVec.ofNat 32 l * imm s i true)
  | iminiS (c d a i) : ImmVal s (.iminiS c d a i) d.toNat (fun l => if (imm s i true).slt (vA s a l) then imm s i true else vA s a l)
  | imaxiS (c d a i) : ImmVal s (.imaxiS c d a i) d.toNat (fun l => if (vA s a l).slt (imm s i true) then imm s i true else vA s a l)

/-- As `IntVal`, for the shuffles and the lane and warp values of class 0x4 that leave `WC` alone (R141, R142, R146). -/
inductive LaneVal (s : State) : Instr → Nat → (Nat → Word) → Prop
  | shflIdx (c h d a b) : LaneVal s (.shflIdx c h d a b) d.toNat (fun l => vA s a ((vB s b l).toNat % 32))
  | shflUp (c h d a b) : LaneVal s (.shflUp c h d a b) d.toNat (fun l => let k := (vB s b l).toNat; if k ≤ l then vA s a (l - k) else vA s a l)
  | shflDn (c h d a b) : LaneVal s (.shflDn c h d a b) d.toNat (fun l => let k := (vB s b l).toNat; if l + k ≤ 31 then vA s a (l + k) else vA s a l)
  | shflXor (c h d a b) : LaneVal s (.shflXor c h d a b) d.toNat (fun l => vA s a (l ^^^ ((vB s b l).toNat % 32)))
  | matchLanes (c h d a) : LaneVal s (.matchLanes c h d a) d.toNat (fun l => maskOf fun j => s.inE j && vA s a j == vA s a l)
  | mpopc (c h d a) : LaneVal s (.mpopc c h d a) d.toNat (fun _ => BitVec.ofNat 32 (bitCount (s.cur.mask a.toNat) 32))
  | mpopcRank (c h d a) : LaneVal s (.mpopcRank c h d a) d.toNat (fun l => BitVec.ofNat 32 (bitCount (s.cur.mask a.toNat) l))
  | mfirst (c h d a) : LaneVal s (.mfirst c h d a) d.toNat (fun _ => ctzW (s.cur.mask a.toNat))
  | mtov (c h d a) : LaneVal s (.mtov c h d a) d.toNat (fun _ => s.cur.mask a.toNat)

/-- The 64-bit results of class 0x0 (R114): the first destination register and the value. -/
inductive PairVal (s : State) : Instr → Nat → (Nat → DWord) → Prop
  | iadd64 (c h d a b) : PairVal s (.iadd64 c h d a b) d.toNat (fun l => s.cur.vpair a.toNat l + pB s b l)
  | isub64 (c h d a b) : PairVal s (.isub64 c h d a b) d.toNat (fun l => s.cur.vpair a.toNat l - pB s b l)
  | lea (c h d a b) : PairVal s (.lea c h d a b) d.toNat
      (fun l =>
        let index : DWord := if (wsB s).isNone && bitAt s.px 3 then (vB s b l).setWidth 64 else (vB s b l).signExtend 64
        s.cur.vpair a.toNat l + index <<< (if (wsB s).isSome then 0 else s.px % 8))

/-- A source as an F32 value, with flushing (R74). -/
def fA (s : State) (r : BitVec 7) (l : Nat) : FVal := decodeIn s.env F32 (vA s r l).toNat
def fB (s : State) (r : BitVec 7) (l : Nat) : FVal := decodeIn s.env F32 (vB s r l).toNat
def fC (s : State) (r : BitVec 7) (l : Nat) : FVal := decodeIn s.env F32 (vC s r l).toNat
/-- Consecutive source registers in a lane. -/
def vRun (s : State) (a : BitVec 7) (k l : Nat) : List Nat := (List.range k).map fun i => (s.cur.vlane (a.toNat + i) l).toNat
/-- An exact integer clamped to a 32-bit format, with IO where it clamps (R108). -/
def sat32 (fm : IFmt) (x : Int) (n : LaneNum) : Nat × LaneNum :=
  (bitsOf 32 (clampInt fm x), if clampInt fm x = x then n else n.raise flIO)

/-- An instruction that computes a number in each lane: its first destination, its number of destination registers, the number with
the flags and the generator state, and whether it may step the generator. -/
inductive NumVal (s : State) : Instr → Nat → Nat → (Nat → LaneNum → Nat × LaneNum) → Bool → Prop
  | iaddsS (c h d a b) : NumVal s (.iaddsS c h d a b) d.toNat 1 (fun l => sat32 S32 ((vA s a l).toInt + (vB s b l).toInt)) false
  | iaddsN (c h d a b) : NumVal s (.iaddsN c h d a b) d.toNat 1 (fun l => sat32 N32 ((vA s a l).toNat + (vB s b l).toNat : Nat)) false
  | isubsS (c h d a b) : NumVal s (.isubsS c h d a b) d.toNat 1 (fun l => sat32 S32 ((vA s a l).toInt - (vB s b l).toInt)) false
  | isubsN (c h d a b) : NumVal s (.isubsN c h d a b) d.toNat 1
      (fun l => sat32 N32 (((vA s a l).toNat : Int) - (vB s b l).toNat)) false
  | fadd (c h d a b) : NumVal s (.fadd c h d a b) d.toNat 1 (fun l => fAdd s.env F32 (fA s a l) (fB s b l)) true
  | fsub (c h d a b) : NumVal s (.fsub c h d a b) d.toNat 1 (fun l => fAdd s.env F32 (fA s a l) (fB s b l).negate) true
  | fmul (c h d a b) : NumVal s (.fmul c h d a b) d.toNat 1 (fun l => fMul s.env F32 (fA s a l) (fB s b l)) true
  | ffma (c h d a b) : NumVal s (.ffma c h d a b) d.toNat 1 (fun l => fFma s.env F32 false false (fA s a l) (fB s b l) (fC s d l)) true
  | ffms (c h d a b) : NumVal s (.ffms c h d a b) d.toNat 1 (fun l => fFma s.env F32 false true (fA s a l) (fB s b l) (fC s d l)) true
  | fnma (c h d a b) : NumVal s (.fnma c h d a b) d.toNat 1 (fun l => fFma s.env F32 true false (fA s a l) (fB s b l) (fC s d l)) true
  | fmin (c h d a b) : NumVal s (.fmin c h d a b) d.toNat 1 (fun l => fMinMax s.env false false (vA s a l).toNat (vB s b l).toNat) false
  | fminn (c h d a b) : NumVal s (.fminn c h d a b) d.toNat 1 (fun l => fMinMax s.env false true (vA s a l).toNat (vB s b l).toNat) false
  | fmax (c h d a b) : NumVal s (.fmax c h d a b) d.toNat 1 (fun l => fMinMax s.env true false (vA s a l).toNat (vB s b l).toNat) false
  | fmaxn (c h d a b) : NumVal s (.fmaxn c h d a b) d.toNat 1 (fun l => fMinMax s.env true true (vA s a l).toNat (vB s b l).toNat) false
  | frnd (c h d a) : NumVal s (.frnd c h d a) d.toNat 1 (fun l => Machine.frnd s.env (fA s a l)) true
  | ffract (c h d a) : NumVal s (.ffract c h d a) d.toNat 1 (fun l => Machine.ffract s.env (fA s a l)) true
  | fsat (c h d a) : NumVal s (.fsat c h d a) d.toNat 1 (fun l => Machine.fsat s.env (vA s a l).toNat) false
  | flerp (c h d a b) : NumVal s (.flerp c h d a b) d.toNat 1 (fun l => Machine.flerp s.env (fA s a l) (fB s b l) (fC s d l)) true
  | fmed3 (c h d a b) : NumVal s (.fmed3 c h d a b) d.toNat 1
      (fun l => Machine.fmed3 s.env (vA s a l).toNat (vB s b l).toNat (vC s d l).toNat) false
  | hadd2 (c h d a b) : NumVal s (.hadd2 c h d a b) d.toNat 1
      (fun l => packed2 s.env F16 (fun x y _ => fAdd s.env F16 x y) (vA s a l).toNat (vB s b l).toNat 0) true
  | hmul2 (c h d a b) : NumVal s (.hmul2 c h d a b) d.toNat 1
      (fun l => packed2 s.env F16 (fun x y _ => fMul s.env F16 x y) (vA s a l).toNat (vB s b l).toNat 0) true
  | hfma2 (c h d a b) : NumVal s (.hfma2 c h d a b) d.toNat 1
      (fun l => packed2 s.env F16 (fFma s.env F16 false false) (vA s a l).toNat (vB s b l).toNat (vC s d l).toNat) true
  | badd2 (c h d a b) : NumVal s (.badd2 c h d a b) d.toNat 1
      (fun l => packed2 s.env BF16 (fun x y _ => fAdd s.env BF16 x y) (vA s a l).toNat (vB s b l).toNat 0) true
  | bmul2 (c h d a b) : NumVal s (.bmul2 c h d a b) d.toNat 1
      (fun l => packed2 s.env BF16 (fun x y _ => fMul s.env BF16 x y) (vA s a l).toNat (vB s b l).toNat 0) true
  | bfma2 (c h d a b) : NumVal s (.bfma2 c h d a b) d.toNat 1
      (fun l => packed2 s.env BF16 (fFma s.env BF16 false false) (vA s a l).toNat (vB s b l).toNat (vC s d l).toNat) true
  | fdot2h (c h d a b) : NumVal s (.fdot2h c h d a b) d.toNat 1 (fun l => fdot2 s.env F16 (vA s a l).toNat (vB s b l).toNat (fC s d l)) true
  | fdot2b (c h d a b) : NumVal s (.fdot2b c h d a b) d.toNat 1 (fun l => fdot2 s.env BF16 (vA s a l).toNat (vB s b l).toNat (fC s d l)) true
  | fmuli (c d a i) : NumVal s (.fmuli c d a i) d.toNat 1 (fun l => fMul s.env F32 (fA s a l) (s.fimm i)) true
  | faddi (c d a i) : NumVal s (.faddi c d a i) d.toNat 1 (fun l => fAdd s.env F32 (fA s a l) (s.fimm i)) true

/-- As `NumVal`, for class 0xD (R131 to R137). -/
inductive ConvVal (s : State) : Instr → Nat → Nat → (Nat → LaneNum → Nat × LaneNum) → Bool → Prop
  | cvtf (c h sub d a) : ConvVal s (.cvtf c h sub d a) d.toNat 1 (fun l => Machine.cvtf s.env sub.toNat (vA s a l).toNat) (cvtfRounds sub.toNat)
  | cvtfi (c h sub d a) : ConvVal s (.cvtfi c h sub d a) d.toNat ((cvtInt sub.toNat).w / 32)
      (fun l n =>
        let r := intOf s.env (cvtInt sub.toNat) (decodeIn s.env (cvtFloat sub.toNat) (vA s a l).toNat) n
        (bitsOf (cvtInt sub.toNat).w r.1, r.2)) true
  | cvtif (c h sub d a) : ConvVal s (.cvtif c h sub d a) d.toNat 1
      (fun l =>
        let i := cvtInt sub.toNat
        let x : Nat := if i.w = 32 then (vA s a l).toNat else (s.cur.vpair a.toNat l).toNat
        roundFin s.env (cvtFloat sub.toNat) (Dy.ofInt (if i.signed then sextN i.w x else x)) false) true
  | pack2 (c h sub d a) : ConvVal s (.pack2 c h sub d a) d.toNat 1
      (fun l => packElems 16 (match sub.toNat with
        | 0 => fun b => roundVal s.env F16 (decodeIn s.env F32 b)
        | 1 => fun b => roundVal s.env BF16 (decodeIn s.env F32 b)
        | 2 => satElem S32 ⟨16, true⟩
        | _ => satElem N32 ⟨16, false⟩) (vRun s a 2 l)) (decide (sub.toNat < 2))
  | pack4 (c h sub d a) (low : sub.toNat < 6) : ConvVal s (.pack4 c h sub d a) d.toNat 1
      (fun l => packElems 8 (match sub.toNat with
        | 0 => fun b => roundVal s.env E4M3 (decodeIn s.env F32 b)
        | 1 => fun b => roundVal s.env E5M2 (decodeIn s.env F32 b)
        | 2 => fun b => roundVal s.env E2M3 (decodeIn s.env F32 b)
        | 3 => fun b => roundVal s.env E3M2 (decodeIn s.env F32 b)
        | 4 => satElem S32 ⟨8, true⟩
        | _ => satElem N32 ⟨8, false⟩) (vRun s a 4 l)) (decide (sub.toNat < 4))
  | pack4half (c h sub d a) (high : sub = 6 ∨ sub = 7) : ConvVal s (.pack4 c h sub d a) d.toNat 1
      (fun l n =>
        let r := packElems 4 (fun b => roundVal s.env E2M1 (decodeIn s.env F32 b)) (vRun s a 4 l) n
        let old := (vA s d l).toNat
        (if sub = 6 then r.1 + old / 65536 * 65536 else r.1 * 65536 + old % 65536, r.2)) true
  | unpk (c h sub d a) : ConvVal s (.unpk c h sub d a) d.toNat 1 (fun l => Machine.unpk s.env sub.toNat (s.px % 8) (vA s a l).toNat) false
  | rcp (c h sub d a) : ConvVal s (.rcp c h sub d a) d.toNat 1 (fun l => fnLane s.env .rcp sub.toNat (vA s a l).toNat) true
  | rsq (c h sub d a) : ConvVal s (.rsq c h sub d a) d.toNat 1 (fun l => fnLane s.env .rsq sub.toNat (vA s a l).toNat) false
  | sqrt (c h sub d a) : ConvVal s (.sqrt c h sub d a) d.toNat 1 (fun l => fnLane s.env .sqrt sub.toNat (vA s a l).toNat) true
  | exp2 (c h sub d a) : ConvVal s (.exp2 c h sub d a) d.toNat 1 (fun l => fnLane s.env .exp2 sub.toNat (vA s a l).toNat) false
  | log2 (c h sub d a) : ConvVal s (.log2 c h sub d a) d.toNat 1 (fun l => fnLane s.env .log2 sub.toNat (vA s a l).toNat) false
  | sinp (c h sub d a) : ConvVal s (.sinp c h sub d a) d.toNat 1 (fun l => fnLane s.env .sinp sub.toNat (vA s a l).toNat) false
  | cosp (c h sub d a) : ConvVal s (.cosp c h sub d a) d.toNat 1 (fun l => fnLane s.env .cosp sub.toNat (vA s a l).toNat) false
  | tanh (c h sub d a) : ConvVal s (.tanh c h sub d a) d.toNat 1 (fun l => fnLane s.env .tanh sub.toNat (vA s a l).toNat) false
  | rngBits (c h d) : ConvVal s (.rng c h 0 d) d.toNat 1
      (fun _ n => let g := rngStep n.gen; ((rngMix g).toNat / 2 ^ 32, { n with gen := g })) true
  | rngUnit (c h sub d) (one : sub ≠ 0) : ConvVal s (.rng c h sub d) d.toNat 1
      (fun _ n =>
        let g := rngStep n.gen
        ((roundFin ⟨.rne, false, false, false, false⟩ F32 ⟨((rngMix g).toNat / 2 ^ 40 : Nat), -24, false⟩ false ⟨0, 0⟩).1,
          { n with gen := g })) true

/-- What `NumVal` and `ConvVal` say of a next state. -/
def NumResult (s t : State) (d n : Nat) (f : Nat → LaneNum → Nat × LaneNum) (rounds : Bool) : Prop :=
  VecResult s t (List.range' d n) (fun r l => BitVec.ofNat 32 ((f l (s.laneNum l)).1 / 2 ^ (32 * (r - d))))
    (fun l => (f l (s.laneNum l)).2.fl) (fun l => if rounds then (f l (s.laneNum l)).2.gen else s.gens l) s.cur.wc

/-- The lanes of E that contribute to a reduction (R143). -/
def inK (s : State) (b : BitVec 7) (l : Nat) : Bool := s.inE l && (b == 0 || (s.cur.mask (b.toNat % 8)).getLsbD l)
def contribs (s : State) (a b : BitVec 7) (upTo : Nat) : List Word := ((List.range upTo).filter (inK s b)).map (vA s a)
/-- `WC` with E as it is when K is empty or not, and with C as a condition (R125, R142, R143). -/
def wcE (s : State) (b : BitVec 7) : Word := if (List.range 32).any (inK s b) then s.cur.wc &&& ~~~2 else s.cur.wc ||| 2
def wcC (s : State) (p : Bool) : Word := if p then s.cur.wc ||| 1 else s.cur.wc &&& ~~~1
/-- R94: the tree over 32 contributions, with the flags that each lane holds. -/
def tree (s : State) (step : NumEnv → List (Nat × Flags) → Nat → List (Nat × Flags)) (a b : BitVec 7) (l : Nat) : Nat × Flags :=
  ([1, 2, 4, 8, 16].foldl (step s.env)
    ((List.range 32).map fun j => ((if inK s b j then vA s a j else 0x80000000 : Word).toNat, (0 : Flags)))).getD l (0, 0)
/-- Votes, reductions and scans: destination, value, flags and `WC` (R142 to R144). -/
inductive WarpVal (s : State) : Instr → Nat → (Nat → Word) → (Nat → Flags) → Word → Prop
  | voteAny (c h d a) : WarpVal s (.voteAny c h d a) d.toNat
      (fun _ => if (List.range 32).any fun j => s.inE j && vA s a j != 0 then 1 else 0) noFlags
      (wcC s ((List.range 32).any fun j => s.inE j && vA s a j != 0))
  | voteAll (c h d a) : WarpVal s (.voteAll c h d a) d.toNat
      (fun _ => if (List.range 32).all fun j => !s.inE j || vA s a j != 0 then 1 else 0) noFlags
      (wcC s ((List.range 32).all fun j => !s.inE j || vA s a j != 0))
  | redAdd (c h d a b) : WarpVal s (.redAdd c h d a b) d.toNat (fun _ => (contribs s a b 32).foldl (· + ·) 0) noFlags (wcE s b)
  | redMinS (c h d a b) : WarpVal s (.redMinS c h d a b) d.toNat (fun _ => (contribs s a b 32).foldl minS 0x7FFFFFFF) noFlags (wcE s b)
  | redMinN (c h d a b) : WarpVal s (.redMinN c h d a b) d.toNat (fun _ => (contribs s a b 32).foldl minN 0xFFFFFFFF) noFlags (wcE s b)
  | redMaxS (c h d a b) : WarpVal s (.redMaxS c h d a b) d.toNat (fun _ => (contribs s a b 32).foldl maxS 0x80000000) noFlags (wcE s b)
  | redMaxN (c h d a b) : WarpVal s (.redMaxN c h d a b) d.toNat (fun _ => (contribs s a b 32).foldl maxN 0) noFlags (wcE s b)
  | redAnd (c h d a b) : WarpVal s (.redAnd c h d a b) d.toNat (fun _ => (contribs s a b 32).foldl (· &&& ·) 0xFFFFFFFF) noFlags (wcE s b)
  | redOr (c h d a b) : WarpVal s (.redOr c h d a b) d.toNat (fun _ => (contribs s a b 32).foldl (· ||| ·) 0) noFlags (wcE s b)
  | scanAdd (c h d a b) : WarpVal s (.scanAdd c h d a b) d.toNat (fun l => (contribs s a b (l + 1)).foldl (· + ·) 0) noFlags (wcE s b)
  | redFadd (c h d a b) : WarpVal s (.redFadd c h d a b) d.toNat (fun l => BitVec.ofNat 32 (tree s redStep a b l).1)
      (fun l => (tree s redStep a b l).2) (wcE s b)
  | scanFadd (c h d a b) : WarpVal s (.scanFadd c h d a b) d.toNat (fun l => BitVec.ofNat 32 (tree s scanStep a b l).1)
      (fun l => (tree s scanStep a b l).2) (wcE s b)

/-- Compares and VTOM: the mask, its bits and the flags (R104 to R106, R115, R146). -/
inductive CmpVal (s : State) : Instr → Nat → (Nat → Bool) → (Nat → Flags) → Prop
  | icmp (c h k a b) : CmpVal s (.icmp c h k a b) 0 (fun l => iCompare k.toNat (vA s a l) (vB s b l)) noFlags
  | icmpi (c k a i) : CmpVal s (.icmpi c k a i) 0 (fun l => iCompare k.toNat (vA s a l) (imm s i (decide (k.toNat < 6)))) noFlags
  | fcmp (c h k a b) : CmpVal s (.fcmp c h k a b) 0 (fun l => (fCompare k.toNat (fA s a l) (fB s b l)).1)
      (fun l => (fCompare k.toNat (fA s a l) (fB s b l)).2)
  | vtom (c h d a b) : CmpVal s (.vtom c h d a b) d.toNat (fun l => (vA s a l).getLsbD b.toNat) noFlags

/-- Instructions that write a whole mask from E when E is not empty (R142, R147). -/
inductive WholeMask (s : State) : Instr → Nat → Mask → Prop
  | ballot (c h d a) : WholeMask s (.ballot c h d a) d.toNat (maskOf fun l => s.inE l && vA s a l != 0)
  | elect (c h d) : WholeMask s (.elect c h d) d.toNat (maskOf fun l => s.inE l && (List.range l).all fun j => !s.inE j)
  | issuem (c h d) : WholeMask s (.issuem c h d) d.toNat s.eff

/-- A uniform register. -/
def uR {n : Nat} (s : State) (r : BitVec n) : Word := s.cur.wreg r.toNat
/-- Class 0x3 and the mask algebra of class 0x4: registers written, their values, the mask written, and `WC` (R125 to R130, R145). -/
inductive UniVal (s : State) : Instr → List Nat → (Nat → Word) → Option (Nat × Mask) → Word → Prop
  | wadd (c d a b) : UniVal s (.wadd c d a b) [d.toNat] (fun _ => uR s a + uR s b) none s.cur.wc
  | wsub (c d a b) : UniVal s (.wsub c d a b) [d.toNat] (fun _ => uR s a - uR s b) none s.cur.wc
  | wmul (c d a b) : UniVal s (.wmul c d a b) [d.toNat] (fun _ => uR s a * uR s b) none s.cur.wc
  | wand (c d a b) : UniVal s (.wand c d a b) [d.toNat] (fun _ => uR s a &&& uR s b) none s.cur.wc
  | wor (c d a b) : UniVal s (.wor c d a b) [d.toNat] (fun _ => uR s a ||| uR s b) none s.cur.wc
  | wxor (c d a b) : UniVal s (.wxor c d a b) [d.toNat] (fun _ => uR s a ^^^ uR s b) none s.cur.wc
  | wshl (c d a b) : UniVal s (.wshl c d a b) [d.toNat] (fun _ => uR s a <<< uR s b) none s.cur.wc
  | wshr (c d a b) : UniVal s (.wshr c d a b) [d.toNat] (fun _ => uR s a >>> uR s b) none s.cur.wc
  | wsar (c d a b) : UniVal s (.wsar c d a b) [d.toNat] (fun _ => (uR s a).sshiftRight (uR s b).toNat) none s.cur.wc
  | wcmp (c k a b) : UniVal s (.wcmp c k a b) [] (fun _ => 0) none (wcC s (iCompare k.toNat (uR s a) (uR s b)))
  | wsel (c d a b) : UniVal s (.wsel c d a b) [d.toNat] (fun _ => if s.cur.wc.getLsbD 0 then uR s a else uR s b) none s.cur.wc
  | wmov (c d a) : UniVal s (.wmov c d a) [d.toNat] (fun _ => uR s a) none s.cur.wc
  | wli (c d i) : UniVal s (.wli c d i) [d.toNat] (fun _ => i.signExtend 32) none s.cur.wc
  | wlih (c d i) : UniVal s (.wlih c d i) [d.toNat] (fun _ => (uR s d).extractLsb' 0 18 ++ i) none s.cur.wc
  | wadd64 (c d a b) : UniVal s (.wadd64 c d a b) [d.toNat, d.toNat + 1]
      (fun r => let x := s.cur.wpair a.toNat + s.cur.wpair b.toNat; if r = d.toNat then x.extractLsb' 0 32 else x.extractLsb' 32 32) none s.cur.wc
  | vtow (c d a b) : UniVal s (.vtow c d a b) [d.toNat]
      (fun _ => vA s a (if b.getLsbD 5 then ((List.range 32).find? s.inSet).getD 0 else b.toNat % 32)) none s.cur.wc
  | waddi (c d a i) : UniVal s (.waddi c d a i) [d.toNat] (fun _ => uR s a + i.signExtend 32) none s.cur.wc
  | wmin (c d a b) : UniVal s (.wmin c d a b) [d.toNat] (fun _ => if (uR s b).slt (uR s a) then uR s b else uR s a) none s.cur.wc
  | wmax (c d a b) : UniVal s (.wmax c d a b) [d.toNat] (fun _ => if (uR s a).slt (uR s b) then uR s b else uR s a) none s.cur.wc
  | mand (c h d a b) : UniVal s (.mand c h d a b) [] (fun _ => 0) (some (d.toNat, s.cur.mask a.toNat &&& s.cur.mask b.toNat)) s.cur.wc
  | mor (c h d a b) : UniVal s (.mor c h d a b) [] (fun _ => 0) (some (d.toNat, s.cur.mask a.toNat ||| s.cur.mask b.toNat)) s.cur.wc
  | mxor (c h d a b) : UniVal s (.mxor c h d a b) [] (fun _ => 0) (some (d.toNat, s.cur.mask a.toNat ^^^ s.cur.mask b.toNat)) s.cur.wc
  | mandn (c h d a b) : UniVal s (.mandn c h d a b) [] (fun _ => 0) (some (d.toNat, s.cur.mask a.toNat &&& ~~~s.cur.mask b.toNat)) s.cur.wc
  | mmov (c h d a) : UniVal s (.mmov c h d a) [] (fun _ => 0) (some (d.toNat, s.cur.mask a.toNat)) s.cur.wc

end Sys2Proof.Claim

open Sys2Proof Sys2Proof.Machine

/-- R98, R107, R109 to R113, R120, R129: the 32-bit results of class 0x0, FCLASS, FCPSGN and WTOV. -/
def Obligations.IntegerResults : Prop := ∀ (s : State) (i : Instr) (d : Nat) (v : Nat → Word), Claim.IntVal s i d v → s.fits [d] →
  ∃ t, exec i s = .next t ∧ VecResult s t [d] (fun _ => v) noFlags s.gens s.cur.wc

/-- R115: the results of the integer forms of class 0x2. -/
def Sys2Proof.Claim.ImmediateResults : Prop := ∀ (s : State) (i : Instr) (d : Nat) (v : Nat → Word), Claim.ImmVal s i d v → s.fits [d] →
  ∃ t, exec i s = .next t ∧ VecResult s t [d] (fun _ => v) noFlags s.gens s.cur.wc

/-- R114: the pair results of class 0x0. -/
def Sys2Proof.Claim.PairResults : Prop := ∀ (s : State) (i : Instr) (d : Nat) (v : Nat → DWord), Claim.PairVal s i d v → s.fits [d, d + 1] →
  ∃ t, exec i s = .next t ∧ VecResult s t [d, d + 1]
    (fun r l => if r = d then (v l).extractLsb' 0 32 else (v l).extractLsb' 32 32) noFlags s.gens s.cur.wc

/-- R141, R142, R146: shuffles, MATCH and the values of masks. -/
def Sys2Proof.Claim.LaneResults : Prop := ∀ (s : State) (i : Instr) (d : Nat) (v : Nat → Word), Claim.LaneVal s i d v → s.fits [d] →
  ∃ t, exec i s = .next t ∧ VecResult s t [d] (fun _ => v) noFlags s.gens s.cur.wc

/-- R142 to R144: votes, reductions and scans, with `WC`. -/
def Sys2Proof.Claim.WarpResults : Prop := ∀ (s : State) (i : Instr) (d : Nat) (v : Nat → Word) (fl : Nat → Flags) (wc : Word),
  Claim.WarpVal s i d v fl wc → s.fits [d] →
  ∃ t, exec i s = .next t ∧ VecResult s t [d] (fun _ => v) fl s.gens wc

/-- R73, R108, R118 to R124: saturating integer and float results, their flags, and the generator under RSTO. -/
def Sys2Proof.Claim.NumberResults : Prop := ∀ (s : State) (i : Instr) (d n : Nat) (f : Nat → LaneNum → Nat × LaneNum) (r : Bool),
  Claim.NumVal s i d n f r → s.fits (List.range' d n) → ∃ t, exec i s = .next t ∧ Claim.NumResult s t d n f r

/-- R131 to R137: conversions, packing, approximate functions and random numbers. -/
def Sys2Proof.Claim.ConversionResults : Prop := ∀ (s : State) (i : Instr) (d n : Nat) (f : Nat → LaneNum → Nat × LaneNum) (r : Bool),
  Claim.ConvVal s i d n f r → s.fits (List.range' d n) → ∃ t, exec i s = .next t ∧ Claim.NumResult s t d n f r

/-- R104 to R106, R146: the masks that compares and VTOM write, with their flags. -/
def Obligations.CompareResults : Prop := ∀ (s : State) (i : Instr) (k : Nat) (v : Nat → Bool) (fl : Nat → Flags),
  Claim.CmpVal s i k v fl → ∃ t, exec i s = .next t ∧ MaskResult s t k v fl

/-- R142, R147: BALLOT, ELECT and ISSUEM write a whole mask, and nothing when E is empty. -/
def Sys2Proof.Claim.WholeMasks : Prop := ∀ (s : State) (i : Instr) (k : Nat) (m : Mask), Claim.WholeMask s i k m →
  ∃ t, exec i s = .next t ∧ OnlyWarp s t ∧ LanesPass s t s.gens noFlags ∧
    t.cur = { s.cur with lanes := t.cur.lanes, masks := t.cur.masks } ∧
    ∀ j, t.cur.mask j = if j = k ∧ s.eff ≠ 0 then m else s.cur.mask j

/-- R125 to R130, R145, R384: the uniform instructions and the mask algebra, once per issue; where every lane of E is a helper they only
pass, and so does WTOV. -/
def Sys2Proof.Claim.UniformResults : Prop := ∀ s : State,
  (∀ (i : Instr) (ws : List Nat) (v : Nat → Word) (mk : Option (Nat × Mask)) (wc : Word),
    Claim.UniVal s i ws v mk wc → ∃ t, exec i s = .next t ∧ UniResult s t ws v mk wc) ∧
  ∀ (c : BitVec 1) (d : BitVec 7) (a : BitVec 8), s.acts = false → ∃ t, exec (.wtov c d a) s = .next t ∧
    UniResult s t [] (fun _ => 0) none s.cur.wc

namespace Sys2Proof.Claim

/-! ## Control flow -/

/-- A lane that takes a transfer to word `w`: there, or the instruction-fetch fault on the transfer (R17, R149). -/
def jump (s : State) (x : Lane) (w : Int) : Lane :=
  if 0 ≤ w ∧ w < s.codeLimit then { x with pc := w.toNat }
  else { x with trap := x.trap <|> some { s.record 1 with addr := BitVec.ofInt 64 (s.curLaunch.desc.code.toNat + 4 * w) } }
/-- Every lane of the issue set goes to its word, or on to the next instruction; no other lane changes. -/
def Lands (s t : State) (dest : Nat → Option Int) : Prop := ∀ l < 32, t.cur.lane l =
  if s.inSet l then
    match dest l with
    | some w => jump s (s.cur.lane l) w
    | none => { s.cur.lane l with pc := s.issue.pc + s.len }
  else s.cur.lane l
/-- The target of a BR form (R22). -/
def brWord (s : State) (o : BitVec 18) : Int := s.issue.pc + o.toInt

/-- The branches without a counter: where each lane of the issue set goes (R150, R151). -/
inductive Branch (s : State) : Instr → (Nat → Option Int) → Prop
  | bra (c o) : Branch s (.bra c o) (fun _ => some (brWord s o))
  | brc (c n k o) : Branch s (.brc c n k o) (fun l => if (s.cur.mask k.toNat).getLsbD l ^^ n.getLsbD 0 then some (brWord s o) else none)
  | brw (c n o) : Branch s (.brw c n o) (fun _ => if s.cur.wc.getLsbD 0 ^^ n.getLsbD 0 then some (brWord s o) else none)
  | bri (c h a) : Branch s (.bri c h a) (fun l => some (vA s a l).toNat)
  | ret (c h a) : Branch s (.ret c h a) (fun l => some (vA s a l).toNat)

/-- The calls: the register of the return word and where each lane goes (R151). -/
inductive Call (s : State) : Instr → Nat → (Nat → Int) → Prop
  | call (c o) : Call s (.call c o) 127 (fun _ => brWord s o)
  | calli (c h d a) : Call s (.calli c h d a) d.toNat (fun l => (vA s a l).toNat)
/-- The lane of the issue set has a target in the segment. -/
def callsTo (s : State) (w : Nat → Int) (l : Nat) : Bool := s.inSet l && decide (0 ≤ w l ∧ w l < s.codeLimit)

/-- R51: a lane at its JOIN on mask `k`. -/
def waitsFor (k : Nat) (x : Lane) : Prop := x.status = .join ∧ x.joinTarget = k
/-- R51: mask `k` is released: each of its lanes is DONE or waits for it. -/
def joined (w : Warp) (k : Nat) : Prop := ∀ l < 32, (w.join k).getLsbD l = true → (w.lane l).status = .done ∨ waitsFor k (w.lane l)

/-- R153: what an ended lane keeps: nothing pending, nothing held, no wait. -/
def ended (x : Lane) : Lane := { x with status := .done, wait := .none, held := [], parked := false, trap := none }
/-- The access is a request for an ordered section. -/
def isOrdReq (f : Flight) : Prop := ∃ op tag dom key num st, f.kind = .ordReq op tag dom key num st
/-- The access is one of a lane of the issuing warp that is to end. -/
def endsFor (s : State) (p : Nat → Bool) (f : Flight) : Prop :=
  f.warp = s.issue.warp ∧ ∃ l < 32, f.who.getLsbD l = true ∧ p l = true ∧ (s.cur.lane l).status ≠ .done
/-- R153, R154, R165, R329: the lanes `p` of the issuing warp end. The values of their loads will be dropped, of a load of several lanes once
all of these have ended; their requests are withdrawn, and each section that one holds is on its way to its home as abandoned. What else is on
its way, memory, the registers and the other warps stay. -/
structure Ends (s t : State) (p : Nat → Bool) : Prop where
  kept : BytesKept s t
  others : ∀ v, v ≠ s.issue.warp → t.warp v = s.warp v
  warp : t.cur = { s.cur with
    lanes := t.cur.lanes, handlerMode := t.cur.handlerMode, latch := t.cur.latch, halted := t.cur.halted }
  done : ∀ l < 32, p l = true → (s.cur.lane l).status ≠ .done ∨ (s.cur.lane l).parked = false →
    (t.cur.lane l).status = .done ∧ (t.cur.lane l).pc = (s.cur.lane l).pc
  lanes : s.cur.handlerMode = false → ∀ l < 32,
    t.cur.lane l = if p l = true ∧ (s.cur.lane l).status ≠ .done then ended (s.cur.lane l) else s.cur.lane l
  left : ∀ l < 32, p l = true → (s.cur.lane l).status ≠ .done → ∀ h ∈ (s.cur.lane l).held,
    ∃ f ∈ t.flights, f.warp = s.issue.warp ∧ f.lane = l ∧ f.rel = true ∧
      f.kind = .ordLeave (s.curLaunch.domTag s.cur.launch h.dom) h.key h.s true
  dropped : ∀ f ∈ s.flights, endsFor s p f → ¬ isOrdReq f →
    (∀ l < 32, f.who.getLsbD l = true → p l = true ∨ (s.cur.lane l).status = .done) → { f with dropped := true } ∈ t.flights
  shared : ∀ f ∈ s.flights, endsFor s p f → ¬ isOrdReq f →
    (∃ l < 32, f.who.getLsbD l = true ∧ p l = false ∧ (s.cur.lane l).status ≠ .done) → f ∈ t.flights
  withdrawn : ∀ f ∈ t.flights, endsFor s p f → ¬ isOrdReq f
  passing : ∀ f ∈ s.flights, ¬ endsFor s p f → f ∈ t.flights

end Sys2Proof.Claim

/-- R150, R151: BRA, BRC, BRW, BRI and RET. -/
def Sys2Proof.Claim.Branches : Prop := ∀ (s : State) (i : Instr) (dest : Nat → Option Int), Claim.Branch s i dest →
  ∃ t, exec i s = .next t ∧ OnlyWarp s t ∧ t.cur = { s.cur with lanes := t.cur.lanes } ∧ Claim.Lands s t dest

/-- R150, R384: LOOPW decrements its counter once per issue and branches while it is not zero; where the branch would leave the segment, the
counter keeps its value. For helper lanes alone it only passes. -/
def Sys2Proof.Claim.LoopBranch : Prop := ∀ (s : State) (c : BitVec 1) (w : BitVec 4) (o : BitVec 18),
  let n := s.cur.wreg w.toNat - 1
  let leaves := ¬ (0 ≤ Claim.brWord s o ∧ Claim.brWord s o < s.codeLimit)
  ∃ t, exec (.loopw c w o) s = .next t ∧ OnlyWarp s t ∧
    (t.cur = { s.cur with lanes := t.cur.lanes, wregs := t.cur.wregs }) ∧
    (∀ r, r ≠ w.toNat → t.cur.wreg r = s.cur.wreg r) ∧
    (s.acts = false → t.cur.wreg w.toNat = s.cur.wreg w.toNat ∧ Claim.Lands s t fun _ => none) ∧
    (s.acts = true →
      (n ≠ 0 ∧ leaves → t.cur.wreg w.toNat = s.cur.wreg w.toNat) ∧ (¬ (n ≠ 0 ∧ leaves) → t.cur.wreg w.toNat = n) ∧
      Claim.Lands s t fun _ => if n ≠ 0 then some (Claim.brWord s o) else none)

/-- R151: CALL and CALLI write the word after the call in the lanes that go to a word of the segment, and in no other lane. -/
def Sys2Proof.Claim.Calls : Prop := ∀ (s : State) (i : Instr) (d : Nat) (w : Nat → Int), Claim.Call s i d w →
  s.cur.rows + 1 ≤ s.cur.budget ∨ (KeysRise s.cur.vregs ∧ s.cur.rows ≤ s.cur.budget ∧ (s.cur.vreg d).isG = true) →
  ∃ t, exec i s = .next t ∧ OnlyWarp s t ∧ t.cur = { s.cur with lanes := t.cur.lanes, vregs := t.cur.vregs } ∧
    (∀ r, r ≠ d → t.cur.vreg r = s.cur.vreg r) ∧
    (∀ l < 32, t.cur.vlane d l = if Claim.callsTo s w l then BitVec.ofNat 32 (s.issue.pc + 1) else s.cur.vlane d l) ∧
    Claim.Lands s t fun l => some (w l)

/-- R51, R152: SPLIT writes the issue set into a rejoin mask; at a JOIN the lanes of the mask wait and the others pass; the release
lets the waiting lanes go on at the word after their JOIN once every lane of the mask is DONE or waits, and does nothing before. -/
def Obligations.SplitAndJoin : Prop := ∀ (s : State) (c h : BitVec 1) (k : BitVec 3) (w j : Nat),
  (∃ t, exec (.split c h k) s = .next t ∧ OnlyWarp s t ∧ LanesPass s t s.gens noFlags ∧
    t.cur = { s.cur with lanes := t.cur.lanes, joins := t.cur.joins } ∧
    t.cur.join k.toNat = s.issue.set ∧ ∀ i, i ≠ k.toNat → t.cur.join i = s.cur.join i) ∧
  (∃ t, exec (.join c h k) s = .next t ∧ OnlyWarp s t ∧ t.cur = { s.cur with lanes := t.cur.lanes } ∧
    ∀ l < 32, t.cur.lane l =
      if s.inSet l then
        if (s.cur.join k.toNat).getLsbD l then { s.cur.lane l with status := .join, joinTarget := k.toNat }
        else { s.cur.lane l with pc := s.issue.pc + 1 }
      else s.cur.lane l) ∧
  (∃ t, exec (.rejoinRelease w j) s = .next t ∧ (¬ Claim.joined (s.warp w) j → t = s) ∧
    (Claim.joined (s.warp w) j → t = { s with warps := t.warps } ∧ (∀ v, v ≠ w → t.warp v = s.warp v) ∧
      t.warp w = { s.warp w with lanes := (t.warp w).lanes } ∧
      ∀ l < 32, (Claim.waitsFor j ((s.warp w).lane l) → ((t.warp w).lane l).pc = ((s.warp w).lane l).pc + 1 ∧
          ((t.warp w).lane l).status = if (s.warp w).handlerMode && !((s.warp w).lane l).handler then .hold else .run) ∧
        (¬ Claim.waitsFor j ((s.warp w).lane l) → (t.warp w).lane l = (s.warp w).lane l)))

/-- R153, R154, R329: EXIT ends the lanes of the issue set, END every lane of the warp. -/
def Sys2Proof.Claim.LaneEnds : Prop := ∀ (s : State) (c h : BitVec 1),
  (∃ t, exec (.exit c h) s = .next t ∧ Claim.Ends s t s.inSet ∧ t.cur.halted = s.cur.halted) ∧
  ∃ t, exec (.endAll c h) s = .next t ∧ Claim.Ends s t (fun _ => true) ∧ t.cur.halted = false

/-- R35, R36: every lane of the issue set takes the trap, whatever the predicate, and stays on the instruction. The read of a word of the segment
is logged where its page has no destination (R469), and a sector that an expander returned marked is counted (R476). -/
def Obligations.IllegalAndFetch : Prop := ∀ s : State,
  (∃ t, exec .illegalInstruction s = .next t ∧ TrapResult s t fun _ => some (s.record 2)) ∧
  ∃ t, exec .instructionFetchFault s = .next t ∧
    let i := s.issue.pc + if s.issue.pfx.isSome then 1 else 0
    let va := s.curLaunch.desc.code.toNat + 4 * i
    let r : TrapRec := { s.record 1 with addr := BitVec.ofNat 64 va }
    (i < s.codeLimit → TrapResult (s.vnote s.curLaunch.asid va 4) t fun _ => some r) ∧
    (s.codeLimit ≤ i ∨ (s.dev.cxl = [] ∧ ∀ pa ∈ physOf ((spanPages va 4).map (s.placeAt s.curLaunch.asid)), s.route pa ≠ .nowhere) →
      TrapResult s t fun _ => some r)


namespace Sys2Proof.Claim

/-! ## Accesses of lanes -/

/-- R157, R170: the global address of a lane, with an offset in bytes. -/
def gAddr (s : State) (w : BitVec 4) (v : BitVec 7) (ofs l : Nat) : DWord :=
  s.cur.wpair (2 * w.toNat) + (vA s v l).setWidth 64 + BitVec.ofNat 64 ofs
/-- R158: the scratchpad address of a lane. -/
def pAddr (s : State) (w : BitVec 4) (v : BitVec 7) (ofs l : Nat) : Nat :=
  (s.cur.wreg (2 * w.toNat) + vA s v l + BitVec.ofNat 32 ofs).toNat

/-- What an instruction does lane by lane: which lanes of E act, what their checks answer, and what an access is to do. -/
structure Access where
  acts : Nat → Bool := fun _ => true
  chk : Nat → Check
  kind : Nat → List Place → FlightKind
  la : Nat
  read : Bool
  write : Bool
  /-- the lane as the instruction leaves it, but for where it goes -/
  base : Nat → Lane
/-- R160: the fault that a lane takes. -/
def Access.fault (s : State) (a : Access) (l : Nat) : Option TrapRec :=
  if s.inE l && a.acts l then match a.chk l with
    | .bad r => some r
    | .ok .. => none
  else none
/-- The access that a lane makes. Stores and atomics count as unacknowledged (R235). -/
def Access.flight (s : State) (a : Access) (group l : Nat) : Option Flight :=
  if s.inE l && a.acts l then match a.chk l with
    | .ok ps page ea => some { (s.flight l a.la group (a.kind l ps)).ordered page s.ordBits s.scopeBits a.read a.write ea with
        counted := a.write }
    | .bad _ => none
  else none
/-- The lanes that make an access. -/
def Access.served (s : State) (a : Access) : Mask := Machine.maskOf fun l => (a.flight s 0 l).isSome
/-- R49, R295, R298: the ordering point of an ordered access, as the access `n`, when some lane of the issue set makes no access; at thread
scope it orders nothing that another agent can observe. -/
def point (s : State) (served : Mask) (n : Nat) : List Flight :=
  if s.ordBits = 0 ∨ served = s.issue.set ∨ s.scopeBits = 0 then []
  else [{ s.flight 0 0 n (.fence (acquires s.ordBits) (releases s.ordBits) false false false) with
    id := n, who := 0, windows := [], scope := s.scopeBits }]
/-- R160, R161, R163: the accesses of an instruction are on their way, in lane order, and its lanes go on or take their faults. No byte of
memory changes. The destinations `ds` keep their values in the lanes of E until the data returns, and are zeroed in the others
under Z; no other register changes. A lease fault marks the launch (R403). -/
structure Issued (s t : State) (a : Access) (ds : List Nat) : Prop where
  kept : BytesKept s t
  rest : t = { s with warps := t.warps, flights := t.flights, nextId := t.nextId, launches := t.launches }
  others : ∀ v, v ≠ s.issue.warp → t.warp v = s.warp v
  warp : t.cur = { s.cur with lanes := t.cur.lanes, vregs := t.cur.vregs }
  lanes : ∀ l < 32, t.cur.lane l =
    if s.inSet l then
      match a.fault s l with
      | some r => { a.base l with trap := (a.base l).trap <|> some r }
      | none => { a.base l with pc := s.issue.pc + s.len }
    else s.cur.lane l
  value : ∀ d ∈ ds, ∀ l < 32, t.cur.vlane d l =
    if s.inE l then s.cur.vlane d l
    else if s.eff ≠ 0 ∧ s.pz = true ∧ s.inSet l = true then 0
    else s.cur.vlane d l
  regs : ∀ r, r ∉ ds → t.cur.vreg r = s.cur.vreg r
  flights : ∃ n, s.nextId ≤ n ∧ t.flights = s.flights ++
    (((List.range 32).filterMap (a.flight s s.nextId)).zipIdx.map fun e => { e.1 with id := s.nextId + 1 + e.2 }) ++ point s (a.served s) n
  launches : t.launches =
    if (List.range 32).any fun l => (a.fault s l).any fun r => r.kind == 7 then (s.markCause s.cur.launch 4).launches else s.launches

def loadOf (s : State) (pad : Bool) (n : Nat) (signed : Bool) (l : BitVec 4) (d v : BitVec 7) (w : BitVec 4) : Access where
  chk := fun i => if pad then s.checkPad false n true (pAddr s w v (s.px % 64 * n) i)
    else s.checkGlobal .r n true i (gAddr s w v (s.px % 64 * n) i)
  kind := fun _ ps => .load ps n signed d.toNat false
  la := l.toNat
  read := true
  write := false
  base := s.cur.lane
/-- R161: the loads of class 0x6 by lanes, with their destinations. -/
inductive Load (s : State) : Instr → Access → List Nat → Prop
  | ldB8 (c l d v w) : Load s (.ldB8 c l d v w) (loadOf s false 1 false l d v w) (List.range' d.toNat 1)
  | ldS8 (c l d v w) : Load s (.ldS8 c l d v w) (loadOf s false 1 true l d v w) (List.range' d.toNat 1)
  | ldB16 (c l d v w) : Load s (.ldB16 c l d v w) (loadOf s false 2 false l d v w) (List.range' d.toNat 1)
  | ldS16 (c l d v w) : Load s (.ldS16 c l d v w) (loadOf s false 2 true l d v w) (List.range' d.toNat 1)
  | ldB32 (c l d v w) : Load s (.ldB32 c l d v w) (loadOf s false 4 false l d v w) (List.range' d.toNat 1)
  | ldB64 (c l d v w) : Load s (.ldB64 c l d v w) (loadOf s false 8 false l d v w) (List.range' d.toNat 2)
  | ldB128 (c l d v w) : Load s (.ldB128 c l d v w) (loadOf s false 16 false l d v w) (List.range' d.toNat 4)
  | ldsB32 (c l d v w) : Load s (.ldsB32 c l d v w) (loadOf s true 4 false l d v w) (List.range' d.toNat 1)
  | ldsB64 (c l d v w) : Load s (.ldsB64 c l d v w) (loadOf s true 8 false l d v w) (List.range' d.toNat 2)
  | ldsB128 (c l d v w) : Load s (.ldsB128 c l d v w) (loadOf s true 16 false l d v w) (List.range' d.toNat 4)
/-- R161: the bytes a lane stores, lowest first. -/
def stored (s : State) (d : BitVec 7) (n l : Nat) : List Byte :=
  ((List.range ((n + 3) / 4)).flatMap fun i => toBytes 4 (s.cur.vlane (d.toNat + i) l).toNat).take n
def storeOf (s : State) (pad : Bool) (n : Nat) (l : BitVec 4) (d v : BitVec 7) (w : BitVec 4) : Access where
  acts := fun i => !(s.cur.lane i).helper
  chk := fun i => if pad then s.checkPad false n true (pAddr s w v (s.px % 64 * n) i)
    else s.checkGlobal .w n true i (gAddr s w v (s.px % 64 * n) i)
  kind := fun i ps => .store [ps.zip (stored s d n i)] []
  la := l.toNat
  read := false
  write := true
  base := s.cur.lane
/-- R161, R167, R384: the stores of class 0x6; helper lanes make none. -/
inductive Store (s : State) : Instr → Access → Prop
  | stB8 (c l d v w) : Store s (.stB8 c l d v w) (storeOf s false 1 l d v w)
  | stB16 (c l d v w) : Store s (.stB16 c l d v w) (storeOf s false 2 l d v w)
  | stB32 (c l d v w) : Store s (.stB32 c l d v w) (storeOf s false 4 l d v w)
  | stB64 (c l d v w) : Store s (.stB64 c l d v w) (storeOf s false 8 l d v w)
  | stB128 (c l d v w) : Store s (.stB128 c l d v w) (storeOf s false 16 l d v w)
  | stsB32 (c l d v w) : Store s (.stsB32 c l d v w) (storeOf s true 4 l d v w)
  | stsB64 (c l d v w) : Store s (.stsB64 c l d v w) (storeOf s true 8 l d v w)
  | stsB128 (c l d v w) : Store s (.stsB128 c l d v w) (storeOf s true 16 l d v w)
/-- R168, R169: an operand of `n` bits from the registers at `r`. -/
def operand (s : State) (n r l : Nat) : DWord := if n = 64 then s.cur.vpair r l else (s.cur.vlane r l).setWidth 64
/-- R415: the lane is OUT of its region. -/
def outOf (x : Lane) : Lane := { x with region := { x.region with inside := false } }
/-- R29, R168 to R173: X bit 1 gives the scratchpad form and X bit 0 the form that returns nothing. -/
def atomicOf (s : State) (op n : Nat) (l : BitVec 4) (d v : BitVec 7) (w : BitVec 4) : Access where
  acts := fun i => !(s.cur.lane i).helper
  chk := fun i => if bitAt s.px 1 then s.checkPad true (n / 8) true (pAddr s w v 0 i) else s.checkGlobal .a (n / 8) true i (gAddr s w v 0 i)
  kind := fun i ps => .atomic ps op n (operand s n d.toNat i) (if op = 10 then operand s n (d.toNat + n / 32) i else 0)
    (if bitAt s.px 0 then none else some d.toNat)
  la := l.toNat
  read := true
  write := true
  base := fun i => outOf (s.cur.lane i)
def atomicDs (s : State) (n : Nat) (d : BitVec 7) : List Nat := if bitAt s.px 0 then [] else List.range' d.toNat (n / 32)
/-- The atomics of class 0x7, with their kinds and widths. -/
inductive Atomic (s : State) : Instr → Access → List Nat → Prop
  | atomAdd32 (c l d v w) : Atomic s (.atomAdd32 c l d v w) (atomicOf s 0 32 l d v w) (atomicDs s 32 d)
  | atomAdd64 (c l d v w) : Atomic s (.atomAdd64 c l d v w) (atomicOf s 0 64 l d v w) (atomicDs s 64 d)
  | atomSub32 (c l d v w) : Atomic s (.atomSub32 c l d v w) (atomicOf s 1 32 l d v w) (atomicDs s 32 d)
  | atomSub64 (c l d v w) : Atomic s (.atomSub64 c l d v w) (atomicOf s 1 64 l d v w) (atomicDs s 64 d)
  | atomMinS32 (c l d v w) : Atomic s (.atomMinS32 c l d v w) (atomicOf s 2 32 l d v w) (atomicDs s 32 d)
  | atomMinS64 (c l d v w) : Atomic s (.atomMinS64 c l d v w) (atomicOf s 2 64 l d v w) (atomicDs s 64 d)
  | atomMinN32 (c l d v w) : Atomic s (.atomMinN32 c l d v w) (atomicOf s 3 32 l d v w) (atomicDs s 32 d)
  | atomMinN64 (c l d v w) : Atomic s (.atomMinN64 c l d v w) (atomicOf s 3 64 l d v w) (atomicDs s 64 d)
  | atomMaxS32 (c l d v w) : Atomic s (.atomMaxS32 c l d v w) (atomicOf s 4 32 l d v w) (atomicDs s 32 d)
  | atomMaxS64 (c l d v w) : Atomic s (.atomMaxS64 c l d v w) (atomicOf s 4 64 l d v w) (atomicDs s 64 d)
  | atomMaxN32 (c l d v w) : Atomic s (.atomMaxN32 c l d v w) (atomicOf s 5 32 l d v w) (atomicDs s 32 d)
  | atomMaxN64 (c l d v w) : Atomic s (.atomMaxN64 c l d v w) (atomicOf s 5 64 l d v w) (atomicDs s 64 d)
  | atomAnd32 (c l d v w) : Atomic s (.atomAnd32 c l d v w) (atomicOf s 6 32 l d v w) (atomicDs s 32 d)
  | atomAnd64 (c l d v w) : Atomic s (.atomAnd64 c l d v w) (atomicOf s 6 64 l d v w) (atomicDs s 64 d)
  | atomOr32 (c l d v w) : Atomic s (.atomOr32 c l d v w) (atomicOf s 7 32 l d v w) (atomicDs s 32 d)
  | atomOr64 (c l d v w) : Atomic s (.atomOr64 c l d v w) (atomicOf s 7 64 l d v w) (atomicDs s 64 d)
  | atomXor32 (c l d v w) : Atomic s (.atomXor32 c l d v w) (atomicOf s 8 32 l d v w) (atomicDs s 32 d)
  | atomXor64 (c l d v w) : Atomic s (.atomXor64 c l d v w) (atomicOf s 8 64 l d v w) (atomicDs s 64 d)
  | atomExch32 (c l d v w) : Atomic s (.atomExch32 c l d v w) (atomicOf s 9 32 l d v w) (atomicDs s 32 d)
  | atomExch64 (c l d v w) : Atomic s (.atomExch64 c l d v w) (atomicOf s 9 64 l d v w) (atomicDs s 64 d)
  | atomCas32 (c l d v w) : Atomic s (.atomCas32 c l d v w) (atomicOf s 10 32 l d v w) (atomicDs s 32 d)
  | atomCas64 (c l d v w) : Atomic s (.atomCas64 c l d v w) (atomicOf s 10 64 l d v w) (atomicDs s 64 d)
  | atomInc32 (c l d v w) : Atomic s (.atomInc32 c l d v w) (atomicOf s 11 32 l d v w) (atomicDs s 32 d)
  | atomInc64 (c l d v w) : Atomic s (.atomInc64 c l d v w) (atomicOf s 11 64 l d v w) (atomicDs s 64 d)
  | atomDec32 (c l d v w) : Atomic s (.atomDec32 c l d v w) (atomicOf s 12 32 l d v w) (atomicDs s 32 d)
  | atomDec64 (c l d v w) : Atomic s (.atomDec64 c l d v w) (atomicOf s 12 64 l d v w) (atomicDs s 64 d)
  | atomFaddF32 (c l d v w) : Atomic s (.atomFaddF32 c l d v w) (atomicOf s 13 32 l d v w) (atomicDs s 32 d)
  | atomFadd2Bf16 (c l d v w) : Atomic s (.atomFadd2Bf16 c l d v w) (atomicOf s 14 32 l d v w) (atomicDs s 32 d)

end Sys2Proof.Claim

/-- R157 to R163: the loads of class 0x6. -/
def Sys2Proof.Claim.LoadsIssue : Prop := ∀ (s : State) (i : Instr) (a : Claim.Access) (ds : List Nat), Claim.Load s i a ds → s.fits ds →
  ∃ t, exec i s = .next t ∧ Claim.Issued s t a ds

/-- R157 to R161, R167: the stores of class 0x6. Their bytes reach memory when they are performed. -/
def Sys2Proof.Claim.StoresIssue : Prop := ∀ (s : State) (i : Instr) (a : Claim.Access), Claim.Store s i a →
  ∃ t, exec i s = .next t ∧ Claim.Issued s t a []

/-- R168 to R173: the atomics of class 0x7. -/
def Sys2Proof.Claim.AtomicsIssue : Prop := ∀ (s : State) (i : Instr) (a : Claim.Access) (ds : List Nat), Claim.Atomic s i a ds →
  ds = [] ∨ s.fits ds → ∃ t, exec i s = .next t ∧ Claim.Issued s t a ds

/-- R165, R166: LDW makes one access for its issue set, or its fault is taken by every lane of it; with no lane that acts, it passes.
PREF only passes. -/
def Sys2Proof.Claim.UniformLoad : Prop := ∀ (s : State) (c : BitVec 1) (la : BitVec 4) (d v : BitVec 7) (w : BitVec 4) (p : BitVec 1),
  let ea := s.cur.wpair (2 * w.toNat) + (s.cur.wreg v.toNat).setWidth 64 + BitVec.ofNat 64 (s.px % 64 * 4)
  let lead := (lanesOf s.issue.set).headD 0
  (∃ t, exec (.ldw c la d v w) s = .next t ∧ BytesKept s t ∧ t.cur = { s.cur with lanes := t.cur.lanes } ∧
    (∀ x, x ≠ s.issue.warp → t.warp x = s.warp x) ∧
    (s.acts = false → t.flights = s.flights ++ Claim.point s 0 s.nextId ∧ LanesPass s t s.gens noFlags) ∧
    (∀ r, s.acts = true → s.checkGlobal .r 4 true lead ea = .bad r → t.flights = s.flights ++ Claim.point s 0 s.nextId ∧
      ∀ l < 32, t.cur.lane l =
        if s.inSet l then { s.cur.lane l with trap := (s.cur.lane l).trap <|> some r } else s.cur.lane l) ∧
    (∀ ps page e, s.acts = true → s.checkGlobal .r 4 true lead ea = .ok ps page e → LanesPass s t s.gens noFlags ∧
      ∃ f, t = { s with warps := t.warps, flights := s.flights ++ [f], nextId := s.nextId + 1 } ∧ f.id = s.nextId ∧
        f.warp = s.issue.warp ∧ f.who = s.issue.set ∧ f.ea = ea ∧ f.kind = .load ps 4 false d.toNat true)) ∧
  ∃ t, exec (.pref c la p v w) s = .next t ∧ OnlyWarp s t ∧ LanesPass s t s.gens noFlags ∧ t.cur = { s.cur with lanes := t.cur.lanes }

/-- R157 to R160, R267: an access is made exactly where its address is aligned, canonical or in the window, and granted; the first of
these that fails gives the fault. -/
def Obligations.AccessChecks : Prop := ∀ (s : State) (k : Acc) (n lane sa : Nat) (ea : DWord) (atomic : Bool),
  (ea.toNat % n ≠ 0 → s.checkGlobal k n true lane ea = .bad { s.record 5 with addr := ea }) ∧
  (ea.toNat % n = 0 → 2 ^ 56 < ea.toNat + n → s.checkGlobal k n true lane ea = .bad { s.record 6 with cause := 0, addr := ea }) ∧
  (ea.toNat % n = 0 → ea.toNat + n ≤ 2 ^ 56 → (∀ i < n, s.inSave s.curLaunch.asid (ea.toNat + i) = false) →
    ((s.checkGlobal k n true lane ea).isOk = true ↔ ∀ i < n, ∃ e ∈ s.curLaunch.desc.leases, leaseHolds e k (ea.toNat + i) 1 = true) ∧
    ((s.checkGlobal k n true lane ea).isOk = false →
      s.checkGlobal k n true lane ea = .bad { s.record 7 with addr := ea, arg1 := BitVec.ofNat 32 k.code })) ∧
  (sa % n ≠ 0 → s.checkPad atomic n true sa = .bad { s.record 5 with addr := BitVec.ofNat 64 sa }) ∧
  (sa % n = 0 → (s.wg s.cur.wg).window < sa + n →
    s.checkPad atomic n true sa = .bad { s.record 6 with cause := 1, addr := BitVec.ofNat 64 sa }) ∧
  (sa % n = 0 → sa + n ≤ (s.wg s.cur.wg).window → atomic = true → (s.wg s.cur.wg).inRingBlock sa = true →
    s.checkPad atomic n true sa = .bad { s.record 6 with cause := 3, addr := BitVec.ofNat 64 sa }) ∧
  (sa % n = 0 → sa + n ≤ (s.wg s.cur.wg).window → ¬ (atomic = true ∧ (s.wg s.cur.wg).inRingBlock sa = true) →
    s.checkPad atomic n true sa = .ok ((List.range n).map fun i => .sp s.cur.wg (sa + i)) .consistent (BitVec.ofNat 64 sa))

namespace Sys2Proof.Claim

/-! ## Accesses performed -/

/-- None of the places lies in a ring control block, where a store may reconfigure a ring (R267), or has an address without a destination,
where an access is logged (R469). -/
def Quiet (s : State) (ps : List Place) : Prop := ∀ p ∈ ps, match p with
  | .sp g off => (s.wg g).inRingBlock off = false
  | .mem pa _ => s.route pa ≠ .nowhere
  | .gone => True
/-- The byte itself: global memory by its physical address, whichever mapping names it. -/
def bare : Place → Place
  | .mem pa _ => .mem pa
  | p => p
/-- R285, R392, R393, R470: the places are named by one mapping; the words at them were written through it, if at all, and no line of it
was filled from another page. -/
def Plain (s : State) (ps : List Place) : Prop := ∃ v, ∀ p ∈ ps, match p with
  | .mem pa via => via = v ∧ via ≠ 0 ∧ (∀ q ∈ mapGet s.hist (pa / 4) [], q.via = via) ∧ ∀ e ∈ s.lines, e.1 = via → e.2 = pa / 4096
  | _ => True
/-- The byte at a place, as the memories hold it. -/
def rawByte (s : State) : Place → Byte
  | .sp g off => memRead (s.wg g).sp off
  | .mem pa _ => memRead s.mem pa
  | .gone => 0
/-- A write to the place is performed (R402, R467, R478). -/
def lands (s : State) : Place → Bool
  | .sp .. => true
  | .mem pa _ => s.paLands pa
  | .gone => false
/-- The bytes of `cells` are written, each place named once, and no other byte of memory or of a scratchpad changes. -/
def Writes (s t : State) (cells : List (Place × Byte)) : Prop :=
  (∀ p, bare p ∉ cells.map (fun c => bare c.1) → rawByte t p = rawByte s p) ∧
  ∀ c ∈ cells, lands s c.1 = true → rawByte t c.1 = c.2
/-- R161: the word `i` of a loaded value of `n` bytes. -/
def loaded (bytes : List Byte) (signed : Bool) (i : Nat) : Word :=
  let n := bytes.length
  if n < 4 then
    let x : BitVec (8 * n) := BitVec.ofNat (8 * n) (ofBytes bytes)
    if signed then x.signExtend 32 else x.setWidth 32
  else BitVec.ofNat 32 (ofBytes ((bytes.drop (4 * i)).take 4))
/-- R161: destination registers of a loaded value. -/
def loadedRegs (n : Nat) : Nat := if n < 4 then 1 else n / 4
/-- The registers that a loaded or old value goes to, in one lane of a warp; nothing else of the warp changes but the marks of errors in
those registers (R460), and the deferred fault of the lanes in `who` when the data is poisoned (R163). -/
structure Returns (w u : Warp) (lane dst n : Nat) (val : Nat → Word) (who : Mask) (fault : Option TrapRec) : Prop where
  value : ∀ i < n, ∀ l < 32, u.vlane (dst + i) l = if l = lane then val i else w.vlane (dst + i) l
  regs : ∀ r, ¬ (dst ≤ r ∧ r < dst + n) → u.vreg r = w.vreg r
  warp : u = { w with
    vregs := u.vregs, lanes := u.lanes, bad := w.bad.filter fun b => !((List.range n).map (dst + ·)).contains b }
  lanes : ∀ l < 32, u.lane l = match fault with
    | some r => if who.getLsbD l && (w.lane l).status != .done then { w.lane l with trap := (w.lane l).trap <|> some r } else w.lane l
    | none => w.lane l
/-- R163: the record of poisoned data. -/
def poisonRec (x : Flight) : TrapRec :=
  { kind := 8, len2 := x.pfx != 0, after := true, async := true, widx := BitVec.ofNat 32 x.pc, word := x.word, pfx := x.pfx, addr := x.ea }

/-- R168, R169, R171: what an atomic kind makes of a location of `n` bits. -/
def rmw (op n : Nat) (old x y : BitVec n) : BitVec n :=
  match op with
  | 0 => old + x
  | 1 => old - x
  | 2 => if x.slt old then x else old
  | 3 => if x.ult old then x else old
  | 4 => if old.slt x then x else old
  | 5 => if old.ult x then x else old
  | 6 => old &&& x
  | 7 => old ||| x
  | 8 => old ^^^ x
  | 9 => x
  | 10 => if old = x then y else old
  | 11 => if old.ult x then old + 1 else 0
  | 12 => if old = 0 ∨ x.ult old then x else old - 1
  | 13 => BitVec.ofNat n (fixedAdd F32 old.toNat x.toNat)
  | _ => BitVec.ofNat n (fixedAdd BF16 (old.toNat % 65536) (x.toNat % 65536) + 65536 * fixedAdd BF16 (old.toNat / 65536) (x.toNat / 65536))

/-- R168 to R172: what a location of `n` bits holds before the `i`-th of some updates. -/
def before (op n : Nat) (old : BitVec n) (xy : Nat → DWord × DWord) : Nat → BitVec n
  | 0 => old
  | i + 1 => rmw op n (before op n old xy i) ((xy i).1.setWidth n) ((xy i).2.setWidth n)
/-- R294 to R297, R300: what an acquire, and a release at warp scope, do to the accesses on their way, and an acquire to what an L1 holds of
older values. -/
structure Points (s t : State) (x : Flight) (acq rel : Bool) : Prop where
  rest : t = { s with flights := t.flights, wgs := t.wgs }
  flights : t.flights = s.flights.map fun g =>
    let h := if rel = true ∧ x.scope = 1 ∧ g.covered x.warp x.set = true then { g with vouched := true } else g
    if acq = true ∧ x.scope ≠ 0 ∧ h.vouched = true ∧ g.warp = x.warp then { h with heirs := g.heirs ||| x.set } else h
  groups : ∀ g, t.wg g = if acq = true ∧ g = x.wg then
      { s.wg g with stale := (s.wg g).stale.filter fun e => s.outlives x.scope false e.1 } else s.wg g
/-- The flights without those of a name. -/
def without (f : Nat) (fs : List Flight) : List Flight := fs.filter fun g => g.id != f

end Sys2Proof.Claim

/-- R57, R161, R163, R165, R293: a load that may be performed returns: its lane's destinations, or its uniform register, receive the bytes
it sees, zeros with the data-poison fault when they are poisoned, and nothing when its values are dropped. The loads of its instruction that meet
it return in the same step, once nothing holds any of them back, and see the same bytes (R162); an acquire from the gang on drops what its L1 still
holds of older values. -/
def Sys2Proof.Claim.LoadReturns : Prop := ∀ (s : State) (f : Nat) (x : Flight) (ps : List Place) (k dst : Nat) (signed uniform : Bool),
  s.flight? f = some x → x.kind = .load ps k signed dst uniform → ps.length ∈ [1, 2, 4, 8, 16] →
  let same := s.flights.filter fun g => g.isLoad && g.group == x.group && g.warp == x.warp && overlaps g.places x.places
  ((∃ g ∈ same, s.canPerform g = false) → exec (.longLatencyCompletion f) s = .next s) ∧
  ((∀ g ∈ same, s.canPerform g = true) → ∃ t, exec (.longLatencyCompletion f) s = .next t ∧
    (∀ g ∈ same, ∀ h ∈ t.flights, h.id ≠ g.id) ∧
    (same = [x] → Claim.Quiet s ps → s.dev.cxl = [] → ∃ u, Claim.Points s u x x.acq false ∧
      let v := u.view x.wg ps
      let bytes := if v.2 then ps.map fun _ => 0 else v.1
      t = { u with flights := Claim.without f u.flights, warps := t.warps } ∧
      (∀ w, w ≠ x.warp → t.warp w = s.warp w) ∧
      (x.dropped = true → t.warps = s.warps) ∧
      (x.dropped = false → uniform = false → Claim.Returns (s.warp x.warp) (t.warp x.warp) x.lane dst (Claim.loadedRegs ps.length)
        (Claim.loaded bytes signed) x.who (if v.2 then some (Claim.poisonRec x) else none)) ∧
      (x.dropped = false → uniform = true → (t.warp x.warp).wreg dst = Claim.loaded bytes signed 0 ∧
        (∀ r, r ≠ dst → (t.warp x.warp).wreg r = (s.warp x.warp).wreg r) ∧ (t.warp x.warp).vregs = (s.warp x.warp).vregs)) ∧
    ((same.map Flight.lane).Nodup → s.dev.cxl = [] → s.memoryWf →
      (∀ g ∈ same, g.acq = x.acq ∧ g.scope = x.scope ∧ g.wg = x.wg ∧ g.dropped = false ∧ Claim.Quiet s g.places ∧
        ∃ qs, g.kind = .load qs k signed dst false ∧ qs.length ∈ [1, 2, 4, 8, 16]) →
      ∃ u, Claim.Points s u x x.acq false ∧ BytesKept s t ∧ ∀ g ∈ same, ∀ i < Claim.loadedRegs g.places.length, g.lane < 32 →
        (t.warp x.warp).vlane (dst + i) g.lane =
          Claim.loaded (if (u.view x.wg g.places).2 then g.places.map fun _ => 0 else (u.view x.wg g.places).1) signed i))

/-- R161, R286, R291, R293, R296, R299: a store whose next stage is its home, and that may be performed, writes one of its parts there, and no
other byte changes; a store of one part is then acknowledged and gone, or stands for what its release still covers; on a strong page the parts are
written from the lowest on. -/
def Sys2Proof.Claim.StorePerforms : Prop := ∀ (s : State) (f : Nat) (x : Flight) (parts : List (List (Place × Byte))),
  s.flight? f = some x → x.kind = .store parts [] → parts ≠ [] →
  (x.toCore = true ∨ s.canPerform x = false → exec (.storeAcknowledgement f) s = .next s) ∧
  (x.toCore = false → s.canPerform x = true → ∃ t, exec (.storeAcknowledgement f) s = .next t ∧
    ∃ k < parts.length, (x.page = .strong → k = 0) ∧ ∀ part, parts[k]? = some part →
      (parts.length = 1 → x.soft = 0 → ∀ g ∈ t.flights, g.id ≠ f) ∧
      (parts.length = 1 → (∀ g ∈ t.flights, g.id ≠ f) ∨
        t.flight? f = some { x with kind := .veil (part.map Prod.fst), coreAt := none, windows := [] }) ∧
      (parts.length ≠ 1 → t.flight? f = some { x with kind := .store (parts.eraseIdx k) [] }) ∧
      (Claim.Quiet s (part.map Prod.fst) → (part.map fun c => Claim.bare c.1).Nodup → s.memoryWf →
        t = { s with flights := t.flights, mem := t.mem, poison := t.poison, wgs := t.wgs, dev := t.dev, tick := t.tick, hist := t.hist } ∧
        Claim.Writes s t part))

/-- R168 to R172: an atomic that may be performed reads its location, writes what its kind makes of it, and returns the old value; a
poisoned location is not updated, and the registers receive zero with the data-poison fault. The atomics of the instruction that meet
it are performed in the same step, once nothing holds any of them back: in lane order, each on the value that the one before it left. One that is
alone may be performed ahead of what its release covers at gang or die scope (R296). -/
def Sys2Proof.Claim.AtomicPerforms : Prop := ∀ (s : State) (f : Nat) (x : Flight) (ps : List Place) (op n : Nat) (a b : DWord) (dst : Option Nat),
  s.flight? f = some x → x.kind = .atomic ps op n a b dst →
  let same := s.flights.filter fun g => g.group == x.group && g.warp == x.warp && overlaps g.places x.places
  ((∃ g ∈ same, s.canPerform g = false) → (same.length = 1 → s.aheadScope x = 0) → exec (.homeAtomic f) s = .next s) ∧
  ((∀ g ∈ same, s.canPerform g = true) → ∃ t, exec (.homeAtomic f) s = .next t ∧
    ((∀ g ∈ same, g.soft = 0 ∧ g.id < s.nextId ∧ ∃ qs o m c d r, g.kind = .atomic qs o m c d r) → ∀ g ∈ same, ∀ h ∈ t.flights, h.id ≠ g.id) ∧
    (same = [x] → x.soft = 0 → Claim.Quiet s ps → (ps.map Claim.bare).Nodup → s.memoryWf → s.dev.cxl = [] → (n = 32 ∨ n = 64) →
      ps.length = n / 8 →
      let bad := ps.any s.placePoisoned
      let old : BitVec n := BitVec.ofNat n (ofBytes (ps.map s.placeByte))
      let new := Claim.rmw op n old (a.setWidth n) (b.setWidth n)
      (∀ w, w ≠ x.warp → t.warp w = s.warp w) ∧
      (∃ u, Claim.Points s u x x.acq x.rel ∧ t.flights = Claim.without f u.flights) ∧
      t = { s with
        warps := t.warps, flights := t.flights, mem := t.mem, poison := t.poison, wgs := t.wgs, dev := t.dev
        tick := t.tick, hist := t.hist } ∧
      (bad = true → ∀ p, Claim.rawByte t p = Claim.rawByte s p) ∧
      (bad = false → Claim.Writes s t (ps.zip (toBytes (n / 8) new.toNat))) ∧
      (dst = none ∨ x.dropped = true → t.warps = s.warps) ∧
      (∀ d, dst = some d → x.dropped = false → Claim.Returns (s.warp x.warp) (t.warp x.warp) x.lane d (n / 32)
        (fun i => if bad then 0 else (old >>> (32 * i)).setWidth 32) x.who (if bad then some (Claim.poisonRec x) else none))) ∧
    (∀ (d : Nat) (xy : Nat → DWord × DWord), (same.map Flight.lane).Nodup → (same.map Flight.id).Nodup →
      Claim.Quiet s ps → Claim.Plain s ps → (ps.map Claim.bare).Nodup → (∀ p ∈ ps, Claim.lands s p = true ∧ s.placePoisoned p = false) →
      s.memoryWf → s.dev.cxl = [] → (n = 32 ∨ n = 64) → ps.length = n / 8 →
      (∀ i < same.length, ∀ g, same[i]? = some g →
        g.kind = .atomic ps op n (xy i).1 (xy i).2 (some d) ∧ g.dropped = false ∧ g.soft = 0 ∧ g.lane < 32) →
      let old : BitVec n := BitVec.ofNat n (ofBytes (ps.map s.placeByte))
      Claim.Writes s t (ps.zip (toBytes (n / 8) (Claim.before op n old xy same.length).toNat)) ∧
      ∀ i < same.length, ∀ g, same[i]? = some g → ∀ j < n / 32,
        (t.warp x.warp).vlane (d + j) g.lane = ((Claim.before op n old xy i) >>> (32 * j)).setWidth 32))

/-- R289, R458, R466, R469: an instruction that reads places as it issues: an acquire at system scope where one of their pages is strong. What
arrives marked lies in one sector of global memory, and nothing does where nothing of the kind is due to the warp. -/
def Sys2Proof.Claim.IssueReads : Prop := ∀ (s : State) (strong : Bool) (ps : List Place),
  let hurt := s.struck ps
  let u := s.readDone strong ps hurt
  ((∀ a ∈ s.armed, a.warp = s.issue.warp → a.fetch = true ∨ a.hit ≠ none) → hurt = []) ∧
  (∃ g, ∀ p ∈ hurt, p ∈ ps ∧ ∃ pa via, p = .mem pa via ∧ pa / 32 = g) ∧
  (∀ qs, (∀ p ∈ qs, p ∉ hurt) → s.readHit hurt qs = s.readNow qs) ∧
  (∀ qs, (∃ p ∈ qs, p ∈ hurt) → (s.readHit hurt qs).2 = true) ∧
  (Claim.Quiet s ps → s.dev.cxl = [] → u = { s with wgs := u.wgs, armed := u.armed } ∧ (hurt = [] → u.armed = s.armed) ∧
    ∀ g, u.wg g = if strong = true ∧ g = s.cur.wg then
      { s.wg g with stale := (s.wg g).stale.filter fun e => s.outlives 6 false e.1 } else s.wg g)


namespace Sys2Proof.Claim

/-! ## Accumulators -/

/-- R176, R177: the tile or the slot that a lane's row lies in, its bound, and its number in the region; `n` tiles to a quarter, the `i`-th. -/
def tileNo (s : State) (acc n i : Nat) (tf : Bool) (l : Nat) : Nat :=
  if tf then (s.cur.wreg acc).toNat + l / 8 else (acc + n * (l / 8) + i) % 32
def tileBound (s : State) (tf : Bool) : Nat := if tf then (s.wg s.cur.wg).tiles else (s.wg s.cur.wg).slots
def rowTile (s : State) (acc n i : Nat) (tf : Bool) (l : Nat) : Nat :=
  if tf then tileNo s acc n i tf l else s.cur.index * (s.wg s.cur.wg).slots + tileNo s acc n i tf l
/-- Every tile of the lanes of E is in range (R177). -/
def inRange (s : State) (acc n : Nat) (tf : Bool) : Prop := ∀ l < 32, s.inE l = true → ∀ i < n, tileNo s acc n i tf l < tileBound s tf
/-- R204: a tile operation in flight holds one of the tiles. -/
def tileBusy (s : State) (acc n : Nat) (tf : Bool) : Prop :=
  ∃ l < 32, s.inE l = true ∧ ∃ i < n, ∃ e ∈ (s.wg s.cur.wg).tags, e.2.inFlight = true ∧ rowTile s acc n i tf l ∈ e.2.tiles
/-- An element of the region of the issuing workgroup. -/
def elem (s : State) (tile i j : Nat) : Ace := (s.wg s.cur.wg).ace tile i j
/-- R178: lane `l`'s rows are those with this number in its tiles. -/
def rowOf (l : Nat) : Nat := l % 8

/-- A class 0x8 instruction that changes elements of its tiles: only rows of the lanes of E, only the region of its own workgroup, and of
its warp only the lanes and the flags. -/
structure RegionResult (s t : State) (acc n : Nat) (tf : Bool) (fl : Nat → Flags) (val : Nat → Nat → Nat → Ace → Prop) : Prop where
  kept : BytesKept s t
  rest : t = { s with warps := t.warps, wgs := t.wgs, tick := t.tick }
  others : ∀ v, v ≠ s.issue.warp → t.warp v = s.warp v
  groups : ∀ g, g ≠ s.cur.wg → t.wg g = s.wg g
  group : t.wg s.cur.wg = { s.wg s.cur.wg with region := (t.wg s.cur.wg).region }
  lanes : LanesPass s t s.gens fl
  warp : t.cur = { s.cur with lanes := t.cur.lanes, mode := modeRaise s.cur.mode (s.raisedFlags fl) }
  rows : ∀ l < 32, s.inE l = true → ∀ i < n, ∀ j < 8, val l i j (elem t (rowTile s acc n i tf l) (rowOf l) j)
  apart : ∀ tile i j, i < 8 → j < 8 →
    (∀ l < 32, s.inE l = true → ∀ k < n, ¬ (rowTile s acc n k tf l = tile ∧ rowOf l = i)) → elem t tile i j = elem s tile i j
/-- R49, R177, R204: what comes before the effect of an instruction on tiles. -/
def OnTiles (s t : State) (acc n : Nat) (tf : Bool) (effect : Prop) : Prop :=
  (s.eff = 0 → OnlyWarp s t ∧ LanesPass s t s.gens noFlags ∧ t.cur = { s.cur with lanes := t.cur.lanes }) ∧
  (s.eff ≠ 0 → ¬ inRange s acc n tf → ∃ l < 32, ∃ i < n, s.inE l = true ∧ tileBound s tf ≤ tileNo s acc n i tf l ∧
    TrapResult s t fun k => if s.inE k then some { s.record 9 with arg1 := BitVec.ofNat 32 (tileNo s acc n i tf l) } else none) ∧
  (s.eff ≠ 0 → inRange s acc n tf → tileBusy s acc n tf → t = s) ∧
  (s.eff ≠ 0 → inRange s acc n tf → ¬ tileBusy s acc n tf → effect)

/-- R190, R191: maintenance of rows: the tiles and what becomes of an element. -/
inductive RowOp (s : State) : Instr → Nat → Bool → (Ace → Ace) → Prop
  | aclr (c l sh g) : RowOp s (.aclr c l sh g) g.toNat (sh == 1) (fun _ => Ace.cleared)
  | aanc (c l sh g x) : RowOp s (.aanc c l sh g x) g.toNat (sh == 1) (fun _ => { Ace.cleared with
      an := true
      anc := match s.prefix? with
        | some p => BitVec.ofNat 12 (2048 * (p.x % 2) + x.toNat)
        | none => x.signExtend 12 })
  | acanon (c l sh g) : RowOp s (.acanon c l sh g) g.toNat (sh == 1) (fun e => { e with s := e.s + e.c, c := 0 })

/-- R93, R192: the elements of a lane's row, resolved one after the other in a format, and what the lane's flags and generator come to. -/
def resolved (s : State) (tile l code : Nat) : List Nat × LaneNum :=
  (List.range 8).foldl (fun r j =>
    let x := (elem s tile (rowOf l) j).resolve s.env code r.2
    (r.1 ++ [x.1], x.2)) ([], s.laneNum l)
/-- Word `i` of elements of `w` bits placed side by side, the first lowest. -/
def packedWord (w : Nat) (xs : List Nat) (i : Nat) : Word :=
  BitVec.ofNat 32 ((xs.zipIdx.foldl (fun a e => a + e.1 % 2 ^ w * 2 ^ (w * e.2)) 0) / 2 ^ (32 * i))

/-- R181, R183: an element after the products of one instruction: the pair S, C is any that has the sum (R273). -/
def Accumulated (old : Ace) (fresh integer : Bool) (ps : List Product) (bad : Bool) (new : Ace) : Prop :=
  let a := ((if fresh then old.start else old).add integer ps).1
  ∃ S : BitVec 80, new = { a with s := S, c := a.s + a.c - S, pois := a.pois || bad }
/-- R182: the operands of a quarter operation: shape, first registers, scales, sign and whether it starts from the start state. -/
structure Quarter where
  shape : Shape
  acc : Nat
  a : Nat
  b : Nat
  scales : Scales
  neg : Bool
  fresh : Bool
/-- The products of row block `r` of lane `l` with column `c` (R183), whether one raises IV, and whether a scale is poisoned. -/
def Quarter.dot (s : State) (q : Quarter) (l r c : Nat) : (List Product × Bool) × Bool :=
  let fmt := s.cur.mfmt.toNat
  let row := s.side q.shape (l / 8) q.a (fmt % 16) false q.scales (8 * r + l % 8)
  let col := s.side q.shape (l / 8) q.b (fmt / 16 % 16) true q.scales c
  (dotProducts q.neg row.1 col.1, row.2 || col.2)
/-- The element of lane `l` in row block `r` and column `c`, before the instruction. -/
def Quarter.old (s : State) (q : Quarter) (l r c : Nat) : Ace :=
  let e := elem s (rowTile s q.acc q.shape.slots (r * (q.shape.cols / 8) + c / 8) false l) (rowOf l) (c % 8)
  if q.fresh then e.start else e
/-- R91, R183: the flags of a lane. -/
def Quarter.flags (s : State) (q : Quarter) (l : Nat) : Flags :=
  if (List.range (q.shape.rows / 8)).any fun r => (List.range q.shape.cols).any fun c =>
      (q.dot s l r c).1.2 || ((q.old s l r c).add (s.cur.mfmt.toNat % 16 == 5) (q.dot s l r c).1.1).2
  then flIV else 0
/-- The result of a quarter operation. -/
def Quarter.result (s t : State) (q : Quarter) : Prop :=
  RegionResult s t q.acc q.shape.slots false (q.flags s) fun l i j e =>
    let w := q.shape.cols / 8
    let d := q.dot s l (i / w) (8 * (i % w) + j)
    Accumulated (elem s (rowTile s q.acc q.shape.slots i false l) (rowOf l) j) q.fresh (s.cur.mfmt.toNat % 16 == 5) d.1.1 d.2 e
/-- R180: the codes of `MFMT` make a legal pair. -/
abbrev mfmtOk (s : State) : Prop := mfmtLegal s.cur.mfmt.toNat = true
/-- Bit 8 of `MFMT` asks for scales (R179). -/
def scaled (s : State) : Bool := s.cur.mfmt.getLsbD 8
/-- R181 to R184: the quarter operations without MMAS. -/
inductive QuarterOp (s : State) : Instr → Bool → Quarter → Prop
  | mma (c l sh g x y) : QuarterOp s (.mma c l sh g x y) true
      ⟨shapeOf sh.toNat, g.toNat, 4 * x.toNat, 2 * y.toNat, if scaled s then .entry (s.px % 1024) else .none, false, false⟩
  | mman (c l sh g x y) : QuarterOp s (.mman c l sh g x y) true
      ⟨shapeOf sh.toNat, g.toNat, 4 * x.toNat, 2 * y.toNat, if scaled s then .entry (s.px % 1024) else .none, true, false⟩
  | mmaz (c l sh g x y) : QuarterOp s (.mmaz c l sh g x y) false
      ⟨shapeOf sh.toNat, g.toNat, 4 * x.toNat, 2 * y.toNat, if scaled s then .entry (s.px % 1024) else .none, false, true⟩

/-! ## Rows in memory -/

/-- How an instruction drains a lane's row: the bytes of a row, its kind of access, and what a lane's accesses of some elements do at the
row's address, with the lane's flags and generator. -/
structure DrainOp where
  acc : Nat
  tf : Bool
  size : Nat
  k : Acc
  merge : Bool
  la : Nat
  num : Nat → LaneNum
  kinds : Nat → Nat → List Place → List Nat → List FlightKind
def DrainOp.check (s : State) (d : DrainOp) (x l : Nat) : Option Check :=
  if s.inE l && !(s.cur.lane l).helper then some (s.rowCheck x l d.size d.k d.merge) else none
def DrainOp.flights (s : State) (d : DrainOp) (x l : Nat) : List Flight := match d.check s x l with
  | some (.ok ps _ ea) => (s.rowKinds (bitAt x 4) ea.toNat d.size).flatMap fun g => (d.kinds l ea.toNat ps g.2).map fun k =>
      { (s.flight l d.la s.nextId k).ordered g.1 0 5 (d.k == .a) true ea with counted := true, whole := k.whole }
  | _ => []
/-- The number that a lane ends with: its own where it makes no access. -/
def DrainOp.ends (s : State) (d : DrainOp) (x l : Nat) : LaneNum := match d.check s x l with
  | some (.ok ..) => d.num l
  | _ => s.laneNum l
/-- R195, R196, R199: the accesses of the rows are on their way, in lane order, and no byte of memory changes. -/
structure Drained (s t : State) (d : DrainOp) (x : Nat) : Prop where
  kept : BytesKept s t
  rest : t = { s with warps := t.warps, flights := t.flights, nextId := t.nextId, launches := t.launches }
  others : ∀ v, v ≠ s.issue.warp → t.warp v = s.warp v
  warp : t.cur = { s.cur with
    lanes := t.cur.lanes, mode := modeRaise s.cur.mode (s.raisedFlags fun l => (d.ends s x l).fl) }
  flights : t.flights = s.flights ++
    ((List.range 32).flatMap (d.flights s x)).zipIdx.map fun e => { e.1 with id := s.nextId + 1 + e.2 }
  lanes : ∀ l < 32, t.cur.lane l =
    if s.inSet l then
      match d.check s x l with
      | some (.bad r) => { s.cur.lane l with trap := (s.cur.lane l).trap <|> some r }
      | _ => { s.cur.lane l with
          pc := s.issue.pc + s.len, gen := if s.inE l then (d.ends s x l).gen else (s.cur.lane l).gen
          trap := if s.inE l = true ∧ (d.ends s x l).fl &&& s.cur.ten ≠ 0 then (s.cur.lane l).trap <|> some (s.arithRec (d.ends s x l).fl)
            else (s.cur.lane l).trap }
    else s.cur.lane l
/-- The elements of a lane's row. -/
def rowElems (s : State) (acc : Nat) (tf : Bool) (l : Nat) : List Ace := (List.range 8).map fun j => elem s (rowTile s acc 1 0 tf l) (rowOf l) j
/-- R198, R277: each element resolved, in order, a poisoned one left out; with the lane's flags and generator. -/
def resolvedEach (s : State) (acc : Nat) (tf : Bool) (code l : Nat) : List (Option Nat) × LaneNum :=
  (rowElems s acc tf l).foldl (fun r e =>
    if e.pois then (r.1 ++ [none], r.2) else ((r.1 ++ [some (e.resolve s.env code r.2).1], (e.resolve s.env code r.2).2))) ([], s.laneNum l)
def slice {α : Type} (xs : List α) (size i : Nat) : List α := (xs.drop (size * i)).take size
/-- R196 to R199: the drains. -/
inductive Drain (s : State) : Instr → DrainOp → Nat → Prop
  | raw (c l sh g x) : Drain s (.adrainRaw c l sh g x)
      ⟨g.toNat, sh == 1, 192, .w, false, l.toNat, s.laneNum, fun i ea ps js =>
        [.store (rawParts ea js (ps.zip ((rowElems s g.toNat (sh == 1) i).flatMap Ace.bytes))) []]⟩ x.toNat
  | add (c l sh g x) : Drain s (.adrainAdd c l sh g x)
      ⟨g.toNat, sh == 1, 192, .a, true, l.toNat, s.laneNum, fun i _ ps js =>
        ((rowElems s g.toNat (sh == 1) i).zipIdx.filter fun e => js.contains e.2).map fun e => .rawMerge (slice ps 24 e.2) e.1⟩ x.toNat
  | value (c l sh g x f) : Drain s (.adrainValue c l sh g x f)
      ⟨g.toNat, sh == 1, resolveBits f.toNat, .w, false, l.toNat, fun i => (resolvedEach s g.toNat (sh == 1) f.toNat i).2, fun i _ ps js =>
        let w := resolveBits f.toNat
        let r := (resolvedEach s g.toNat (sh == 1) f.toNat i).1
        let bad := r.zipIdx.flatMap fun v => if v.1.isNone then (ps.drop (v.2 * w / 8)).take (max 1 (w / 8)) else []
        [.store (valueParts w js (ps.zip (toBytes w (packBits w (r.map fun v => v.getD 0))))) bad]⟩ x.toNat
  | valueAdd (c l sh g x f) : Drain s (.adrainValueAdd c l sh g x f)
      ⟨g.toNat, sh == 1, resolveBits f.toNat, .a, false, l.toNat, fun i => (resolvedEach s g.toNat (sh == 1) f.toNat i).2, fun i _ ps js =>
        ((resolvedEach s g.toNat (sh == 1) f.toNat i).1.zipIdx.filter fun v => js.contains v.2).map fun v =>
          .valueAdd (slice ps (resolveBits f.toNat / 8) v.2) f.toNat (BitVec.ofNat 32 (v.1.getD 0)) v.1.isNone⟩ x.toNat
/-- R200: what an element becomes when its bytes are loaded as values, and whether IV is raised. -/
def valueIn (code : Nat) (old : Ace) (bs : List Byte) : Ace × Bool :=
  let v : FVal := match code with
    | 0 => decodeRaw F32 (ofBytes bs)
    | 1 => decodeRaw F16 (ofBytes bs)
    | 2 => decodeRaw BF16 (ofBytes bs)
    | _ => .fin (decide ((BitVec.ofNat 32 (ofBytes bs)).toInt < 0)) (BitVec.ofNat 32 (ofBytes bs)).toInt.natAbs 0
  let p := product false v (.fin false 1 0) (.fin false 1 0) (.fin false 1 0)
  let a := old.start.add (code == 5) p.1.toList
  (a.1, a.2 || p.2)
/-- R195, R200: the loads of rows: tiles, bytes of a row, and what an element becomes. -/
inductive RowLoad (s : State) : Instr → Nat → Bool → Nat → Nat → (Ace → List Byte → Ace × Bool) → Prop
  | raw (c l sh g x) : RowLoad s (.aloadRaw c l sh g x) g.toNat (sh == 1) x.toNat 192 (fun _ bs => (Ace.ofBytes bs, false))
  | value (c l sh g x f) : RowLoad s (.aloadValue c l sh g x f) g.toNat (sh == 1) x.toNat (resolveBits f.toNat) (valueIn f.toNat)

/-- R160, R195: what the row of a lane of E answers. -/
def rowChk (s : State) (x size l : Nat) : Option Check := if s.inE l then some (s.rowCheck x l size .r false) else none
def rowPlaces (c : Option Check) : List Place := match c with
  | some (.ok ps _ _) => ps
  | _ => []
def rowOk (c : Option Check) : Bool := match c with
  | some (.ok ..) => true
  | _ => false
/-- The kinds of the pages of a row, each with the elements there. -/
def rowPages (s : State) (x size : Nat) (c : Option Check) : List (OrdKind × List Nat) := match c with
  | some (.ok _ _ ea) => s.rowKinds (bitAt x 4) ea.toNat size
  | _ => []
/-- R160, R195, R200: the rows of the lanes that do not fault are loaded, and no other element changes; the other lanes take their faults. `u` is
the state as the reading leaves it. -/
structure RowsLoaded (s u t : State) (acc : Nat) (tf : Bool) (chk : Nat → Option Check) (new : Nat → Nat → Ace × Bool) : Prop where
  kept : BytesKept u t
  rest : t = { u with warps := t.warps, wgs := t.wgs, launches := t.launches }
  others : ∀ v, v ≠ s.issue.warp → t.warp v = s.warp v
  groups : ∀ g, g ≠ s.cur.wg → t.wg g = u.wg g
  group : t.wg s.cur.wg = { u.wg s.cur.wg with region := (t.wg s.cur.wg).region }
  warp : t.cur = { s.cur with
    lanes := t.cur.lanes
    mode := modeRaise s.cur.mode (s.raisedFlags fun l => if rowOk (chk l) && (List.range 8).any fun j => (new l j).2 then flIV else 0) }
  lanes : ∀ l < 32, t.cur.lane l =
    if s.inSet l then
      match chk l with
      | some (.bad r) => { s.cur.lane l with trap := (s.cur.lane l).trap <|> some r }
      | c => { s.cur.lane l with
          pc := s.issue.pc + s.len
          trap := if rowOk c = true ∧ ((List.range 8).any fun j => (new l j).2) = true ∧ flIV &&& s.cur.ten ≠ 0 then
            (s.cur.lane l).trap <|> some (s.arithRec flIV) else (s.cur.lane l).trap }
    else s.cur.lane l
  rows : ∀ l < 32, rowOk (chk l) = true → ∀ j < 8, elem t (rowTile s acc 1 0 tf l) (rowOf l) j = (new l j).1
  apart : ∀ tile i j, i < 8 → j < 8 →
    (∀ l < 32, rowOk (chk l) = true → ¬ (rowTile s acc 1 0 tf l = tile ∧ rowOf l = i)) → elem t tile i j = elem s tile i j
  launches : t.launches =
    if (List.range 32).any fun l => match chk l with
        | some (.bad r) => r.kind == 7
        | _ => false then (s.markCause s.cur.launch 4).launches else s.launches

end Sys2Proof.Claim

/-- R189 to R191: ACLR, AANC, ACANON and AMOV change the rows of the lanes of E and no other element. -/
def Sys2Proof.Claim.AccumulatorRows : Prop := ∀ s : State,
  (∀ i acc tf f, Claim.RowOp s i acc tf f → ∃ t, exec i s = .next t ∧ Claim.OnTiles s t acc 1 tf
    (Claim.RegionResult s t acc 1 tf noFlags fun l k j e => e = f (Claim.elem s (Claim.rowTile s acc 1 k tf l) (Claim.rowOf l) j))) ∧
  ∀ (c : BitVec 1) (la : BitVec 4) (sh : BitVec 2) (g x : BitVec 5), ∃ t, exec (.amov c la sh g x) s = .next t ∧
    Claim.OnTiles s t x.toNat 1 (sh.getLsbD 0) (Claim.OnTiles s t g.toNat 1 (sh.getLsbD 1)
      (Claim.RegionResult s t g.toNat 1 (sh.getLsbD 1) noFlags fun l _ j e =>
        e = Claim.elem s (Claim.rowTile s x.toNat 1 0 (sh.getLsbD 0) l) (Claim.rowOf l) j))

/-- R179, R384: MFMT writes the format register, and nothing where E is empty or holds helper lanes alone. -/
def Sys2Proof.Claim.FormatWrite : Prop := ∀ (s : State) (c : BitVec 1) (l : BitVec 4) (i : BitVec 10), ∃ t, exec (.mfmt c l i) s = .next t ∧
  OnlyWarp s t ∧ LanesPass s t s.gens noFlags ∧
  t.cur = { s.cur with lanes := t.cur.lanes, mfmt := if s.acts then i.setWidth 32 else s.cur.mfmt }

/-- R192 to R194, R277: ARES resolves and ACMP compares the rows of the lanes of E; a poisoned element gives zeros and the data-poison
fault, in its own lane. -/
def Sys2Proof.Claim.ResolveAndCompare : Prop := ∀ (s : State) (c : BitVec 1) (la : BitVec 4) (sh : BitVec 1) (g x : BitVec 5) (f : BitVec 4)
    (y : BitVec 6) (k : BitVec 2),
  let tile := Claim.rowTile s g.toNat 1 0 (sh == 1)
  let bad (l : Nat) : Bool := (Claim.rowElems s g.toNat (sh == 1) l).any (·.pois)
  let w := resolveBits f.toNat
  let ds := List.range' (2 * y.toNat) ((w + 3) / 4)
  let fl (l : Nat) : Flags := if bad l then 0 else (Claim.resolved s (tile l) l f.toNat).2.fl
  (s.fits ds → ∃ t, exec (.ares c la sh g f y) s = .next t ∧ Claim.OnTiles s t g.toNat 1 (sh == 1)
    (OnlyWarp s t ∧ (∀ r, r ∉ ds → t.cur.vreg r = s.cur.vreg r) ∧
      (∀ r ∈ ds, ∀ l < 32, t.cur.vlane r l =
        if s.inE l then (if bad l then 0 else Claim.packedWord w (Claim.resolved s (tile l) l f.toNat).1 (r - 2 * y.toNat))
        else if s.eff ≠ 0 ∧ s.pz = true ∧ s.inSet l = true then 0
        else s.cur.vlane r l) ∧
      t.cur = { s.cur with vregs := t.cur.vregs, lanes := t.cur.lanes, mode := modeRaise s.cur.mode (s.raisedFlags fl) } ∧
      ∀ l < 32, t.cur.lane l =
        if s.inSet l then
          if s.inE l = true ∧ bad l = true then { s.cur.lane l with
            pc := s.issue.pc + s.len, trap := (s.cur.lane l).trap <|> some { s.record 8 with async := true, after := true } }
          else { s.cur.lane l with
            pc := s.issue.pc + s.len
            gen := if s.inE l then (Claim.resolved s (tile l) l f.toNat).2.gen else (s.cur.lane l).gen
            trap := if s.inE l = true ∧ fl l &&& s.cur.ten ≠ 0 then (s.cur.lane l).trap <|> some (s.arithRec (fl l))
              else (s.cur.lane l).trap }
        else s.cur.lane l)) ∧
  (s.fits [2 * y.toNat] → ∃ t, exec (.acmp c la k sh g x y) s = .next t ∧ Claim.OnTiles s t g.toNat 1 (sh == 1)
    (VecResult s t [2 * y.toNat] (fun _ l => Machine.maskOf fun j => decide (j < 8) &&
      (Claim.elem s (tile l) (Claim.rowOf l) j).compare k.toNat (decodeRaw F32 (s.cur.vlane (4 * x.toNat) l).toNat))
      noFlags s.gens s.cur.wc))

/-- R180 to R186: the quarter operations. An `MFMT` that is no legal pair, a prefix that has no meaning without scales, or MMAS without a
prefix, is an illegal instruction; scale entries beyond the window are an address fault. The sum word that is left
is a free value (log entry 8); the order of the tests is the model's choice (log entry 41). -/
def Obligations.QuarterOperations : Prop := ∀ s : State,
  (∀ i out q, Claim.QuarterOp s i out q → ∃ t, exec i s = .next t ∧
    let b := if out then s.markOut else s
    (¬ Claim.mfmtOk s ∨ (Claim.scaled s = false ∧ s.px ≠ 0) → TrapResult b t fun _ => some (s.record 2)) ∧
    (Claim.mfmtOk s → (Claim.scaled s = true ∨ s.px = 0) → Claim.OnTiles b t q.acc q.shape.slots false
      (if Claim.scaled s = true ∧ (s.wg s.cur.wg).scaleEntries < s.px % 1024 + (if q.shape.rows = 8 ∧ q.shape.cols = 8 ∧ q.shape.halves = 1 then 1 else 2)
       then TrapResult b t fun l => if s.inE l then some { s.record 6 with cause := 2 } else none
       else q.result b t))) ∧
  ∀ (c : BitVec 1) (la : BitVec 4) (g x : BitVec 5) (y : BitVec 6), ∃ t, exec (.mmas c la g x y) s = .next t ∧
    match s.prefix? with
    | none => TrapResult s.markOut t fun _ => some (s.record 2)
    | some p =>
      if Claim.mfmtOk s ∧ s.cur.mfmt.toNat % 16 ≤ 4 then
        let q : Claim.Quarter := ⟨shapeOf 0, g.toNat, 4 * x.toNat, 2 * y.toNat, .reg p.q (p.x % 4) (p.x / 4 % 4), false, false⟩
        Claim.OnTiles s.markOut t g.toNat 1 false (q.result s.markOut t)
      else TrapResult s.markOut t fun _ => some (s.record 2)

/-- R195 to R199, R277: the drains issue the accesses of the rows of E's lanes that are no helpers; a row that faults makes none. -/
def Sys2Proof.Claim.DrainsIssue : Prop := ∀ (s : State) (i : Instr) (d : Claim.DrainOp) (x : Nat), Claim.Drain s.markOut i d x →
  ∃ t, exec i s = .next t ∧ Claim.OnTiles s.markOut t d.acc 1 d.tf (Claim.Drained s.markOut t d x)

/-- R160, R162, R195, R200, R277, R289, R297, R458: the loads of rows: each element of a lane whose row does not fault becomes what its bytes
give, or a poisoned element, and a lane whose row faults takes its fault; while an earlier access of the warp comes before one of a lane's reads,
nothing moves. -/
def Sys2Proof.Claim.RowLoads : Prop := ∀ (s : State) (i : Instr) (acc x size : Nat) (tf : Bool) (f : Ace → List Byte → Ace × Bool),
  Claim.RowLoad s i acc tf x size f →
  let chk := Claim.rowChk s x size
  let bytes (l j : Nat) : List Place := Claim.slice (Claim.rowPlaces (chk l)) (size / 8) j
  let places := (List.range 32).flatMap fun l => Claim.rowPlaces (chk l)
  let strong := (List.range 32).any fun l => (Claim.rowPages s x size (chk l)).any fun g => g.1 == .strong
  let waits := (List.range 32).any fun l => (Claim.rowPages s x size (chk l)).any fun g =>
    s.readWaits (maskOf (· == l)) g.1 (g.2.flatMap (bytes l))
  ∃ t, exec i s = .next t ∧ Claim.OnTiles s t acc 1 tf ((waits = true → t = s) ∧ (waits = false →
    let hurt := s.struck places
    let got (l j : Nat) := s.readHit hurt (bytes l j)
    let new (l j : Nat) : Ace × Bool := if (got l j).2 then ({ Ace.cleared with pois := true }, false)
      else f (Claim.elem s (Claim.rowTile s acc 1 0 tf l) (Claim.rowOf l) j) (got l j).1
    Claim.RowsLoaded s (s.readDone strong places hurt) t acc tf chk new))

/-- R197, R198, R277: the homes of raw merges and value add-on-stores. A raw merge marks nothing, and its POIS is that of either side; a poisoned
value leaves its mark on what it would have updated. -/
def Obligations.DrainHomes : Prop := ∀ (s : State) (f : Nat) (x : Flight) (ps : List Place),
  s.flight? f = some x → Claim.Quiet s ps → (ps.map Claim.bare).Nodup → s.memoryWf → s.dev.cxl = [] →
  let moves (t : State) : Prop :=
    (∃ u, Claim.Points s u x x.acq false ∧ t.flights = Claim.without f u.flights) ∧
    t = { s with
      flights := t.flights, mem := t.mem, poison := t.poison, wgs := t.wgs, dev := t.dev, tick := t.tick, hist := t.hist }
  (∀ e, x.kind = .rawMerge ps e → ps.length = 24 → ∃ t, exec (.homeRawMerge f) s = .next t ∧
    (s.canPerform x = false → t = s) ∧
    (s.canPerform x = true → moves t ∧
      let d := if ps.any s.placePoisoned then { Ace.cleared with pois := true } else Ace.ofBytes (ps.map s.placeByte)
      (d.merge e).pois = (d.pois || e.pois) ∧ Claim.Writes s t (ps.zip (d.merge e).bytes) ∧
      ∀ p, t.placePoisoned p = true → s.placePoisoned p = true)) ∧
  ∀ code v pois, x.kind = .valueAdd ps code v pois → ∃ t, exec (.homeValueAdd f) s = .next t ∧
    (s.canPerform x = false → t = s) ∧
    (s.canPerform x = true → moves t ∧
      (pois = true → Claim.Writes s t (ps.map fun p => (p, 0)) ∧ ∀ p ∈ ps, Claim.lands s p = true → t.placePoisoned p = true) ∧
      (pois = false → ps.any s.placePoisoned = true →
        ∀ p, Claim.rawByte t p = Claim.rawByte s p ∧ t.placePoisoned p = s.placePoisoned p) ∧
      (pois = false → ps.any s.placePoisoned = false →
        let old := ofBytes (ps.map s.placeByte)
        let new := if code = 0 then fixedAdd F32 old v.toNat else if code = 1 then fixedAdd F16 old v.toNat
          else if code = 2 then fixedAdd BF16 old v.toNat else old + v.toNat
        Claim.Writes s t (ps.zip (toBytes ps.length new))))

namespace Sys2Proof.Claim

/-! ## Passing and holding -/

/-- The issue set goes on at the next word, and nothing else happens. -/
def Passes (s t : State) : Prop := OnlyWarp s t ∧ LanesPass s t s.gens noFlags ∧ t.cur = { s.cur with lanes := t.cur.lanes }
/-- R43: what lanes wait with whose instruction is tried again: with the uniform registers `rs`, and the mask of its prefix, as it read them
when it issued, and what else it keeps. -/
def waitOn (s : State) (rs : List Nat) (more : AMap Word := []) : Wait :=
  .retry s.nextId s.issue.word s.issue.pfx ((rs.map fun r => (r, s.wsrc r)) ++ s.maskKept ++ more)
/-- R43: the lanes of the issue set hold on the instruction, and nothing else happens. -/
structure Holds (s t : State) (wt : Wait) : Prop where
  rest : t = { s with warps := t.warps, nextId := s.nextId + 1 }
  others : ∀ v, v ≠ s.issue.warp → t.warp v = s.warp v
  warp : t.cur = { s.cur with lanes := t.cur.lanes }
  lanes : ∀ l < 32, t.cur.lane l = if s.inSet l then { s.cur.lane l with status := .hold, wait := wt, unpended := false }
    else s.cur.lane l
/-- R385, R411: each lane of E takes a trap with this record. -/
def AllOfE (s t : State) (r : TrapRec) : Prop := TrapResult s t fun l => if s.inE l then some r else none
/-- R160, R403: as `AllOfE`, with the launch marked for a lease fault. -/
structure AccessFault (s t : State) (r : TrapRec) : Prop where
  kept : BytesKept s t
  rest : t = { s with warps := t.warps, launches := t.launches }
  others : ∀ v, v ≠ s.issue.warp → t.warp v = s.warp v
  warp : t.cur = { s.cur with lanes := t.cur.lanes }
  lanes : ∀ l < 32, t.cur.lane l =
    if s.inE l then { s.cur.lane l with trap := (s.cur.lane l).trap <|> some r }
    else if s.inSet l then { s.cur.lane l with pc := s.issue.pc + s.len }
    else s.cur.lane l
  launches : t.launches = if r.kind = 7 then (s.markCause s.cur.launch 4).launches else s.launches
/-- R294, R295: the release at device scope of an instruction that makes no access. -/
def releasePoint (s : State) : State := { s with
  flights := s.flights ++ [{ s.flight 0 0 s.nextId (.fence false true false false false) with id := s.nextId, who := 0, windows := [], scope := 5 }]
  nextId := s.nextId + 1 }
/-- Only one workgroup changes beside the issuing warp, its scratchpad not. -/
structure GroupResult (s t : State) (g : Nat) : Prop where
  kept : BytesKept s t
  rest : t = { s with warps := t.warps, wgs := t.wgs }
  others : ∀ v, v ≠ s.issue.warp → t.warp v = s.warp v
  groups : ∀ h, h ≠ g → t.wg h = s.wg h

/-! ## Tile operations -/

/-- R201: fields of the descriptor of a tile operation. -/
def TileOp.fld (op : Machine.TileOp) (i lo n : Nat) : Nat := wbits (op.desc.getD i 0) lo n
/-- The instruction held for the operation of its tag with this number (R204). -/
def waitedFor (s : State) (serial : Nat) : Bool := mapGet? s.issue.kept 512 == some (BitVec.ofNat 32 serial)
/-- R267: a stopped operation of tag `k` is reported with its ring, in every lane of E, and only once: `after` is left. -/
def Reports (s t : State) (k : Nat) (after : Machine.TileOp) (r : Nat) : Prop :=
  (∀ l < 32, t.cur.lane l = if s.inSet l then
      if s.inE l then { s.cur.lane l with trap := (s.cur.lane l).trap <|> some { s.record 15 with arg1 := BitVec.ofNat 32 r } }
      else { s.cur.lane l with pc := s.issue.pc + s.len }
    else s.cur.lane l) ∧
  GroupResult s t s.cur.wg ∧ t.cur = { s.cur with lanes := t.cur.lanes } ∧
  mapGet (t.wg s.cur.wg).tags k {} = after ∧ t.wg s.cur.wg = { s.wg s.cur.wg with tags := (t.wg s.cur.wg).tags }
/-- The operation of a tag in a workgroup. -/
def tagOp (s : State) (g tag : Nat) : Machine.TileOp := mapGet (s.wg g).tags tag {}

/-! ## Edges (R71, R207, R208) -/

/-- The coordinates of vertex `k` of a lane's triangle, 24 bits with sign. -/
def vx (s : State) (r l k : Nat) : Int := ((s.cur.vlane (r + 2 * (k % 3)) l).extractLsb' 0 24).toInt
def vy (s : State) (r l k : Nat) : Int := ((s.cur.vlane (r + 2 * (k % 3) + 1) l).extractLsb' 0 24).toInt
/-- The coefficients of edge `k`, and the edge function. -/
def edgeA (s : State) (r l k : Nat) : Int := vy s r l k - vy s r l (k + 1)
def edgeB (s : State) (r l k : Nat) : Int := vx s r l (k + 1) - vx s r l k
def edgeAt (s : State) (r l k : Nat) (px py : Int) : Int := edgeA s r l k * (px - vx s r l k) + edgeB s r l k * (py - vy s r l k)
/-- Twice the area, with its sign. -/
def area2 (s : State) (r l : Nat) : Int :=
  (vx s r l 1 - vx s r l 0) * (vy s r l 2 - vy s r l 0) - (vx s r l 2 - vx s r l 0) * (vy s r l 1 - vy s r l 0)
def fits24 (s : State) (r l : Nat) : Bool :=
  (List.range 3).all fun k => decide (-2 ^ 23 ≤ edgeA s r l k ∧ edgeA s r l k < 2 ^ 23 ∧ -2 ^ 23 ≤ edgeB s r l k ∧ edgeB s r l k < 2 ^ 23)
/-- R208: pixel `p` of the tile at an origin is covered. -/
def covers (s : State) (r l : Nat) (x0 y0 : Int) (p : Nat) : Bool :=
  let g := (area2 s r l).sign
  let px := 256 * (x0 + (p % 8 : Nat)) + 128
  let py := 256 * (y0 + (p / 8 : Nat)) + 128
  fits24 s r l && decide (g ≠ 0) && (List.range 3).all fun k =>
    let top : Bool := decide (0 < g * edgeA s r l k ∨ g * edgeA s r l k = 0 ∧ g * edgeB s r l k < 0)
    decide (0 ≤ g * edgeAt s r l k px py - (if top then 0 else 1))
/-- R71: IO where a coordinate is no sign-extended 24-bit number. -/
def coordIO (s : State) (r l : Nat) : Flags :=
  if (List.range 6).any fun i => decide ((s.cur.vlane (r + i) l).toInt < -2 ^ 23 ∨ 2 ^ 23 ≤ (s.cur.vlane (r + i) l).toInt) then flIO else 0
/-- The halves of a word as signed numbers. -/
def half (w : Word) (i : Nat) : Int := (w.extractLsb' (16 * i) 16).toInt
/-- R209: the weights of a lane, with its flags and generator. -/
def weights (s : State) (x y l : Nat) : Nat × Nat × LaneNum :=
  let p := s.cur.vlane y l
  let n := (s.laneNum l).raise (coordIO s x l)
  let ex (k : Nat) := edgeAt s x l k (256 * half p 0 + 128) (256 * half p 1 + 128)
  if area2 s x l = 0 ∨ fits24 s x l = false then (nanPat s.env F32 [], nanPat s.env F32 [], n.raise flIV)
  else
    let w (k : Nat) (n : LaneNum) := roundFin s.env F32 (Q.dy ⟨ex k * (area2 s x l).sign, (area2 s x l).natAbs⟩) false n
    ((w 2 n).1, (w 0 (w 2 n).2).1, (w 0 (w 2 n).2).2)

/-! ## Quads (R210) -/

/-- The covered quads of the lanes of E: lane and quad, in order. -/
def quadList (s : State) (r : Nat) : List (Nat × Nat) :=
  (List.range 32).flatMap fun l => if s.inE l then
    ((List.range 16).filter fun q => [0, 1, 8, 9].any fun o => (s.cur.vpair r l).getLsbD (16 * (q / 4) + 2 * (q % 4) + o)).map fun q => (l, q)
  else []
/-- The groups of four lanes that are all in E. -/
def fullGroups (s : State) : List Nat := (List.range 8).filter fun q => (List.range 4).all fun k => s.inE (4 * q + k)
/-- What lane `k` of a group that receives a quad gets: its word and whether it is a helper. -/
def quadLane (s : State) (r : Nat) (e : Nat × Nat) (k : Nat) : Word × Bool :=
  let p := 8 * (2 * (e.2 / 4) + k / 2) + 2 * (e.2 % 4) + k % 2
  let h := !(s.cur.vpair r e.1).getLsbD p
  (BitVec.ofNat 32 (p + 64 * e.1 + (if h then 2 ^ 30 else 0) + 2 ^ 31), h)
/-- What a lane of a full group gets, from the quad list at position `c`. -/
def packed (s : State) (r c l : Nat) : Word × Bool :=
  match (quadList s r)[c + (fullGroups s).findIdx (· == l / 4)]? with
  | some e => quadLane s r e (l % 4)
  | none => (0, true)

/-! ## Textures and tiles (R211 to R218) -/

/-- The corners of a lane of TEXG. -/
noncomputable def cornersOf (s : State) (d : Surface) (r l : Nat) : Except TrapRec (List Nat × Fetch) :=
  s.corners l d (decodeRaw F32 (s.cur.vlane r l).toNat) (decodeRaw F32 (s.cur.vlane (r + 1) l).toNat)
/-- R214: the four channels that a lane of FILT receives, with its flags and generator. -/
def filtered (s : State) (sh d a y l : Nat) : List Nat × LaneNum :=
  let f (r : Nat) := decodeRaw F32 (s.cur.vlane r l).toNat
  let fu := frac256 (f a)
  let fv := frac256 (f (a + 1))
  (List.range 4).foldl (fun r ch =>
    let byte (n : Nat) := ((s.cur.vlane (y + n) l).extractLsb' (8 * ch) 8).toNat
    let sum := (256 - fu) * (256 - fv) * byte 0 + fu * (256 - fv) * byte 1 + (256 - fu) * fv * byte 2 + fu * fv * byte 3
    let o := filtChannel s.env sh ((f (a + 2)).q 1).clamp01 sum (f (d + ch)) r.2
    (r.1 ++ [o.1], o.2)) ([], s.laneNum l)
/-- R215: the scratchpad address of a lane's pixel. -/
def pixelAt (s : State) (g y l : Nat) : Nat := (s.cur.wreg g).toNat + 4 * ((s.cur.vlane y l).toNat % 64)
/-- The lanes of E that are no helpers. -/
def workers (s : State) : List Nat := (List.range 32).filter fun l => s.inE l && !(s.cur.lane l).helper

/-- R386: the bytes of a tile that the launch may write. -/
def tileImage (s : State) (lane a : Nat) : List Place := (List.range 256).flatMap fun i => match s.checkExact .w 1 lane (a + i) with
  | .ok ps _ _ => ps
  | .bad _ => []

/-! ## Instructions of a stage (R220, R221, R371) -/

/-- The launch of the issuing warp is a render pass and its gang is of the stage. -/
def ofStage (s : State) (stage : Nat) : Prop := ∃ r, s.curLaunch.render = some r ∧ gangStage s.cur.gang = stage
/-- What comes before the effect of an instruction of a stage with `n` bytes at scratchpad address `sa`. -/
def InStage (s t : State) (stage sa n : Nat) (effect : Prop) : Prop :=
  (¬ ofStage s stage → TrapResult s t fun _ => some (s.record 2)) ∧
  (ofStage s stage → s.acts = false → Passes s t) ∧
  (ofStage s stage → s.acts = true → sa % 16 ≠ 0 → AllOfE s t { s.record 5 with addr := BitVec.ofNat 64 sa }) ∧
  (ofStage s stage → s.acts = true → sa % 16 = 0 → (s.wg s.cur.wg).window < sa + n →
    AllOfE s t { s.record 6 with cause := 1, addr := BitVec.ofNat 64 sa }) ∧
  (ofStage s stage → s.acts = true → sa % 16 = 0 → sa + n ≤ (s.wg s.cur.wg).window → effect)
/-- The bytes of a record that MESHEMIT reads, and its meshlet index. -/
def recordAt (s : State) (sa : Nat) : List Byte := (s.readNow (padPlaces s.cur.wg sa 912)).1
def recordIndex (b : List Byte) : Nat := ofBytes ((b.drop 4).take 4)

end Sys2Proof.Claim

/-- R189: SCLD reads `n` entries of 64 bytes into the scale memory; other entries, and every byte of the scratchpad, stay. -/
def Sys2Proof.Claim.ScaleLoad : Prop := ∀ (s : State) (c : BitVec 1) (la : BitVec 4) (sh : BitVec 3) (e : BitVec 10) (y : BitVec 6),
  let g := s.wg s.cur.wg
  let sa := (s.cur.wreg y.toNat).toNat
  let n := sh.toNat + 1
  let ps := padPlaces s.cur.wg sa (64 * n)
  s.memoryWf → ∃ t, exec (.scld c la sh e y) s = .next t ∧
  (s.acts = false → Claim.Passes s t) ∧
  (s.acts = true → sa % 16 ≠ 0 → Claim.AllOfE s t { s.record 5 with addr := BitVec.ofNat 64 sa }) ∧
  (s.acts = true → sa % 16 = 0 → g.window < sa + 64 * n → Claim.AllOfE s t { s.record 6 with cause := 1, addr := BitVec.ofNat 64 sa }) ∧
  (s.acts = true → sa % 16 = 0 → sa + 64 * n ≤ g.window → g.scaleEntries < e.toNat + n →
    Claim.AllOfE s t { s.record 6 with cause := 2 }) ∧
  (s.acts = true → sa % 16 = 0 → sa + 64 * n ≤ g.window → e.toNat + n ≤ g.scaleEntries → s.readWaits s.issue.set .consistent ps = true →
    t = s) ∧
  (s.acts = true → sa % 16 = 0 → sa + 64 * n ≤ g.window → e.toNat + n ≤ g.scaleEntries →
    s.readWaits s.issue.set .consistent ps = false →
    Claim.GroupResult s t s.cur.wg ∧ LanesPass s t s.gens noFlags ∧ t.cur = { s.cur with lanes := t.cur.lanes } ∧
    t.wg s.cur.wg = { g with scale := (t.wg s.cur.wg).scale, scalePoison := (t.wg s.cur.wg).scalePoison } ∧
    ∀ a, memRead (t.wg s.cur.wg).scale a =
      if 64 * e.toNat ≤ a ∧ a < 64 * (e.toNat + n) then (s.readNow ps).1.getD (a - 64 * e.toNat) 0 else memRead g.scale a)

/-- R201, R203, R204, R267, R274: TMMA holds while its tag is in flight, or while another operation in flight holds one of its tiles; it takes
the fault of a ring that is not enabled or of a descriptor that is not legal, and, where it waited for an operation that was stopped, that
operation's, also once another has started; else it starts its own. TWAIT and TWAIT.OC hold while the tag is in flight, report a stopped operation
once, and else pass; one that waited for an operation goes on once that has ended, also where another is in flight. -/
def Sys2Proof.Claim.TileOperations : Prop := ∀ (s : State) (c : BitVec 1) (la : BitVec 4) (k : BitVec 2) (y : BitVec 6),
  let g := s.wg s.cur.wg
  let op := Claim.tagOp s s.cur.wg k.toNat
  let b := s.markOut
  let rs := (List.range 8).map fun i => y.toNat + i
  let d := rs.map s.wsrc
  let qa := wbits (s.wsrc y.toNat) 0 3
  let qb := wbits (s.wsrc y.toNat) 4 3
  let stale : Bool := op.unreported.any fun e => Claim.waitedFor s e.1
  let turn : AMap Word := [(512, BitVec.ofNat 32 op.serial)]
  let new : TileOp := { inFlight := true, desc := d, serial := op.serial + 1
                        unreported := match op.stopped with
                          | some r => some (op.serial, r)
                          | none => op.unreported
                        warp := s.issue.warp, lanes := s.eff,
                        report := { b.record 3 with flags := flIV, after := true, async := true } }
  (∃ t, exec (.tmma c la k y) s = .next t ∧
    (s.acts = false → Claim.Passes b t) ∧
    (∀ e, s.acts = true → op.unreported = some e → stale = true → Claim.Reports b t k.toNat { op with unreported := none } e.2) ∧
    (s.acts = true → stale = false → op.inFlight = true → Claim.Holds b t (Claim.waitOn b rs turn)) ∧
    (∀ r, s.acts = true → stale = false → op.inFlight = false → op.stopped = some r → Claim.waitedFor s op.serial = true →
      Claim.Reports b t k.toNat { op with stopped := none } r) ∧
    (s.acts = true → stale = false → op.inFlight = false → op.stopped = none ∨ Claim.waitedFor s op.serial = false →
      ((g.ringCfg qa).en = false → Claim.AllOfE b t { b.record 15 with arg1 := BitVec.ofNat 32 qa }) ∧
      ((g.ringCfg qa).en = true → (g.ringCfg qb).en = false → Claim.AllOfE b t { b.record 15 with arg1 := BitVec.ofNat 32 qb }) ∧
      ((g.ringCfg qa).en = true → (g.ringCfg qb).en = true → g.tmmaLegal d = false → Claim.AllOfE b t (b.record 10)) ∧
      ((g.ringCfg qa).en = true → (g.ringCfg qb).en = true → g.tmmaLegal d = true → s.tilesBusy new.tiles = true →
        Claim.Holds b t (Claim.waitOn b rs)) ∧
      ((g.ringCfg qa).en = true → (g.ringCfg qb).en = true → g.tmmaLegal d = true → s.tilesBusy new.tiles = false →
        Claim.GroupResult b t s.cur.wg ∧ LanesPass b t s.gens noFlags ∧ t.cur = { b.cur with lanes := t.cur.lanes } ∧
        t.wg s.cur.wg = { g with tags := (t.wg s.cur.wg).tags } ∧ Claim.tagOp t s.cur.wg k.toNat = new ∧
        ∀ j, j ≠ k.toNat → Claim.tagOp t s.cur.wg j = Claim.tagOp s s.cur.wg j))) ∧
  ∀ i ∈ [Instr.twait c la k, Instr.twaitOc c la k], ∃ t, exec i s = .next t ∧
    (s.eff = 0 → Claim.Passes s t) ∧
    let other := s.issue.held.isSome && !Claim.waitedFor s op.serial
    (s.eff ≠ 0 → other = true → stale = false → Claim.Passes s t) ∧
    (∀ e, s.eff ≠ 0 → other = true → op.unreported = some e → stale = true → Claim.Reports s t k.toNat { op with unreported := none } e.2) ∧
    (s.eff ≠ 0 → other = false → op.inFlight = true → Claim.Holds s t (Claim.waitOn s [] turn)) ∧
    (s.eff ≠ 0 → other = false → op.inFlight = false → op.stopped = none → Claim.Passes s t) ∧
    ∀ r, s.eff ≠ 0 → other = false → op.inFlight = false → op.stopped = some r → Claim.Reports s t k.toNat { op with stopped := none } r

/-- R90, R91, R202, R203, R205, R237, R267, R281: an operation in flight of a resident workgroup takes a filled slot of each ring for its
next K-step, after the requests that reached it before, while its gang is not to be saved; then the panels have been read, each granule as
it stood when the slots were taken or as it stands, the products are added to every element of the result, and the slots are released but
where their ring was reconfigured. No other element changes, and with no such operation or no filled slot, nothing. When the operation ends
so, IV of its products reaches the lanes of its TMMA (the lanes are the model's choice, log entry 68). -/
def Sys2Proof.Claim.TileSteps : Prop := ∀ (s : State) (w tag : Nat),
  let g := s.wg w
  let op := Claim.tagOp s w tag
  let qa := Claim.TileOp.fld op 0 0 3
  let qb := Claim.TileOp.fld op 0 4 3
  let m := Claim.TileOp.fld op 1 0 16
  let n := Claim.TileOp.fld op 1 16 16
  let t0 := Claim.TileOp.fld op 3 0 16
  let af := Claim.TileOp.fld op 0 8 4
  let bf := Claim.TileOp.fld op 0 12 4
  let sm := (op.desc.getD 0 0).getLsbD 16
  let runs := op.inFlight = true ∧ g.resident = true
  let goes := runs ∧ op.panels = none ∧ (mapGet (s.launch g.launch).gangs g.gang {}).draining = false ∧
    s.ringQueue w qa true = [] ∧ s.ringQueue w qb true = []
  ∃ t, exec (.tmmaKstep w tag) s = .next t ∧
  (∀ j, j ≠ tag → Claim.tagOp t w j = Claim.tagOp s w j) ∧ (∀ h, h ≠ w → t.wg h = s.wg h) ∧
  (¬ runs → t = s) ∧ (op.panels = none → ¬ goes → t = s) ∧ (goes → g.ringTake qa true = none → t = s) ∧
  (∀ ia g1, goes → g.ringTake qa true = some (ia, g1) → g1.ringTake qb true = none → t = s) ∧
  (∀ ia g1 ib g2, goes → g.ringTake qa true = some (ia, g1) → g1.ringTake qb true = some (ib, g2) →
    t = { s with wgs := t.wgs } ∧ t.wg w = { g2 with tags := (t.wg w).tags } ∧
    let p : Panels := { slotA := ia, slotB := ib, addrA := (g.ringCfg qa).addr ia, addrB := (g.ringCfg qb).addr ib
                        sp := g2.sp, marks := g2.spPoison }
    Claim.tagOp t w tag = { op with panels := some p }) ∧
  (∀ p, runs → op.panels = some p → m % 8 = 0 → n % 8 = 0 → ∃ pick : Nat,
    let tile (i j : Nat) := t0 + i / 8 * (n / 8) + j / 8
    let old (i j : Nat) := g.ace (tile i j) (i % 8) (j % 8)
    let fresh := (op.desc.getD 0 0).getLsbD 19 && op.next == 0
    let row (i : Nat) := g.panelRow p pick p.addrA m i af sm
    let col (j : Nat) := g.panelRow p pick p.addrB n j bf sm
    let dot (i j : Nat) := dotProducts ((op.desc.getD 0 0).getLsbD 18) (row i).1 (col j).1
    let iv : Bool := (List.range m).any fun i => (List.range n).any fun j =>
      (dot i j).2 || ((if fresh then (old i j).start else old i j).add (af == 5) (dot i j).1).2
    let more := decide ((op.next + 1) * kStep af < Claim.TileOp.fld op 2 0 24)
    let op' := { op with next := op.next + 1, panels := none, inFlight := more && op.stopped.isNone
                         stopped := if more then op.stopped else none, iv := op.iv || iv }
    let g1 := if p.voidA then g else g.ringDone qa p.slotA true
    let g2 := if p.voidB then g1 else g1.ringDone qb p.slotB true
    let u := s.warp op.warp
    t = { s with warps := t.warps, wgs := t.wgs, tick := t.tick } ∧
    t.wg w = { g2 with region := (t.wg w).region, tags := (t.wg w).tags } ∧
    Claim.tagOp t w tag = op' ∧
    (op'.inFlight = true ∨ op'.iv = false → t.warps = s.warps) ∧
    (op'.inFlight = false → op'.iv = true → (∀ v, v ≠ op.warp → t.warp v = s.warp v) ∧
      t.warp op.warp = { u with mode := modeRaise u.mode flIV, lanes := (t.warp op.warp).lanes } ∧
      ∀ l < 32, (t.warp op.warp).lane l =
        if op.lanes.getLsbD l = true ∧ (u.lane l).status ≠ .done ∧ flIV &&& u.ten ≠ 0 then
          { u.lane l with trap := (u.lane l).trap <|> some op.report }
        else u.lane l) ∧
    (∀ i < m, ∀ j < n, Claim.Accumulated (old i j) fresh (af == 5) (dot i j).1 ((row i).2 || (col j).2)
      ((t.wg w).ace (tile i j) (i % 8) (j % 8))) ∧
    ∀ k i j, i < 8 → j < 8 → ¬ (t0 ≤ k ∧ k < t0 + m / 8 * (n / 8)) → (t.wg w).ace k i j = g.ace k i j)

/-- R207 to R209, R214: EDGE, BARY and FILT. -/
def Sys2Proof.Claim.EdgesAndFilters : Prop := ∀ (s : State) (c : BitVec 1) (la : BitVec 4) (sh : BitVec 3) (g x : BitVec 5) (y : BitVec 6),
  let a := 4 * x.toNat
  let d := 2 * y.toNat
  let ds := List.range' d 2
  (s.fits ds → ∃ t, exec (.edge c la g x y) s = .next t ∧
    VecResult s t ds (fun r l => Machine.maskOf fun i => Claim.covers s a l (Claim.half (s.cur.wreg g.toNat) 0) (Claim.half (s.cur.wreg g.toNat) 1)
        (32 * (r - d) + i))
      (fun l => Claim.coordIO s a l ||| if Claim.fits24 s a l then 0 else flIO) s.gens s.cur.wc) ∧
  (s.fits ds → ∃ t, exec (.bary c la x y) s = .next t ∧
    VecResult s t ds (fun r l => BitVec.ofNat 32 (if r = d then (Claim.weights s a d l).1 else (Claim.weights s a d l).2.1))
      (fun l => (Claim.weights s a d l).2.2.fl) (fun l => (Claim.weights s a d l).2.2.gen) s.cur.wc) ∧
  (s.fits (List.range' (4 * g.toNat) 4) → ∃ t, exec (.filt c la sh g x y) s = .next t ∧
    VecResult s t (List.range' (4 * g.toNat) 4)
      (fun r l => BitVec.ofNat 32 ((Claim.filtered s sh.toNat (4 * g.toNat) a d l).1.getD (r - 4 * g.toNat) 0))
      (fun l => (Claim.filtered s sh.toNat (4 * g.toNat) a d l).2.fl) (fun l => (Claim.filtered s sh.toNat (4 * g.toNat) a d l).2.gen) s.cur.wc)

/-- R210: COVPK gives covered quads to the full groups of E, with the helper bits, and counts them. -/
def Sys2Proof.Claim.QuadPacking : Prop := ∀ (s : State) (c : BitVec 1) (la : BitVec 4) (g x : BitVec 5) (y : BitVec 6),
  let n0 := (s.cur.wreg g.toNat).toNat
  let r := 2 * y.toNat
  let n := min ((Claim.quadList s r).length - n0) (Claim.fullGroups s).length
  let inGroup (l : Nat) : Bool := (Claim.fullGroups s).contains (l / 4)
  let d := 4 * x.toNat
  Claim.fullGroups s = [] ∨ s.fits [d] →
  ∃ t, exec (.covpk c la g x y) s = .next t ∧ OnlyWarp s t ∧ (s.eff = 0 → Claim.Passes s t) ∧ (s.eff ≠ 0 →
    t.cur = { s.cur with lanes := t.cur.lanes, vregs := t.cur.vregs, wregs := t.cur.wregs, wc := setC s.cur.wc (decide (n0 + n < (Claim.quadList s r).length)) } ∧
    t.cur.wreg g.toNat = BitVec.ofNat 32 (n0 + n) ∧ (∀ i, i ≠ g.toNat → t.cur.wreg i = s.cur.wreg i) ∧
    (∀ l < 32, t.cur.lane l = if s.inSet l then
        { s.cur.lane l with pc := s.issue.pc + s.len, helper := if inGroup l then (Claim.packed s r n0 l).2 else (s.cur.lane l).helper }
      else s.cur.lane l) ∧
    (∀ i, i ≠ d ∨ Claim.fullGroups s = [] → t.cur.vreg i = s.cur.vreg i) ∧
    (Claim.fullGroups s ≠ [] → ∀ l < 32, t.cur.vlane d l =
      if s.inE l then if inGroup l then (Claim.packed s r n0 l).1 else s.cur.vlane d l
      else if s.pz = true ∧ s.inSet l = true then 0 else s.cur.vlane d l))

/-- R103, R160, R211 to R213, R219, R289, R458: TEXG gives the four texels at a lane's corners, or the lane's fault; while an earlier access of
the warp comes before one of a lane's reads, nothing moves. -/
def Sys2Proof.Claim.TextureGather : Prop := ∀ (s : State) (c : BitVec 1) (la g : BitVec 4) (x : BitVec 5) (y : BitVec 6),
  let ds := List.range' (2 * y.toNat) 4
  let waits (l : Nat) (v : List Nat × Fetch) : Bool := v.2.reads.any fun g => s.readWaits (Machine.maskOf (· == l)) g.1 g.2
  (s.eff = 0 → ∃ t, exec (.texg c la g x y) s = .next t ∧ Claim.Passes s t) ∧
  (s.eff ≠ 0 → s.surface (8 * g.toNat) = none → s.fits ds → ∃ t, exec (.texg c la g x y) s = .next t ∧ Claim.AllOfE s t (s.record 10)) ∧
  ∀ d, s.eff ≠ 0 → s.surface (8 * g.toNat) = some d → s.fits ds →
    let got (l : Nat) : Option (List Nat × Fetch) := if s.inE l then (Claim.cornersOf s d (4 * x.toNat) l).toOption else none
    let places := (List.range 32).flatMap fun l => (got l).elim [] fun v => v.2.places
    let strong := (List.range 32).any fun l => (got l).any fun v => v.2.reads.any fun g => g.1 == .strong
    let hurt := s.struck places
    let u := s.readDone strong places hurt
    ((∃ l < 32, ∃ v, got l = some v ∧ waits l v = true) → exec (.texg c la g x y) s = .next s) ∧
    ((∀ l < 32, ∀ v, got l = some v → s.tileRaces v.2.places = false ∧ waits l v = false) →
      ∃ t, exec (.texg c la g x y) s = .next t ∧ BytesKept u t ∧ t = { u with warps := t.warps, launches := t.launches } ∧
      (∀ v, v ≠ s.issue.warp → t.warp v = s.warp v) ∧
      ((∀ l < 32, s.inE l = true → ∃ v, got l = some v ∧ (v.2.strike hurt).bad = none) →
        VecResult u t ds (fun r l => BitVec.ofNat 32 ((got l).elim 0 fun v => v.1.getD (r - 2 * y.toNat) 0)) noFlags s.gens s.cur.wc) ∧
      ∀ l < 32, s.inE l = true → match Claim.cornersOf s d (4 * x.toNat) l with
        | .error r => t.cur.lane l = { s.cur.lane l with trap := (s.cur.lane l).trap <|> some r } ∧ ∀ i, t.cur.vlane i l = s.cur.vlane i l
        | .ok v =>
          (∀ ea, (v.2.strike hurt).bad = some ea → (∀ i ∈ ds, t.cur.vlane i l = 0) ∧ t.cur.lane l = { s.cur.lane l with
            pc := s.issue.pc + s.len, trap := (s.cur.lane l).trap <|> some { s.record 8 with async := true, after := true, addr := ea } }) ∧
          ((v.2.strike hurt).bad = none → t.cur.lane l = { s.cur.lane l with pc := s.issue.pc + s.len } ∧
            ∀ i < 4, t.cur.vlane (2 * y.toNat + i) l = BitVec.ofNat 32 (v.1.getD i 0)))

/-- R160, R162, R215, R216: BLND changes the pixels of the lanes of E that are no helpers and whose address passes, in their workgroup's
scratchpad, and no other byte; lanes on one pixel change it one after another, in lane order; the other lanes take their faults. While an earlier
access of the warp meets the pixels, nothing moves. -/
def Sys2Proof.Claim.Blending : Prop := ∀ (s : State) (c : BitVec 1) (la : BitVec 4) (g x : BitVec 5) (y : BitVec 6),
  let b := s.markOut
  let at' := Claim.pixelAt s g.toNat (2 * y.toNat)
  let ctl := (s.cur.wreg (g.toNat + 1)).toNat
  let lane (l : Nat) := padPlaces s.cur.wg (at' l) 4
  let chk (l : Nat) := b.checkPad false 4 true (at' l)
  let good := (Claim.workers s).filter fun l => (chk l).isOk
  let waits := s.updateWaits s.eff (good.flatMap lane)
  let fl (l : Nat) : Flags := if blendBad ctl && good.contains l then flIV else 0
  let blend (old : List Nat) (l : Nat) : List Nat := (blendPixel s.env.rm ctl
    ((List.range 4).map fun k => ((decodeRaw F32 (s.cur.vlane (4 * x.toNat + k) l).toNat).q 1).clamp01) old).map (· % 256)
  (∀ l ∈ good, Claim.Quiet s (lane l)) → s.memoryWf →
  ∃ t, exec (.blnd c la g x y) s = .next t ∧ (waits = true → t = b) ∧ (waits = false →
    t = { b with warps := t.warps, wgs := t.wgs } ∧ (∀ v, v ≠ s.issue.warp → t.warp v = s.warp v) ∧
    (∀ l < 32, t.cur.lane l =
      if s.inSet l then
        match if (Claim.workers s).contains l then some (chk l) else none with
        | some (.bad r) => { b.cur.lane l with trap := (b.cur.lane l).trap <|> some r }
        | _ => { b.cur.lane l with
            pc := s.issue.pc + s.len
            trap := if fl l &&& s.cur.ten ≠ 0 then (b.cur.lane l).trap <|> some (b.arithRec (fl l)) else (b.cur.lane l).trap }
      else b.cur.lane l) ∧
    t.cur = { b.cur with lanes := t.cur.lanes, mode := modeRaise s.cur.mode (s.raisedFlags fl) } ∧
    (∀ h, h ≠ s.cur.wg → t.wg h = s.wg h) ∧
    (∀ a, (∀ l ∈ good, ¬ (at' l ≤ a ∧ a < at' l + 4)) → memRead (t.wg s.cur.wg).sp a = memRead (s.wg s.cur.wg).sp a) ∧
    ∀ l ∈ good, ∀ i < 4, memRead (t.wg s.cur.wg).sp (at' l + i) =
      if (lane l).any s.placePoisoned then memRead (s.wg s.cur.wg).sp (at' l + i)
      else BitVec.ofNat 8 (((good.filter fun k => at' k == at' l).foldl blend ((lane l).map fun p => (s.placeByte p).toNat)).getD i 0))

/-- R217, R218: a tile that is packed to its clear colour or to differences unpacks to the pixels it was packed from. -/
def Sys2Proof.Claim.PackedTilesUnpack : Prop := ∀ (px : List Nat) (clear : Nat) (tail : List Byte),
  px.length = 64 → (∀ p ∈ px, p < 2 ^ 32) →
  let r := packTile px clear
  (r.1 = 0 → r.2 = px.flatMap (toBytes 4)) ∧ (r.1 ≠ 0 → (unpackTile r.1 clear (r.2 ++ tail) []).1 = px.flatMap (toBytes 4)) ∧ r.2.length ≤ 256

/-- R217 to R219, R277, R289, R295, R386, R458, R459: CPACK sends a tile's bytes and then, by a release, its mode byte; CUNPK sends the decoded
pixels and a mode byte of 0, once no other write of the tile is on its way; granules that hold poison are sent with their marks. Their faults are
those of every lane of E, and where neither byte nor mode is sent the release stands by itself. -/
def Sys2Proof.Claim.TileCompression : Prop := ∀ (s : State) (c : BitVec 1) (la : BitVec 4) (g x : BitVec 5) (y : BitVec 4),
  let sa := (s.cur.wreg g.toNat).toNat
  let lead := (lanesOf s.eff).headD 0
  let ps := padPlaces s.cur.wg sa 256
  let p := Claim.releasePoint s
  let put (k : Acc) (n a : Nat) := s.checkExact k n lead a
  let send (bytes : List (Place × Byte)) (bad : Nat → Bool) : FlightKind :=
    .store (chunks 16 bytes) ((bytes.zipIdx.filter fun e => bad (e.2 / 32)).map fun e => e.1.1)
  let sent (u t : State) (image : List Place) (kinds : List (FlightKind × Bool)) := BytesKept u t ∧
    t = { u with warps := t.warps, flights := t.flights, nextId := t.nextId } ∧
    (∀ v, v ≠ s.issue.warp → t.warp v = s.warp v) ∧ LanesPass s t s.gens noFlags ∧ t.cur = { s.cur with lanes := t.cur.lanes } ∧
    ∃ fs : List Flight, t.flights = u.flights ++ fs ∧ fs.map (·.kind) = kinds.map Prod.fst ∧
      (∀ e ∈ fs.zip kinds, e.1.page = .consistent → e.1.rel = e.2.2) ∧
      ∀ f ∈ fs, f.warp = s.issue.warp ∧ f.group = s.nextId ∧ f.who = s.issue.set ∧ f.counted = true ∧ f.whole = f.kind.whole ∧
        f.image = image
  (∃ t, exec (.cpack c la g x y) s = .next t ∧
    (s.acts = false → Claim.Passes p t) ∧
    (s.acts = true → sa % 16 ≠ 0 → Claim.AllOfE p t { s.record 5 with addr := BitVec.ofNat 64 sa }) ∧
    (s.acts = true → sa % 16 = 0 → (s.wg s.cur.wg).window < sa + 256 → Claim.AllOfE p t { s.record 6 with cause := 1, addr := BitVec.ofNat 64 sa }) ∧
    (s.acts = true → sa % 16 = 0 → sa + 256 ≤ (s.wg s.cur.wg).window →
      ((s.surface (8 * y.toNat)).bind fun d => d.tileAt? (s.cur.wreg x.toNat).toNat) = none → Claim.AllOfE p t (s.record 10)) ∧
    (∀ d k, s.acts = true → sa % 16 = 0 → sa + 256 ≤ (s.wg s.cur.wg).window → s.surface (8 * y.toNat) = some d →
      d.tileAt? (s.cur.wreg x.toNat).toNat = some k → s.readWaits s.issue.set .consistent ps = true → t = s) ∧
    (∀ d k, s.acts = true → sa % 16 = 0 → sa + 256 ≤ (s.wg s.cur.wg).window → s.surface (8 * y.toNat) = some d →
      d.tileAt? (s.cur.wreg x.toNat).toNat = some k → s.readWaits s.issue.set .consistent ps = false →
      let raw := (s.readNow ps).1
      let bad (j : Nat) : Bool := (List.range 256).any fun i => i / 32 == j && (s.readNow (padPlaces s.cur.wg (sa + i) 1)).2
      let out := if d.layout = 2 ∧ (s.readNow ps).2 = false then
          packTile ((List.range 64).map fun p => ofBytes ((raw.drop (4 * p)).take 4)) d.clear else (0, raw)
      let image := if d.layout = 2 then Claim.tileImage s lead (d.base + 256 * k) else []
      (∀ r, out.2 ≠ [] → put .w out.2.length (d.base + 256 * k) = .bad r → Claim.AccessFault p t r) ∧
      (∀ r, out.2 = [] ∨ (put .w out.2.length (d.base + 256 * k)).isOk = true → d.layout = 2 → put .w 1 (d.metaAt + k) = .bad r →
        Claim.AccessFault p t r) ∧
      ∀ dp dpg dea mp mpg mea, (out.2 = [] ∧ dp = []) ∨ put .w out.2.length (d.base + 256 * k) = .ok dp dpg dea →
        (d.layout = 2 → put .w 1 (d.metaAt + k) = .ok [mp] mpg mea) →
        sent s t (if d.layout = 2 then image ++ [mp] else []) ((if out.2 = [] then [] else [(send (dp.zip out.2) bad, false)]) ++
          if d.layout = 2 then [(send [(mp, BitVec.ofNat 8 out.1)] fun _ => false, true)] else []))) ∧
  ∃ t, exec (.cunpk c la x y) s = .next t ∧
    (s.acts = false → Claim.Passes p t) ∧
    (s.acts = true → s.surface (8 * y.toNat) = none → Claim.AllOfE p t (s.record 10)) ∧
    (∀ d, s.acts = true → s.surface (8 * y.toNat) = some d → d.layout = 1 → Claim.Passes p t) ∧
    (∀ d, s.acts = true → s.surface (8 * y.toNat) = some d → d.layout ≠ 1 → d.tileAt? (s.cur.wreg x.toNat).toNat = none →
      Claim.AllOfE p t (s.record 10)) ∧
    (∀ d k, s.acts = true → s.surface (8 * y.toNat) = some d → d.layout ≠ 1 → d.tileAt? (s.cur.wreg x.toNat).toNat = some k →
      ∀ r, ([put .r 1 (d.metaAt + k), put .w 1 (d.metaAt + k), put .r 256 (d.base + 256 * k), put .w 256 (d.base + 256 * k)].findSome? fun z =>
          match z with
          | .bad r => some r
          | .ok .. => none) = some r → Claim.AccessFault p t r) ∧
    ∀ d k mp mpg mea m2 g2 e2 dp dpg dea d2 g3 e3, s.acts = true → s.surface (8 * y.toNat) = some d → d.layout ≠ 1 →
      d.tileAt? (s.cur.wreg x.toNat).toNat = some k →
      put .r 1 (d.metaAt + k) = .ok [mp] mpg mea → put .w 1 (d.metaAt + k) = .ok m2 g2 e2 →
      put .r 256 (d.base + 256 * k) = .ok dp dpg dea → put .w 256 (d.base + 256 * k) = .ok d2 g3 e3 →
      let waits : Bool := (s.flights.any fun f => f.tileStore && overlaps f.span (mp :: dp)) || s.readWaits s.issue.set mpg [mp] ||
        s.readWaits s.issue.set dpg dp
      (waits = true → t = s) ∧ (waits = false →
        let fresh := s.ownWrite s.cur.wg (mp :: dp)
        let hurt := s.struck (mp :: dp)
        let m := fresh.readHit hurt [mp]
        let mode := if m.2 then 0 else ofBytes m.1
        let read := if mode = 0 ∨ mode = 1 then [mp] else mp :: dp
        let u := s.readDone (mpg == .strong || (read != [mp] && dpg == .strong)) read (hurt.filter read.contains)
        let bad : List Nat := if (fresh.readHit hurt dp).2 then (List.range 256).filter fun i => (fresh.readHit hurt ((dp.drop i).take 1)).2
          else []
        let out := unpackTile mode d.clear (fresh.readHit hurt dp).1 bad
        (mode = 0 → Claim.Passes (Claim.releasePoint u) t) ∧
        (mode ≠ 0 → dp.length = 256 →
          sent u t (dp ++ [mp]) [(send (dp.zip out.1) out.2, false), (send [(mp, 0)] fun _ => false, true)]))

/-- R220, R221, R377, R380: MESHEMIT hands a legal record to the classifier or holds while it has no place; BINNEXT holds until a batch is
handed out. -/
def Sys2Proof.Claim.MeshletsAndBins : Prop := ∀ (s : State) (c : BitVec 1) (la : BitVec 4) (f : BitVec 1) (g : BitVec 5) (y : BitVec 6),
  let b := s.markOut
  let sa := (s.wsrc g.toNat).toNat
  let waits := b.readWaits s.issue.set .consistent (padPlaces s.cur.wg sa 912)
  (∃ t, exec (.meshemit c la f g) s = .next t ∧ Claim.InStage b t 1 sa 912 (∀ r, s.curLaunch.render = some r →
    let rec' := Claim.recordAt b sa
    let i := Claim.recordIndex rec'
    let ok : Bool := recordLegal rec' && decide (r.nextMeshlet ≤ i ∧ i < r.at 8) && (mapGet? r.records i).isNone
    (waits = true → t = b) ∧
    (waits = false → ok = false → Claim.AllOfE b t { b.record 10 with addr := BitVec.ofNat 64 sa }) ∧
    (waits = false → ok = true → (r.batches ≠ [] ∨ r.nextMeshlet + 256 ≤ i) →
      Claim.Holds b t (Claim.waitOn b [g.toNat])) ∧
    (waits = false → ok = true → r.batches = [] → i < r.nextMeshlet + 256 →
      t = { b with warps := t.warps, launches := t.launches } ∧ BytesKept b t ∧ LanesPass b t s.gens noFlags ∧
      (∀ v, v ≠ s.issue.warp → t.warp v = s.warp v) ∧ t.cur = { b.cur with lanes := t.cur.lanes } ∧
      t.curLaunch = { s.curLaunch with render := some { r with records := mapSet r.records i (f == 1, rec') } } ∧
      ∀ k, k ≠ s.cur.launch → t.launch k = s.launch k))) ∧
  ∃ t, exec (.binnext c la g y) s = .next t ∧
    Claim.InStage b t 3 (s.cur.wreg y.toNat).toNat 1536 (Claim.Holds b t (.batch s.nextId (s.cur.wreg y.toNat).toNat g.toNat s.len))

namespace Sys2Proof.Claim

/-! ## Barriers (R223 to R225, R308 to R314) -/

/-- What an instruction of barriers may change: its warp's lanes and the barrier `r`, and, by an acquire at scope `acq`, what its L1 holds of
older values. -/
structure BarFrame (s t : State) (r : BarRef) (acq : Option Nat) : Prop where
  kept : BytesKept s t
  rest : t = { s with warps := t.warps, wgs := t.wgs, launches := t.launches, trees := t.trees }
  others : ∀ v, v ≠ s.issue.warp → t.warp v = s.warp v
  warp : t.cur = { s.cur with lanes := t.cur.lanes }
  bars : ∀ q, q ≠ r → t.bar q = s.bar q
  wgs : ∀ g, t.wg g = { s.wg g with
    bars := (t.wg g).bars
    stale := match acq with
      | some k => if g = s.cur.wg then (s.wg g).stale.filter fun e => s.outlives k false e.1 else (s.wg g).stale
      | none => (s.wg g).stale }
/-- R225: the lane has arrived in the phase that is open. -/
def arrivedIn (s : State) (r : BarRef) (l : Nat) : Bool := (s.cur.lane l).arrived.contains (r, (s.bar r).phase)
/-- R225: what a lane remembers when it arrives. -/
def arriving (s : State) (r : BarRef) (x : Lane) : Lane := { x with arrived := (r, (s.bar r).phase) :: x.arrived.filter fun e => e.1 != r }
/-- R224, R314: phase completion, seen from the state afterwards: the phase of the barrier advances and its release is due where every member
has arrived, the counter of the phase is zero and no other device takes part; where a member is missing or the counter is not zero, the
barrier is as `b`. -/
def Completion (t : State) (r : BarRef) (b : Barrier) : Prop :=
  (t.allArrived r b.phase = true → b.count b.phase = 0 → t.linkedPorts r = [] →
    (t.bar r).phase = b.phase + 1 ∧ (t.bar r).releasing = b.releasing ++ [b.phase] ∧ (t.bar r).count0 = b.count0 ∧ (t.bar r).count1 = b.count1) ∧
  (t.allArrived r b.phase = false ∨ b.count b.phase ≠ 0 → t.bar r = b)
/-- An ordering point without an access, as the access `n`. -/
def fenceOf (s : State) (n : Nat) (a r all sc : Bool) (scope : Nat) : Flight :=
  { s.flight 0 0 n (.fence a r all sc false) with id := n, who := 0, windows := [], scope := scope }
/-- R295, R298: a state with such a point on its way behind the accesses of `u`; at thread scope it orders nothing that another agent can
observe. -/
def withPoint (s u : State) (a r all sc : Bool) (scope : Nat) : State :=
  if scope = 0 then u else { u with flights := u.flights ++ [fenceOf s u.nextId a r all sc scope], nextId := u.nextId + 1 }
/-- R293: only what the L1 of workgroups still holds of older values differs. -/
def OnlyStale (s t : State) : Prop := ∀ g, t.wg g = { s.wg g with stale := (t.wg g).stale }
/-- R225: the phase that a lane waits for at a barrier: that of its last arrival, while it is open or its release is on its way. -/
def awaitedAt (b : Barrier) (r : BarRef) (x : Lane) : Option Word :=
  (x.arrived.find? fun q => q.1 == r).bind fun q => if q.2 = b.phase ∨ q.2 ∈ b.releasing then some q.2 else none
def awaited (s : State) (r : BarRef) (l : Nat) : Option Word := awaitedAt (s.bar r) r (s.cur.lane l)
/-- R225, R315: the lane has arrived with this BARSYNC already, and has not passed it. -/
def resyncs (s : State) (l : Nat) : Bool := (s.cur.lane l).sync == some s.issue.pc
/-- A lane's trap at issue. -/
def traps (x : Lane) (r : TrapRec) : Lane := { x with trap := x.trap <|> some r }
/-- A lane that leaves HOLD (R407). -/
def leaves (x : Lane) (handlerMode : Bool) : Lane :=
  if handlerMode = true ∧ x.handler = false then { x with status := .hold, parked := true, wait := .none } else { x with status := .run, wait := .none }

/-! ## Ordered sections (R226 to R229, R489) -/

def keyOf (s : State) (a : BitVec 7) (l : Nat) : DWord := s.cur.vlane (a.toNat + 1) l ++ s.cur.vlane a.toNat l
/-- The lanes of the issue set that are no helpers and meet a condition, in increasing order. -/
def lanesWith (s : State) (p : Nat → Bool) : List Nat := (List.range 32).filter fun l => s.inSet l && !(s.cur.lane l).helper && p l
/-- R228: the rule check of ORDENTER. -/
def ruleHolds (s : State) (a : BitVec 7) (d l : Nat) : Bool :=
  decide ((s.cur.lane l).held.length < 4) &&
    (s.cur.lane l).held.all fun h => decide (h.dom < d) || (h.dom == d && decide (h.key < keyOf s a l))
/-- R229: the section of a domain and a key that a lane holds. -/
def sectionOf (s : State) (a : BitVec 7) (d l : Nat) : Option Held := (s.cur.lane l).held.find? fun h => h.dom == d && h.key == keyOf s a l
/-- R411: the record of the ordered-section fault. -/
def ordRec (s : State) (cause : Nat) (tag : Option DomTag) (key : DWord) (num : Word) : TrapRec :=
  { s.record 12 with cause := cause, addr := key, arg1 := num, arg2 := ((tag.bind fun t => s.keyEntry? t key).map (·.n)).getD 0 }
/-- ORDENTER, ORDSKIP and ORDTEST: the state they start from, the request's code, the operands and the check at issue. -/
inductive Ask (s : State) : Instr → State → Nat → BitVec 7 → BitVec 7 → Nat → (Nat → Bool) → Prop
  | enter (c a b z) : Ask s (.ordenter c a b z) s.markOut 0 a b z.toNat (ruleHolds s a z.toNat)
  | skip (c a b z) : Ask s (.ordskip c a b z) s 1 a b z.toNat (fun _ => true)
  | test (c a b z) : Ask s (.ordtest c a b z) s 2 a b z.toNat (fun _ => true)
/-- R226: a number has been retired: it is behind N, or its bit in the window is set. -/
def retired (e : KeyEntry) (x : Word) : Bool :=
  let a := (x - e.n).toNat
  decide (2 ^ 31 ≤ a) || (decide (1 ≤ a ∧ a ≤ 64) && e.w.getLsbD (a - 1))
/-- R226: a number is behind N. -/
def behind (e : KeyEntry) (x : Word) : Bool := decide (2 ^ 31 ≤ (x - e.n).toNat)
/-- R321: the entry of a tag and a key, used later than every other. -/
def Used (t : State) (tag : DomTag) (key : DWord) (e : KeyEntry) : Prop :=
  ∃ u, t.keyEntry? tag key = some { e with lastUse := u } ∧ ∀ x ∈ t.keys, ¬ (x.tag = tag ∧ x.key = key) → x.lastUse < u
/-- The lane of a request after its answer: at the next word, with its bit of m0. -/
structure Answered (s t : State) (x : Flight) (bit : Option Bool) : Prop where
  lane : (t.warp x.warp).lane x.lane = { leaves ((s.warp x.warp).lane x.lane) (s.warp x.warp).handlerMode with
    pc := ((s.warp x.warp).lane x.lane).pc + 1, held := ((t.warp x.warp).lane x.lane).held }
  lanes : ∀ l, l ≠ x.lane → (t.warp x.warp).lane l = (s.warp x.warp).lane l
  mask : ∀ l < 32, ((t.warp x.warp).mask 0).getLsbD l = match bit with
    | some b => if l = x.lane then b else ((s.warp x.warp).mask 0).getLsbD l
    | none => ((s.warp x.warp).mask 0).getLsbD l
  masks : ∀ k, k ≠ 0 → (t.warp x.warp).mask k = (s.warp x.warp).mask k
  warp : t.warp x.warp = { s.warp x.warp with
    lanes := (t.warp x.warp).lanes, masks := (t.warp x.warp).masks
    bad := if bit.isSome then (s.warp x.warp).bad.filter (· != 384) else (s.warp x.warp).bad }
  gone : t.flights = s.flights.filter (·.id != x.id)
/-- R489: the lane of a request takes a fault found at the home, on the instruction. -/
def HomeFault (s t : State) (x : Flight) (r : TrapRec) : Prop :=
  (t.warp x.warp).lane x.lane = traps (leaves ((s.warp x.warp).lane x.lane) (s.warp x.warp).handlerMode) r ∧
  t.flights = s.flights.filter (·.id != x.id)
def homeRec (x : Flight) (cause : Nat) (key : DWord) (num n : Word) : TrapRec :=
  { kind := 12, cause := cause, async := true, widx := BitVec.ofNat 32 x.pc, word := x.word, addr := key, arg1 := num, arg2 := n }
/-- What a request, a grant or a leave may change. -/
structure HomeFrame (s t : State) (x : Flight) (tag : DomTag) (key : DWord) : Prop where
  kept : BytesKept s t
  rest : t = { s with warps := t.warps, flights := t.flights, keys := t.keys, quiets := t.quiets, wgs := t.wgs, tick := t.tick }
  stale : OnlyStale s t
  others : ∀ v, v ≠ x.warp → t.warp v = s.warp v
  keys : ∀ g k, ¬ (g = tag ∧ k = key) → t.keyEntry? g k = s.keyEntry? g k
/-- R228, R294: the section of an entry is granted to the lane of a request. -/
structure Granted (s t : State) (x : Flight) (tag : DomTag) (key : DWord) (dom : Nat) (e : KeyEntry) (num : Word) : Prop where
  frame : HomeFrame s t x tag key
  answer : Answered s t x (some e.ab)
  acquire : ∀ c ∈ (t.wg x.wg).stale, s.outlives 5 false c.1 = true
  held : ((t.warp x.warp).lane x.lane).held = ((s.warp x.warp).lane x.lane).held ++ [⟨dom, key, num⟩]
  entry : Used t tag key { e with holder := some (x.warp, x.lane), heldS := num, ab := false }
/-- R324: what follows a change of an entry to `e`: of the waiting requests whose number N now is, one is granted where nobody holds it. -/
def Follows (s t : State) (tag : DomTag) (key : DWord) (e : KeyEntry) : Prop :=
  let due (f : Flight) : Prop := ∃ dom, f.kind = .ordReq 0 tag dom key e.n 1
  (e.holder.isSome = true ∨ e.poisoned = true ∨ (∀ f ∈ s.flights, ¬ due f) → t = s) ∧
  (e.holder = none → e.poisoned = false → (∃ f ∈ s.flights, due f) →
    ∃ f ∈ s.flights, ∃ dom, f.kind = .ordReq 0 tag dom key e.n 1 ∧ Granted s t f tag key dom e e.n)
/-- R226, R229, R324: the request is answered and its number retired, and a grant may follow. -/
def Retires (s t : State) (x : Flight) (tag : DomTag) (key : DWord) (e : KeyEntry) : Prop :=
  ∃ u, HomeFrame s u x tag key ∧ Answered s u x none ∧ Used u tag key e ∧ Follows u t tag key e

/-! ## Puts (R231 to R234) -/

/-- R231: a put of `n` bytes or words is on its way. -/
def putKind (s : State) (target sa : Nat) (bytes : List (Byte × Bool)) (c n : Nat) : FlightKind :=
  .put ((s.putTarget? target).getD 0) (bytes.zipIdx.map fun e => (sa + e.2, e.1.1))
    ((bytes.zipIdx.filter fun e => e.1.2).map fun e => sa + e.2) c n
/-- The counter of a workgroup, by number (R233, R263). -/
def putCounter (g : Workgroup) (c : Nat) : Nat := ofBytes ((List.range 8).map fun i => memRead g.sp (g.window - 256 + 8 * c + i))

end Sys2Proof.Claim

/-- R223 to R225, R311, R314: BARARR and BARSYNC. While an access that the arrival as a release covers is on its way, nothing moves. An
operand that names no barrier of the warp is every lane's fault; a lane that has arrived in the open phase takes the fault, the others
arrive, and after BARSYNC hold until the release of their phase. A lane that was withdrawn from a BARSYNC does not arrive with it again. -/
def Sys2Proof.Claim.BarrierArrival : Prop := ∀ (s : State) (c : BitVec 1) (e : BitVec 3) (k : BitVec 7) (z : BitVec 5),
  let b := s.markOut
  let n := barNumber e.toNat k.toNat z.toNat
  let waits := s.releaseWaits (s.pointScope e.toNat k.toNat z.toNat)
  let bad (i : Nat × Nat) := { s.record 11 with cause := i.1, arg1 := BitVec.ofNat 32 i.2 }
  (∃ t, exec (.bararr c e k z) s = .next t ∧ (waits = true → t = s) ∧ (waits = false →
    (∀ i, b.barName e.toNat k.toNat z.toNat = .error i → TrapResult b t fun _ => some (bad i)) ∧
    ∀ r, b.barName e.toNat k.toNat z.toNat = .ok r → Claim.BarFrame b t r none ∧ Claim.Completion t r (s.bar r) ∧
      ∀ l < 32, t.cur.lane l =
        if s.inSet l then
          if Claim.arrivedIn s r l then Claim.traps (b.cur.lane l) (bad (2, n))
          else { Claim.arriving s r (b.cur.lane l) with pc := s.issue.pc + s.len }
        else s.cur.lane l)) ∧
  ∃ t, exec (.barsync c e k z) s = .next t ∧ (waits = true → t = s) ∧ (waits = false →
    (∀ i, b.barName e.toNat k.toNat z.toNat = .error i → TrapResult b t fun _ => some (bad i)) ∧
    ∀ r, b.barName e.toNat k.toNat z.toNat = .ok r →
      let passes : Bool := (List.range 32).any fun l => s.inSet l && Claim.resyncs s l && (Claim.awaitedAt (t.bar r) r (s.cur.lane l)).isNone
      Claim.BarFrame b t r (if passes then some (s.barScope r e.toNat) else none) ∧
      ((∀ l < 32, s.inSet l = true → (s.cur.lane l).status = .run) → Claim.Completion t r (s.bar r)) ∧
      ∀ l < 32, t.cur.lane l =
        if s.inSet l then
          if Claim.resyncs s l then
            match Claim.awaitedAt (t.bar r) r (s.cur.lane l) with
            | some p => { b.cur.lane l with status := .hold, wait := .barrier r p e.toNat, sync := some s.issue.pc }
            | none => { b.cur.lane l with
                pc := s.issue.pc + 1, sync := if (s.cur.lane l).status = .hold then some s.issue.pc else none }
          else if Claim.arrivedIn s r l then Claim.traps (b.cur.lane l) (bad (2, n))
          else { Claim.arriving s r (b.cur.lane l) with
            status := .hold, wait := .barrier r (s.bar r).phase e.toNat, sync := some s.issue.pc }
        else s.cur.lane l)

/-- R225, R294, R311 to R313: BARWAIT holds the lanes whose phase is open or not yet released to them and passes the others, after the acquire
of a completed phase; BAREXP adds to the counter of its parity; a release lets the waiters of the oldest completed phase go on, and is their
acquire. -/
def Sys2Proof.Claim.BarrierWaits : Prop := ∀ (s : State) (c : BitVec 1) (e : BitVec 3) (a k : BitVec 7) (z : BitVec 5),
  let b := s.markOut
  let bad (i : Nat × Nat) := { s.record 11 with cause := i.1, arg1 := BitVec.ofNat 32 i.2 }
  (∃ t, exec (.barwait c e k z) s = .next t ∧
    (∀ i, s.barName e.toNat k.toNat z.toNat = .error i → TrapResult s t fun _ => some (bad i)) ∧
    ∀ r, s.barName e.toNat k.toNat z.toNat = .ok r →
      let passes : Bool := (List.range 32).any fun l => s.inSet l && (Claim.awaited s r l).isNone
      let u := if passes then s.refresh s.cur.wg (s.barScope r e.toNat) else s
      OnlyWarp u t ∧ t.cur = { s.cur with lanes := t.cur.lanes } ∧
      ∀ l < 32, t.cur.lane l =
        if s.inSet l then
          match Claim.awaited s r l with
          | some p => { s.cur.lane l with status := .hold, wait := .barrier r p e.toNat }
          | none => { s.cur.lane l with pc := s.issue.pc + 1 }
        else s.cur.lane l) ∧
  (∃ t, exec (.barexp c e a k z) s = .next t ∧ (s.acts = false → Claim.Passes b t) ∧
    (∀ i, s.acts = true → b.barName e.toNat k.toNat z.toNat = .error i → TrapResult b t fun _ => some (bad i)) ∧
    ∀ r, s.acts = true → b.barName e.toNat k.toNat z.toNat = .ok r → Claim.BarFrame b t r none ∧ LanesPass b t s.gens noFlags ∧
      let x := s.bar r
      let here : Bool := match r with
        | .wg .. => s.cur.hasArrived r x.phase
        | _ => s.wgArrived s.cur.wg r x.phase
      let p := if here then x.phase + 1 else x.phase
      let n := s.cur.wreg a.toNat
      Claim.Completion t r { x with
        count0 := if p.getLsbD 0 then x.count0 else x.count0 + n, count1 := if p.getLsbD 0 then x.count1 + n else x.count1 }) ∧
  ∀ kind owner bar, ∃ t, exec (.barrierRelease kind owner bar) s = .next t ∧
    let r := barRefOf kind owner bar
    ((s.bar r).releasing = [] → t = s) ∧
    ∀ ph rest, (s.bar r).releasing = ph :: rest → BytesKept s t ∧
      t = { s with warps := t.warps, wgs := t.wgs, launches := t.launches, trees := t.trees } ∧
      t.bar r = { s.bar r with releasing := rest } ∧ (∀ q, q ≠ r → t.bar q = s.bar q) ∧
      (∀ g, t.wg g = { s.wg g with bars := (t.wg g).bars, stale := (t.wg g).stale }) ∧
      (∀ w, ∀ l < 32, ∀ k, ((s.warp w).lane l).wait = .barrier r ph k →
        ∀ e ∈ (t.wg (s.warp w).wg).stale, s.outlives (s.barScope r k) false e.1 = true) ∧
      (∀ w, t.warp w = { s.warp w with lanes := (t.warp w).lanes }) ∧ ∀ w, ∀ l < 32, (t.warp w).lane l = match ((s.warp w).lane l).wait with
        | .barrier q p _ => if q = r ∧ p = ph then { Claim.leaves ((s.warp w).lane l) (s.warp w).handlerMode with
                pc := ((s.warp w).lane l).pc + 1, sync := none }
            else (s.warp w).lane l
        | _ => (s.warp w).lane l

/-- R314, R472, R474: another device's message, over a port that is up and whose peer lists ID 2, is held for the tree it names; the phase
completes once every linked port's is. A message that names none is logged, with a class and an event that the spec does not give (log entry 28);
any other is dropped. -/
def Sys2Proof.Claim.PeerMessages : Prop := ∀ (s : State) (port bar phase : Nat), ∃ t, exec (.peerBarrierMessage port bar phase) s = .next t ∧
  let named (k : Nat) : Bool := (mapGet s.dev.barLink k 0).getLsbD 31 && wbits (mapGet s.dev.barLink k 0) 18 7 == bar % 128 &&
    (mapGet s.dev.barLink k 0).getLsbD port
  let arrives := (mapGet s.dev.peers port {}).up = true ∧ s.peerHas port 2 = true
  (¬ arrives → t = s) ∧
  (arrives → (∀ k < 128, named k = false) → ∃ cls ev, t = s.logError cls ev port 0 0 0) ∧
  ∀ k < 128, arrives → named k = true → (∀ j < k, named j = false) → t = { s with trees := t.trees } ∧ (∀ q, q ≠ .tree k → t.bar q = s.bar q) ∧
    let b := s.bar (.tree k)
    let held := (port, BitVec.ofNat 32 phase) :: b.peers
    (s.allArrived (.tree k) b.phase = false ∨ b.count b.phase ≠ 0 → t.bar (.tree k) = { b with peers := held }) ∧
    (s.allArrived (.tree k) b.phase = true → b.count b.phase = 0 → (∀ p ∈ s.linkedPorts (.tree k), (p, b.phase) ∈ held) →
      (t.bar (.tree k)).phase = b.phase + 1 ∧ (t.bar (.tree k)).releasing = b.releasing ++ [b.phase]) ∧
    (s.allArrived (.tree k) b.phase = true → b.count b.phase = 0 → (∃ p ∈ s.linkedPorts (.tree k), (p, b.phase) ∉ held) →
      t.bar (.tree k) = { b with peers := held, sent := some b.phase })

/-- R227, R228, R229, R295, R489: ORDENTER, ORDSKIP and ORDTEST send one request for each lane that is no helper and passes the check, and the
lane holds; ORDLEAVE sends the leave of the section that the lane holds, and the lane goes on. The other lanes take their faults. Lanes that
make no request or leave still have their part in the instruction's ordering point, which ORDSKIP does not have. -/
def Sys2Proof.Claim.SectionRequests : Prop := ∀ s : State,
  (∀ i b op a y d p, Claim.Ask s i b op a y d p → ∃ t, exec i s = .next t ∧
    let num (l : Nat) := s.cur.vlane y.toNat l
    (s.domain? d = none → ∃ u, (TrapResult b u fun l =>
        if (s.cur.lane l).helper then none else some (Claim.ordRec s 4 none (Claim.keyOf s a l) (num l))) ∧
      t = if op = 1 ∨ s.issue.set = 0 then u else Claim.withPoint s u true false false false 5) ∧
    ∀ tag, s.domain? d = some tag →
      let asks := Claim.lanesWith s p
      let u := { b with warps := t.warps, nextId := s.nextId + asks.length, flights := s.flights ++ asks.zipIdx.map fun e =>
        { s.flight e.1 0 s.nextId (.ordReq op tag d (Claim.keyOf s a e.1) (num e.1) 0) with id := s.nextId + e.2, windows := [] } }
      BytesKept s t ∧ (∀ v, v ≠ s.issue.warp → t.warp v = s.warp v) ∧ t.cur = { b.cur with lanes := t.cur.lanes } ∧
      t = (if op = 1 ∨ ((List.range 32).all fun l => !s.inSet l || asks.contains l) = true then u else Claim.withPoint s u true false false false 5) ∧
      ∀ l < 32, t.cur.lane l =
        if s.inSet l then
          if (s.cur.lane l).helper then { b.cur.lane l with pc := s.issue.pc + s.len }
          else if p l then { b.cur.lane l with status := .hold, wait := .order (s.nextId + asks.findIdx (· == l)), unpended := false }
          else Claim.traps (b.cur.lane l) (Claim.ordRec s 0 (some tag) (Claim.keyOf s a l) (num l))
        else s.cur.lane l) ∧
  ∀ (c : BitVec 1) (a : BitVec 7) (z : BitVec 5), ∃ t, exec (.ordleave c a z) s = .next t ∧
    let b := s.markOut
    let sec := Claim.sectionOf s a z.toNat
    (s.domain? z.toNat = none → ∃ u, (TrapResult b u fun l =>
        if (s.cur.lane l).helper then none else some (Claim.ordRec s 4 none (Claim.keyOf s a l) (s.cur.vlane 0 l))) ∧
      t = if s.issue.set = 0 then u else Claim.withPoint s u false true false false 5) ∧
    ∀ tag, s.domain? z.toNat = some tag →
      let out := Claim.lanesWith s fun l => (sec l).isSome
      let u := { b with warps := t.warps, nextId := s.nextId + out.length, flights := s.flights ++ out.zipIdx.map fun e =>
        let h := (sec e.1).getD ⟨0, 0, 0⟩
        { s.flight e.1 0 (s.nextId + e.2) (.ordLeave tag h.key h.s false) with
          id := s.nextId + e.2, windows := [], rel := true, counted := true, ea := h.key } }
      BytesKept s t ∧ (∀ v, v ≠ s.issue.warp → t.warp v = s.warp v) ∧ t.cur = { b.cur with lanes := t.cur.lanes } ∧
      t = (if (List.range 32).all fun l => !s.inSet l || out.contains l then u else Claim.withPoint s u false true false false 5) ∧
      ∀ l < 32, t.cur.lane l =
        if s.inSet l then
          if (s.cur.lane l).helper then { b.cur.lane l with pc := s.issue.pc + s.len }
          else match sec l with
            | some h => { b.cur.lane l with pc := s.issue.pc + s.len, held := (s.cur.lane l).held.filter (· != h) }
            | none => Claim.traps (b.cur.lane l) (Claim.ordRec s 2 (some tag) (Claim.keyOf s a l) (s.cur.vlane 0 l))
        else s.cur.lane l

/-- R226: retiring a number that is not behind N and lies in the window marks that number and no other; N is the first number that is not
retired. -/
def Sys2Proof.Claim.RetiringNumbers : Prop := ∀ (e : KeyEntry) (num x : Word), e.posted = none → (num - e.n).toNat ≤ 64 → (x - e.n).toNat < 2 ^ 30 →
  let r := e.retire num
  Claim.retired r x = (Claim.retired e x || x == num) ∧ Claim.retired r r.n = false ∧
    r = { e with n := r.n, w := r.w }

/-- R228, R229, R321, R324, R489: a request at the entry of its key; the ORDTEST requests of one instruction at one slice are served in one
move (log entry 55). -/
def Sys2Proof.Claim.RequestsAtHome : Prop := ∀ (s : State) (f : Nat) (x : Flight) (op dom : Nat) (tag : DomTag) (key : DWord) (num : Word) (e : KeyEntry),
  s.flight? f = some x → s.keyEntry? tag key = some e → s.keyLost key = false →
  exec (.ordRequestAtHome f) s = .next ((s.together x).foldl State.arriveReq s) ∧
  (x.kind = .ordReq op tag dom key num 0 → op ≤ 2 → (op = 2 → s.together x = [x]) → e.overflow = none → e.posted = none →
    ∃ t, exec (.ordRequestAtHome f) s = .next t ∧
    (s.reqWaits x tag key = true → t = s) ∧ (s.reqWaits x tag key = false →
      (e.poisoned = true → Claim.HomeFrame s t x tag key ∧ Claim.HomeFault s t x (Claim.homeRec x 6 key num e.n)) ∧
      (e.poisoned = false → op = 2 → Claim.HomeFrame s t x tag key ∧ Claim.Answered s t x (some (Claim.behind e num)) ∧ Claim.Used t tag key e ∧
        (Claim.behind e num = true → ∀ c ∈ (t.wg x.wg).stale, s.outlives 5 false c.1 = true)) ∧
      (e.poisoned = false → op = 0 → Claim.behind e num = true →
        Claim.HomeFrame s t x tag key ∧ Claim.HomeFault s t x (Claim.homeRec x 1 key num e.n)) ∧
      (e.poisoned = false → op = 0 → num = e.n → e.holder = none → Claim.Granted s t x tag key dom e num) ∧
      (e.poisoned = false → Claim.behind e num = false → (op = 0 ∧ (num ≠ e.n ∨ e.holder.isSome = true) ∨
          op = 1 ∧ 64 < (num - e.n).toNat) →
        Claim.HomeFrame s t x tag key ∧ t.warps = s.warps ∧ t.flight? f = some { x with kind := .ordReq op tag dom key num 1 } ∧
        Claim.Used t tag key e) ∧
      (e.poisoned = false → op = 1 → Claim.behind e num = true →
        Claim.HomeFrame s t x tag key ∧ Claim.Answered s t x none ∧ Claim.Used t tag key e) ∧
      (e.poisoned = false → op = 1 → num = e.n → e.holder.isSome = true →
        Claim.HomeFrame s t x tag key ∧ Claim.HomeFault s t x (Claim.homeRec x 3 key num e.n)) ∧
      (e.poisoned = false → op = 1 → (num - e.n).toNat ≤ 64 → (num ≠ e.n ∨ e.holder = none) → Claim.Retires s t x tag key (e.retire num)))) ∧
  (x.kind = .ordReq op tag dom key num 1 → op ≤ 1 → ∃ t, exec (.ordGrant f) s = .next t ∧
    (op = 0 → Claim.behind e num = true → Claim.HomeFrame s t x tag key ∧ Claim.HomeFault s t x (Claim.homeRec x 1 key num e.n)) ∧
    (op = 0 → num = e.n → e.holder = none → Claim.Granted s t x tag key dom e num) ∧
    (op = 0 → Claim.behind e num = false → (num ≠ e.n ∨ e.holder.isSome = true) → t = s) ∧
    (op = 1 → Claim.behind e num = true → Claim.HomeFrame s t x tag key ∧ Claim.Answered s t x none ∧ t.keys = s.keys) ∧
    (op = 1 → (num - e.n).toNat ≤ 64 → (num ≠ e.n ∨ e.holder = none) → Claim.Retires s t x tag key (e.retire num)) ∧
    (op = 1 → Claim.behind e num = false → 64 < (num - e.n).toNat ∨ (num = e.n ∧ e.holder.isSome = true) → t = s))

/-- R229, R305, R321, R323, R324, R329: a leave, once every access that it covers is performed and the lane's earlier abandonments are, retires the
held number and frees the section of the lane that holds it, and a waiting request may be granted; an abandonment also sets AB; a leave of a
poisoned entry is the lane's deferred fault. -/
def Sys2Proof.Claim.LeavesAtHome : Prop := ∀ (s : State) (f : Nat) (x : Flight) (tag : DomTag) (key : DWord) (num : Word) (ab : Bool) (e : KeyEntry),
  s.flight? f = some x → x.kind = .ordLeave tag key num ab → s.keyEntry? tag key = some e → s.keyLost key = false →
  ∃ t, exec (.ordLeaveAtHome f) s = .next t ∧ (s.canPerform x = false ∨ s.abandonWaits x = true → t = s) ∧
    (s.canPerform x = true → s.abandonWaits x = false →
    let mine := e.holder = some (x.warp, x.lane) ∧ e.heldS = num
    let after : KeyEntry := { e.retire num with holder := none, ab := e.ab || ab }
    (e.poisoned = false ∨ ab = true → mine → ∃ u, Claim.HomeFrame s u x tag key ∧ u.flights = Claim.without x.id s.flights ∧
      u.warps = s.warps ∧ Claim.Used u tag key after ∧ Claim.Follows u t tag key after) ∧
    (e.poisoned = false ∨ ab = true → ¬ mine → t = { s with flights := Claim.without x.id s.flights }) ∧
    (e.poisoned = true → ab = false → Claim.HomeFrame s t x tag key ∧ t.flights = Claim.without x.id s.flights ∧ t.keys = s.keys ∧
      (t.warp x.warp).lane x.lane =
        if ((s.warp x.warp).lane x.lane).status = .done then (s.warp x.warp).lane x.lane
        else Claim.traps ((s.warp x.warp).lane x.lane) { Claim.homeRec x 6 key num e.n with after := true }))

/-- R324, R326, R327: at the end of an interval the waiters of a slice whose condition holds are served first: one that is alone there, with
the number N of its entry that nobody holds, is granted. Then a domain that waited from its start, and in which nothing was granted, counts
one more; below the threshold, or with a threshold of zero, that is all that happens to it; at the threshold the count starts again and the
nearest waiter of each entry that nobody holds takes ORDSTALL, of several with one number any. -/
def Sys2Proof.Claim.QuietIntervals : Prop := ∀ (s : State) (slice : Nat) (tag : DomTag), ∃ t, exec (.quietIntervalEnd slice) s = .next t ∧
  let known (k : DomTag) : Prop := (∃ q ∈ s.quiets, q.slice = slice ∧ q.tag = k) ∨ s.waiting slice k = true
  let q := (s.quiets.find? fun q => q.slice == slice && q.tag == tag).getD { slice := slice, tag := tag }
  let c := if q.waitingAtStart = true ∧ s.waiting slice tag = true ∧ q.granted = false then q.count + 1 else q.count
  let th := (s.dev.ordQuiet.extractLsb' 0 16).toNat
  let n := (t.quiets.find? fun q => q.slice == slice && q.tag == tag).getD { slice := slice, tag := tag }
  let here (f : Flight) : Prop := ∃ op k d key num st, f.kind = .ordReq op k d key num st ∧ st ≠ 0 ∧ s.keySlice key = slice
  (∀ x ∈ s.flights, ∀ d key num e, x.kind = .ordReq 0 tag d key num 1 → s.keySlice key = slice → s.keyLost key = false →
    s.keyEntry? tag key = some e → e.holder = none → num = e.n → (∀ f ∈ s.flights, here f → f = x) →
    (∃ u, t.keyEntry? tag key = some { e with holder := some (x.warp, x.lane), heldS := num, ab := false, lastUse := u }) ∧
    ((t.warp x.warp).lane x.lane).held = ((s.warp x.warp).lane x.lane).held ++ [⟨d, key, num⟩] ∧
    ((t.warp x.warp).lane x.lane).trap = ((s.warp x.warp).lane x.lane).trap) ∧
  ((∀ f ∈ s.flights, here f → s.serveWaiter f = s) →
    t = { s with warps := t.warps, flights := t.flights, quiets := t.quiets, tick := t.tick } ∧ BytesKept s t ∧
    ((∀ k, ¬ known k) → t = s) ∧
    (known tag → (∀ k, known k → k = tag) →
      (th = 0 ∨ c < th → t = { s with quiets := t.quiets } ∧ n.count = c ∧ n.waitingAtStart = s.waiting slice tag ∧ n.granted = false) ∧
      (th ≠ 0 → th ≤ c → n.count = 0 ∧ ∀ e ∈ s.keys, e.tag = tag → s.keySlice e.key = slice → e.holder = none →
        s.nearestWaiters e ≠ [] → ∃ x ∈ s.nearestWaiters e, t.flight? x.id = none ∧ ((t.warp x.warp).lane x.lane).trap.isSome = true)))

/-- R230, R317, R318: SEQNEXT gives the lanes of E consecutive numbers in lane order, from the domain's counter or from its gang's block,
which advances past them; an undeclared domain, the render domain, a block that would be passed, and a counter whose home is lost (R467; its
cause is the model's choice, log entry 70) are the fault of every lane of E. -/
def Sys2Proof.Claim.SequenceNumbers : Prop := ∀ (s : State) (c : BitVec 1) (a : BitVec 7) (z : BitVec 5),
  let b := s.markOut
  let d := z.toNat
  let n := (lanesOf s.eff).length
  let fault (k : Nat) := { s.record 12 with cause := k }
  (s.eff = 0 → ∃ t, exec (.seqnext c a z) s = .next t ∧ Claim.Passes b t) ∧
  (s.eff ≠ 0 → s.domain? d = none → ∃ t, exec (.seqnext c a z) s = .next t ∧ Claim.AllOfE b t (fault 4)) ∧
  (∀ tag, s.eff ≠ 0 → s.domain? d = some tag → d = 31 ∧ s.curLaunch.render.isSome = true →
    ∃ t, exec (.seqnext c a z) s = .next t ∧ Claim.AllOfE b t (fault 8)) ∧
  ∀ tag, s.eff ≠ 0 → s.domain? d = some tag → ¬ (d = 31 ∧ s.curLaunch.render.isSome = true) → s.fits [a.toNat] →
    ∃ t, exec (.seqnext c a z) s = .next t ∧
    let gang := mapGet s.curLaunch.gangs s.cur.gang {}
    let block := mapGet gang.blocks d (0, 0)
    let first := if s.curShape.cls = 2 then block.1 else s.seqCounter tag (s.domBase s.cur.launch d)
    let lost := s.curShape.cls ≠ 2 ∧ s.keyLost (BitVec.ofNat 64 d) = true
    (s.curShape.cls = 2 → block.2 < n → Claim.AllOfE b t (fault 5)) ∧ (lost → Claim.AllOfE b t (fault 6)) ∧
    (¬ lost → (s.curShape.cls = 2 → n ≤ block.2) →
      t = { b with warps := t.warps, launches := t.launches, seqNext := t.seqNext } ∧ BytesKept s t ∧
      (∀ v, v ≠ s.issue.warp → t.warp v = s.warp v) ∧ LanesPass b t s.gens noFlags ∧
      t.cur = { b.cur with lanes := t.cur.lanes, vregs := t.cur.vregs } ∧
      (∀ l < 32, t.cur.vlane a.toNat l =
        if s.inE l then first + BitVec.ofNat 32 ((lanesOf s.eff).findIdx (· == l))
        else if s.pz = true ∧ s.inSet l = true then 0 else s.cur.vlane a.toNat l) ∧
      (∀ r, r ≠ a.toNat → t.cur.vreg r = s.cur.vreg r) ∧
      (s.curShape.cls ≠ 2 → t.launches = s.launches ∧ t.seqCounter tag (s.domBase s.cur.launch d) = first + BitVec.ofNat 32 n ∧
        ∀ k x, k ≠ tag → t.seqCounter k x = s.seqCounter k x) ∧
      (s.curShape.cls = 2 → t.seqNext = s.seqNext ∧ (∀ i, i ≠ s.cur.launch → t.launch i = s.launch i) ∧
        mapGet (mapGet (t.launch s.cur.launch).gangs s.cur.gang {}).blocks d (0, 0) = (first + BitVec.ofNat 32 n, block.2 - n)))

/-- R231, R232, R295, R303: PUT sends its bytes once per issue and PUTW one word for each lane of E that is no helper, to a workgroup that may be
reached, or takes the put fault; lanes that send nothing have their part in the release. A put to a workgroup out of its scope covers no earlier
access. -/
def Sys2Proof.Claim.PutsIssue : Prop := ∀ (s : State) (c : BitVec 1) (e : BitVec 3) (a y : BitVec 7) (z : BitVec 5),
  let b := s.markOut
  let win := (s.wg s.cur.wg).window
  let bad (i : Nat) := { s.record 14 with arg1 := BitVec.ofNat 32 i }
  (∃ t, exec (.put c e a z) s = .next t ∧
    let d (i : Nat) := (s.cur.wreg (a.toNat + i)).toNat
    let ok := s.putAllowed (d 3) = true ∧ d 0 % 16 = 0 ∧ d 1 % 16 = 0 ∧ d 2 % 16 = 0 ∧ 16 ≤ d 2 ∧ d 2 ≤ 65536 ∧ d 0 + d 2 ≤ win ∧ d 1 + d 2 ≤ win
    let ps := padPlaces s.cur.wg (d 0) (d 2)
    let waits := s.readWaits s.issue.set .consistent ps
    let target := (s.putTarget? (d 3)).getD 0
    (s.acts = false → ∃ u, Claim.Passes b u ∧ t = Claim.withPoint b u false true false false e.toNat) ∧
    (s.acts = true → ¬ ok → ∃ u, Claim.AllOfE b u (bad (d 3)) ∧ t = Claim.withPoint b u false true false false e.toNat) ∧
    (s.acts = true → ok → waits = true → t = b) ∧
    (s.acts = true → ok → waits = false → LanesPass b t s.gens noFlags ∧ BytesKept s t ∧
      t = { b with warps := t.warps, flights := t.flights, nextId := s.nextId + 1 } ∧ (∀ v, v ≠ s.issue.warp → t.warp v = s.warp v) ∧
      t.cur = { b.cur with lanes := t.cur.lanes } ∧
      t.flights = s.flights ++ [{ s.flight ((lanesOf s.issue.set).headD 0) 0 s.nextId
          (Claim.putKind s (d 3) (d 1) (ps.map fun p => s.viewByte s.cur.wg p) z.toNat (d 2)) with
        id := s.nextId, who := s.issue.set, windows := [], rel := s.inScope e.toNat s.cur.wg target, scope := e.toNat, counted := true
        whole := if d 2 = 16 then [] else padPlaces target (d 1) (d 2) }])) ∧
  ∃ t, exec (.putw c e a y z) s = .next t ∧
    let sa (l : Nat) := (s.cur.vlane a.toNat l).toNat
    let tg (l : Nat) := (s.cur.vlane (a.toNat + 1) l).toNat
    let ok (l : Nat) : Bool := s.putAllowed (tg l) && decide (sa l % 4 = 0 ∧ sa l + 4 ≤ win)
    let out := (Claim.workers s).filter ok
    let u := { b with warps := t.warps, nextId := s.nextId + out.length, flights := s.flights ++ out.zipIdx.map fun o =>
      { s.flight o.1 0 (s.nextId + o.2)
          (Claim.putKind s (tg o.1) (sa o.1) ((toBytes 4 (s.cur.vlane y.toNat o.1).toNat).map fun x => (x, false)) z.toNat 4) with
        id := s.nextId + o.2, windows := [], rel := s.inScope e.toNat s.cur.wg ((s.putTarget? (tg o.1)).getD 0), scope := e.toNat
        counted := true } }
    BytesKept s t ∧ (∀ v, v ≠ s.issue.warp → t.warp v = s.warp v) ∧ t.cur = { b.cur with lanes := t.cur.lanes } ∧
    t = (if (List.range 32).all fun l => !s.inSet l || out.contains l then u else Claim.withPoint b u false true false false e.toNat) ∧
    ∀ l < 32, t.cur.lane l =
      if s.inSet l then
        if s.inE l = true ∧ (s.cur.lane l).helper = false ∧ ok l = false then Claim.traps (b.cur.lane l) (bad (tg l))
        else { b.cur.lane l with pc := s.issue.pc + s.len }
      else s.cur.lane l

/-- R233, R234, R263, R286, R303: a put that may be performed writes a piece of 16 bytes at a time, and after the last adds to its counter, in a
workgroup that exists, whose port may give the older bytes to reads that no acquire orders after it; CWAIT holds until the counter is at or above the threshold. -/
def Sys2Proof.Claim.PutCounters : Prop := ∀ (s : State) (f : Nat) (c : BitVec 1) (e : BitVec 3) (a : BitVec 7) (z : BitVec 5),
  (s.flight? f = none → exec (.putArrival f) s = .next s) ∧
  (∀ x target bytes k n, s.flight? f = some x → x.kind = .put target bytes [] k n → ∃ t, exec (.putArrival f) s = .next t ∧
    let g := s.wg target
    let at' := g.window - 256 + 8 * k
    (s.canPerform x = false → t = s) ∧
    (s.canPerform x = true → (target = 0 ∨ g.ended = true ∨ g.window = 0) → t = { s with flights := s.flights.filter (·.id != x.id) }) ∧
    (s.canPerform x = true → target ≠ 0 → g.ended = false → g.window ≠ 0 → s.memoryWf → k < 32 →
      (bytes = [] → t = { s with flights := s.flights.filter (·.id != x.id), wgs := t.wgs } ∧ (∀ h, h ≠ target → t.wg h = s.wg h) ∧
        (g.spPoison.contains (at' / 32) = true → t.wg target = g) ∧
        (g.spPoison.contains (at' / 32) = false → t.wg target = { g with sp := (t.wg target).sp } ∧
          Claim.putCounter (t.wg target) k = (Claim.putCounter g k + n) % 2 ^ 64 ∧
          ∀ i, ¬ (at' ≤ i ∧ i < at' + 8) → memRead (t.wg target).sp i = memRead g.sp i)) ∧
      (bytes ≠ [] → (bytes.map Prod.fst).Nodup → (∀ b ∈ bytes, g.inRingBlock b.1 = false) → (∀ p ∈ x.whole, ∃ o, p = .sp target o) →
        ∃ piece ∈ bytes.map (·.1 / 16),
          t = { s with flights := t.flights, wgs := t.wgs, tick := t.tick } ∧ (∀ h, h ≠ target → t.wg h = s.wg h) ∧
          t.flight? f = some { x with kind := .put target (bytes.filter (·.1 / 16 != piece)) [] k n } ∧
          t.wg target = { g with sp := (t.wg target).sp, spPoison := (t.wg target).spPoison, stale := (t.wg target).stale } ∧
          (∀ c ∈ (t.wg target).stale, c ∈ g.stale ∨ ∃ b ∈ bytes, c = (2 ^ 80 + b.1, g.spByte b.1)) ∧
          (∀ b ∈ bytes, b.1 / 16 = piece → memRead (t.wg target).sp b.1 = b.2) ∧
          ∀ i, (∀ b ∈ bytes, b.1 / 16 = piece → b.1 ≠ i) → memRead (t.wg target).sp i = memRead g.sp i))) ∧
  ∃ t, exec (.cwait c e a z) s = .next t ∧
    let g := s.wg s.cur.wg
    let at' := g.window - 256 + 8 * z.toNat
    let count := if g.spPoison.contains (at' / 32) then 0 else Claim.putCounter g z.toNat
    let waits := s.readWaits s.issue.set .consistent (padPlaces s.cur.wg at' 8)
    let least := (s.wsrcPair a.toNat).toNat
    (g.window = 0 → ∃ u, Claim.AllOfE s u { s.record 14 with arg1 := BitVec.ofNat 32 g.wgid } ∧
      t = Claim.withPoint s u true false false false e.toNat) ∧
    (g.window ≠ 0 → waits = true → t = s) ∧
    (g.window ≠ 0 → waits = false → least ≤ count → Claim.Passes (s.refresh s.cur.wg e.toNat) t) ∧
    (g.window ≠ 0 → waits = false → count < least → Claim.Holds s t (Claim.waitOn s [a.toNat, a.toNat + 1]))

/-- R235, R298, R299: a fence passes, and stands from then on between the accesses of its issue set: while the reads before an acquire have
not returned no later access is performed, nor a later write before a release is done, nor anything before FENCE.SC is, or stands half done at gang
or die scope; FENCE.AR and FENCE.SC
take in unordered pages. At thread scope it only passes. SCWAIT holds while a store of the warp has no acknowledgement. -/
def Sys2Proof.Claim.Fences : Prop := ∀ (s : State) (c : BitVec 1) (e : BitVec 3),
  let fence (i : Instr) (a r all sc : Bool) := ∃ t u, exec i s = .next t ∧ Claim.Passes s u ∧ t = Claim.withPoint s u a r all sc e.toNat
  fence (.fenceAcq c e) true false false false ∧ fence (.fenceRel c e) false true false false ∧
  fence (.fenceAr c e) true true true false ∧ fence (.fenceSc c e) true true true true ∧
  (∀ f g a r all sc done, g ∈ s.earlier f.id → g.kind = .fence a r all sc done → g.warp = f.warp → g.set &&& f.who ≠ 0 →
    (all = true ∨ f.page ≠ .unordered) → f.memory = true → f.isCopy = false → f.atCore = false →
    (sc = true ∧ g.soft = 0 ∨ (a = true ∧ done = false) ∨ (r = true ∧ f.writes = true)) → s.canPerform f = false) ∧
  ∃ t, exec (.scwait c) s = .next t ∧
    ((∃ f ∈ s.flights, f.warp = s.issue.warp ∧ f.counted = true) → Claim.Holds s t (Claim.waitOn s [])) ∧
    ((∀ f ∈ s.flights, ¬ (f.warp = s.issue.warp ∧ f.counted = true)) → Claim.Passes s t)

namespace Sys2Proof.Claim

/-! ## Rings and copies (R236 to R241, R263 to R268) -/

/-- R267: a lane that holds in QACQ or QPACQ of ring `q`, once the ring is disabled: it leaves HOLD with the ring fault, or, outside E, at the
next word. -/
def ringStops (x : Lane) (q l : Nat) (handlerMode : Bool) : Lane := match x.wait with
  | .retry _ word pfx kept =>
    let inE := ∀ f, pfx.map Prefix.ofWord = some f → f.me = true → ((mapGet? kept (384 + f.k)).getD 0xFFFFFFFF).getLsbD l = true
    open Classical in
    if inE then traps (leaves x handlerMode) { kind := 15, len2 := pfx.isSome, widx := BitVec.ofNat 32 x.pc, word := word, pfx := pfx.getD 0, arg1 := BitVec.ofNat 32 q }
    else { leaves x handlerMode with pc := if pfx.isSome then x.pc + 2 else x.pc + 1 }
  | _ => x
/-- The workgroup of the issuing warp. -/
def mine (s : State) : Workgroup := s.wg s.cur.wg
/-- An instruction changes its warp and its own workgroup only. -/
structure OwnGroup (s t : State) : Prop where
  rest : t = { s with warps := t.warps, wgs := t.wgs }
  mem : ∀ a, memRead t.mem a = memRead s.mem a
  others : ∀ v, v ≠ s.issue.warp → t.warp v = s.warp v
  groups : ∀ g, g ≠ s.cur.wg → t.wg g = s.wg g
/-- The scratchpad of a workgroup keeps every byte but the counters and cursors of ring `n`'s entry. -/
def RingBytes (g h : Workgroup) (n : Nat) : Prop :=
  h = { g with sp := h.sp, rings := h.rings } ∧ (∀ a, ¬ (g.ringAt n + 8 ≤ a ∧ a < g.ringAt n + 14) → memRead h.sp a = memRead g.sp a) ∧
    ∀ k, k ≠ n → h.ringOf k = g.ringOf k
/-- QACQ and QPACQ: as consumer or not, the register and the ring. -/
inductive Take : Instr → Bool → Nat → Nat → Prop
  | cons (c la d q) : Take (.qacq c la d q) true d.toNat q.toNat
  | prod (c la d q) : Take (.qpacq c la d q) false d.toNat q.toNat
/-- QREL and QPCOMMIT. -/
inductive Give : Instr → Bool → Nat → Nat → Prop
  | cons (c la a q) : Give (.qrel c la a q) true a.toNat q.toNat
  | prod (c la a q) : Give (.qpcommit c la a q) false a.toNat q.toNat
/-- R237, R238: the slots that a release or a commit of a slot makes free or filled: from the oldest on, those marked. -/
def ringFrees (g : Workgroup) (n slot : Nat) (cons : Bool) : List Nat :=
  let c := g.ringCfg n
  (oldestRun (g.ringOf n) (if cons then .consuming else .producing) c.nslot (if cons then c.ccur else c.pcur)).takeWhile
    fun i => (markSet (g.ringOf n).marked slot).contains i
/-- TCOPY and TSTORE, with the number of the register group. -/
inductive Copy : Instr → Bool → Nat → Prop
  | tcopy (c la d) : Copy (.tcopy c la d) false d.toNat
  | tstore (c la d) : Copy (.tstore c la d) true d.toNat
def copyRegs (d : Nat) : List Nat := (List.range 16).map fun i => 16 * d + i
def copyDesc (s : State) (d : Nat) : Option CopyDesc := CopyDesc.ofWords ((copyRegs d).map fun r => (s.wsrc r).toNat)
/-- The bytes from the lowest to the highest global byte of a copy (R240). -/
def CopyDesc.bytes (c : CopyDesc) : Nat := (c.span.2 - c.span.1 + 1).toNat
/-- R239, R286: the elements in scratchpad order, each with its offset; one at an address that its size does not divide goes byte by byte. -/
def copyParts (s : State) (c : CopyDesc) : List (List Place × Nat) := c.addrs.zipIdx.flatMap fun e =>
  let ps := s.placesAt s.curLaunch.asid e.1.toNat c.size
  if (c.size : Int) ∣ e.1 then [(ps, e.2 * c.size)] else ps.zipIdx.map fun p => ([p.1], e.2 * c.size + p.2)
/-- R240: the command as the engine accepts it. -/
def copyCmd (s : State) (c : CopyDesc) (store : Bool) : CopyCmd := {
  store := store, wg := s.cur.wg, ring := c.ring, slot := none, sbase := c.sbase, total := c.total, acq := c.acq, rel := c.rel, scope := c.scope
  elems := copyParts s c
  bar := c.bar.map fun b => (b, s.nextParity b)
  strong := s.orderAt s.curLaunch.asid c.span.1.toNat (CopyDesc.bytes c) == .strong }
/-- R295, R301: a command that moves nothing still has its ordering point. -/
def copyPoint (s u : State) (c : CopyDesc) : State := if c.acq || c.rel then withPoint s u c.acq c.rel false false c.scope else u
/-- R240: the lease grants the whole span of a copy, and no save area lies in it. -/
def copyGranted (s : State) (c : CopyDesc) (store : Bool) : Prop :=
  0 ≤ c.span.1 ∧ s.curLaunch.grantsSpan (if store then .w else .r) c.span.1.toNat (CopyDesc.bytes c) = true ∧
    s.inSaveSpan s.curLaunch.asid c.span.1.toNat (CopyDesc.bytes c) = false
/-- R236, R240: the fault of a copy's scratchpad side. -/
def copyPad (s : State) (c : CopyDesc) : Option TrapRec := match c.ring with
  | some q => if ((mine s).ringCfg q).en = false then some { s.record 15 with arg1 := BitVec.ofNat 32 q }
    else if ((mine s).ringCfg q).size < c.total then some { s.record 6 with cause := 1 } else none
  | none => if (mine s).window < c.sbase + c.total then some { s.record 6 with cause := 1, addr := BitVec.ofNat 64 c.sbase } else none

/-! ## Address programs (R242, R243, R269 to R271, R431) -/

/-- Only one slot of the cores changes. -/
structure SlotOnly (s t : State) (core p : Nat) : Prop where
  rest : t = { s with cores := t.cores }
  cores : ∀ c, t.core c = { s.core c with flint := (t.core c).flint }
  slots : ∀ c q, ¬ (c = core ∧ q = p) → t.flintSlot c q = s.flintSlot c q
/-- An instruction of a program on the program's own registers, with the program after it, but for its counter. -/
inductive ProgOp (p : FlintSlot) : Instr → FlintSlot → Prop
  | xli (c d i) : ProgOp p (.xli c d i) (p.setX d.toNat (i.signExtend 64))
  | xlih (c d i) : ProgOp p (.xlih c d i) (p.setX d.toNat (p.xr d.toNat <<< 10 + i.setWidth 64))
  | xadd (c d a i) : ProgOp p (.xadd c d a i) (p.setX d.toNat (p.xr d.toNat + p.xr a.toNat + i.signExtend 64))
  | xmad (c d a i) : ProgOp p (.xmad c d a i) (p.setX d.toNat (p.xr d.toNat + p.xr a.toNat * i.signExtend 64))
  | xloopSet (c k a) : ProgOp p (.xloopSet c k a) { p with n := mapSet p.n k.toNat ((p.xr a.toNat).setWidth 32) }
  | xend (c) : ProgOp p (.xend c) { p with status := .stopped }
/-- R410, R431: the record of a program's fault. -/
def faultRec (s : State) (core p cause : Nat) (word : Word) (addr : DWord) : TrapRec :=
  { kind := 16, cause := cause, async := true, word := word, addr := (s.flintSlot core p).pc, arg1 := BitVec.ofNat 32 p, arg2 := addr.setWidth 32 }
/-- R431: the program of a slot has faulted: it stands on the instruction, and the lane that reports it has the trap pending; with no warp
left, the launch is to end. -/
structure Faulted (s t : State) (core p cause : Nat) (word : Word) (addr : DWord) : Prop where
  slot : t.flintSlot core p = { s.flintSlot core p with status := .faulted, waitsOn := none }
  slots : ∀ c q, ¬ (c = core ∧ q = p) → t.flintSlot c q = s.flintSlot c q
  kept : BytesKept s t
  report : ∀ w l, s.flintReport? (s.flintSlot core p).owner = some (w, l) →
    t = { s with cores := t.cores, warps := t.warps } ∧ (∀ v, v ≠ w → t.warp v = s.warp v) ∧ t.warp w = (s.warp w).setLane l
      (traps ((s.warp w).lane l) (faultRec s core p cause word addr))
  ending : s.flintReport? (s.flintSlot core p).owner = none → t.warps = s.warps ∧
    ∀ i, i = (s.wg (s.flintSlot core p).owner).launch → (mapGet? s.launches i).isSome = true → (t.launch i).phase = .ending
/-- XFETCH and XSTORE: as consumer or not, the register, the count of groups and the ring. -/
inductive Move : Instr → Bool → Nat → Nat → Nat → Prop
  | fetch (c a g q) : Move (.xfetch c a g q) false a.toNat g.toNat q.toNat
  | store (c a g q) : Move (.xstore c a g q) true a.toNat g.toNat q.toNat
inductive Signal : Instr → Bool → Nat → Prop
  | fill (c q) : Signal (.xsigFill c q) false q.toNat
  | free (c q) : Signal (.xsigFree c q) true q.toNat
/-- The slot of a ring that a program holds. -/
def heldSlot (p : FlintSlot) (cons : Bool) (q : Nat) : Option HeldSlot := mapGet? (if cons then p.cons else p.prod) q

end Sys2Proof.Claim

/-- R236 to R238, R294 to R296: QACQ and QPACQ take the slot at the cursor, or hold while the counter is zero or an earlier request waits; QREL
and QPCOMMIT give back a slot that was taken, once the accesses that the release covers are performed, and every slot that is then free or
filled in order is counted. -/
def Sys2Proof.Claim.RingSlots : Prop := ∀ (s : State) (i : Instr) (cons : Bool) (r q : Nat), s.memoryWf →
  let b := s.markOut
  let g := Claim.mine s
  let c := g.ringCfg q
  let ringRec := { s.record 15 with arg1 := BitVec.ofNat 32 q }
  let none' := (if cons then c.filled else c.free) = 0 ∨ s.ringTurn s.cur.wg q cons s.turn = false
  (Claim.Take i cons r q → ∃ t, exec i s = .next t ∧
    (s.acts = false → ∃ u, Claim.Passes b u ∧ t = Claim.withPoint b u true false false false 2) ∧
    (s.acts = true → c.en = false → ∃ u, Claim.AllOfE b u ringRec ∧ t = Claim.withPoint b u true false false false 2) ∧
    (s.acts = true → c.en = true → none' → Claim.Holds b t (Claim.waitOn b [])) ∧
    (s.acts = true → c.en = true → ¬ none' → c.nslot ≠ 0 →
      Claim.OwnGroup b t ∧ LanesPass b t s.gens noFlags ∧ t.cur = { b.cur with lanes := t.cur.lanes, wregs := t.cur.wregs } ∧
      t.cur.wreg r = BitVec.ofNat 32 (c.base + c.size * (if cons then c.ccur else c.pcur)) ∧ (∀ j, j ≠ r → t.cur.wreg j = s.cur.wreg j) ∧
      Claim.RingBytes g (t.wg s.cur.wg) q ∧
      (t.wg s.cur.wg).ringCfg q = (if cons then { c with filled := c.filled - 1, ccur := (c.ccur + 1) % c.nslot }
        else { c with free := c.free - 1, pcur := (c.pcur + 1) % c.nslot }) ∧
      ((t.wg s.cur.wg).ringOf q).slot (if cons then c.ccur else c.pcur) = (if cons then .consuming else .producing))) ∧
  (Claim.Give i cons r q → ∃ t, exec i s = .next t ∧
    (s.releaseWaits 2 = true → t = s) ∧ (s.releaseWaits 2 = false →
    let slot := c.slotAt? (s.cur.wreg r).toNat
    (s.acts = false → Claim.Passes b t) ∧
    (s.acts = true → (c.en = false ∨ slot = none ∨ ∃ k, slot = some k ∧ (g.ringOf q).slot k ≠ (if cons then .consuming else .producing)) →
      Claim.AllOfE b t ringRec) ∧
    ∀ k, s.acts = true → c.en = true → slot = some k → (g.ringOf q).slot k = (if cons then .consuming else .producing) →
      let n := (Claim.ringFrees g q k cons).length
      Claim.OwnGroup b t ∧ LanesPass b t s.gens noFlags ∧ t.cur = { b.cur with lanes := t.cur.lanes } ∧ Claim.RingBytes g (t.wg s.cur.wg) q ∧
      (t.wg s.cur.wg).ringCfg q = (if cons then { c with free := (c.free + n) % 2 ^ 16 } else { c with filled := (c.filled + n) % 2 ^ 16 }) ∧
      (∀ j ∈ Claim.ringFrees g q k cons, ((t.wg s.cur.wg).ringOf q).slot j = if cons then .free else .filled) ∧
      ∀ j, j ∉ Claim.ringFrees g q k cons → ((t.wg s.cur.wg).ringOf q).slot j = (g.ringOf q).slot j))

/-- R267: a tile operation whose ring `q` is reconfigured: a K-step that is under way keeps its slots' addresses and no longer gives them
back; where the new configuration is not valid, the operation stops once that K-step has been placed. -/
def Sys2Proof.Claim.tileCut (o : TileOp) (q : Nat) (ok : Bool) : TileOp :=
  if o.inFlight = true ∧ o.uses q = true then
    { o with panels := o.panels.map fun p =>
        { p with voidA := p.voidA || Claim.TileOp.fld o 0 0 3 == q, voidB := p.voidB || Claim.TileOp.fld o 0 4 3 == q }
             inFlight := ok || o.panels.isSome, stopped := if ok then o.stopped else some q }
  else o
/-- R267, R295: a write of word 1 of a ring's entry makes the ring empty and free when its new configuration is valid, and disables it else, which
stops the tile operations that use it before their next K-step and ends the holds of QACQ and QPACQ on it, with the acquire of each such
instruction; commits and releases of slots that were taken before have no effect on it. An operation that stops raises IV of the products that
it placed (the moment is the model's choice, log entry 68). -/
def Sys2Proof.Claim.RingReconfiguration : Prop := ∀ (s : State) (w ring : Nat), s.memoryWf → ∃ t, exec (.ringReconfigure w ring) s = .next t ∧
  let g := s.wg w
  let q := ring % 8
  let c := g.ringCfg q
  let ok := c.en && g.ringValid q
  let raises (o : TileOp) := o.inFlight = true ∧ (Claim.tileCut o q ok).inFlight = false ∧ o.iv = true
  let waits (v l : Nat) := (∃ e ∈ s.warps, e.1 = v ∧ e.2.wg = w) ∧ (((s.warp v).lane l).acquiring? q).isSome = true
  let cut (f : Flight) := match f.kind with
    | .copy d => if d.wg = w ∧ d.ring = some q ∧ d.slot.isSome = true then { f with kind := .copy { d with void := true } } else f
    | _ => f
  (g.window = 0 → t = s) ∧ (g.window ≠ 0 →
    t = { s with warps := t.warps, wgs := t.wgs, flights := t.flights, cores := t.cores, nextId := t.nextId } ∧ (∀ h, h ≠ w → t.wg h = s.wg h) ∧
    (t.wg w) = { g with sp := (t.wg w).sp, rings := (t.wg w).rings, tags := (t.wg w).tags } ∧
    (∀ a, ¬ (g.ringAt q + 7 ≤ a ∧ a < g.ringAt q + 14) → memRead (t.wg w).sp a = memRead g.sp a) ∧
    (t.wg w).ringOf q = {} ∧ (∀ j, j ≠ q → (t.wg w).ringOf j = g.ringOf j) ∧
    (ok = true → (t.wg w).ringCfg q = { c with free := c.nslot, filled := 0, pcur := 0, ccur := 0 }) ∧
    (ok = false → ((t.wg w).ringCfg q).en = false) ∧
    (∀ k ∈ g.tags.map Prod.fst, Claim.tagOp t w k = Claim.tileCut (Claim.tagOp s w k) q ok) ∧
    (∀ v, (∀ e ∈ g.tags, raises e.2 → e.2.warp ≠ v) → t.warp v = { s.warp v with lanes := (t.warp v).lanes } ∧ ∀ l < 32,
      (ok = false → waits v l → (t.warp v).lane l = Claim.ringStops ((s.warp v).lane l) q l (s.warp v).handlerMode) ∧
      (ok = true ∨ ¬ waits v l → (t.warp v).lane l = (s.warp v).lane l)) ∧
    (∀ e ∈ g.tags, raises e.2 → (t.warp e.2.warp).mode = modeRaise (s.warp e.2.warp).mode flIV) ∧
    ∃ fs : List Flight, t.flights = s.flights.map cut ++ fs ∧ t.nextId = s.nextId + fs.length ∧ (ok = true → fs = []) ∧
      (∀ f ∈ fs, f.kind = .fence true false false false false ∧ f.scope = 2 ∧ ∀ l < 32, f.set.getLsbD l = true → waits f.warp l) ∧
      (ok = false → ∀ v, ∀ l < 32, waits v l → ∃ f ∈ fs, f.warp = v ∧ f.set.getLsbD l = true))

/-- R239, R240, R295: TCOPY and TSTORE accept a command whole, hold while the engine's queue is full, or take the command's fault in every lane
of E; no byte has moved. -/
def Sys2Proof.Claim.CopiesIssue : Prop := ∀ (s : State) (i : Instr) (store : Bool) (d : Nat), Claim.Copy i store d → ∃ t, exec i s = .next t ∧
  let b := s.markOut
  let k := if store then Acc.w else .r
  BytesKept s t ∧
  (s.acts = false → ∃ u, Claim.Passes b u ∧ t = (match Claim.copyDesc s d with
    | some c => Claim.copyPoint b u c
    | none => u)) ∧
  (s.acts = true → Claim.copyDesc s d = none → Claim.AllOfE b t (s.record 10)) ∧
  ∀ c, s.acts = true → Claim.copyDesc s d = some c →
    (¬ Claim.copyGranted s c store → (s.eff ≠ 0 → 4 ∈ t.curLaunch.causes) ∧ ∀ l < 32, s.inE l = true → t.cur.lane l =
      Claim.traps (b.cur.lane l) { s.record 7 with addr := BitVec.ofInt 64 c.span.1, arg1 := BitVec.ofNat 32 k.code }) ∧
    (∀ r, Claim.copyGranted s c store → Claim.copyPad s c = some r → ∃ u, Claim.AllOfE b u r ∧ t = Claim.copyPoint b u c) ∧
    (Claim.copyGranted s c store → Claim.copyPad s c = none → s.copyFull = true → Claim.Holds b t (Claim.waitOn b (Claim.copyRegs d))) ∧
    (Claim.copyGranted s c store → Claim.copyPad s c = none → s.copyFull = false →
      LanesPass b t s.gens noFlags ∧ t.cur = { b.cur with lanes := t.cur.lanes } ∧ (∀ v, v ≠ s.issue.warp → t.warp v = s.warp v) ∧
      t = { b with warps := t.warps, flights := t.flights, nextId := s.nextId + 1 } ∧
      ∃ f : Flight, t.flights = s.flights ++ [f] ∧ f.id = s.nextId ∧ f.warp = s.issue.warp ∧ f.who = s.issue.set ∧ f.counted = true ∧
        f.windows = [] ∧ f.acq = c.acq ∧ f.rel = c.acq ∧ f.scope = c.scope ∧ f.kind = .copy (Claim.copyCmd s c store))

/-- R239, R240: every element of a copy lies between the lowest and the highest global byte, and there is one for each point of the extents. -/
def Obligations.CopySpan : Prop := ∀ (ws : List Nat) (c : CopyDesc), CopyDesc.ofWords ws = some c →
  c.addrs.length * c.size = c.total ∧ c.total ≤ 2 ^ 20 ∧ ∀ a ∈ c.addrs, c.span.1 ≤ a ∧ a + c.size ≤ c.span.2 + 1

/-- R241, R312: `n` landed bytes of a command count on its barrier, and on no other. -/
def Sys2Proof.Claim.Counted (s t : State) (c : CopyCmd) (n : Nat) : Prop :=
  (∀ b p, c.bar = some (b, p) → Claim.Completion t (.wg c.wg b) (if p % 2 = 1
    then { s.bar (.wg c.wg b) with count1 := (s.bar (.wg c.wg b)).count1 - BitVec.ofNat 32 n }
    else { s.bar (.wg c.wg b) with count0 := (s.bar (.wg c.wg b)).count0 - BitVec.ofNat 32 n })) ∧
  ∀ j, c.bar.map Prod.fst ≠ some j → t.bar (.wg c.wg j) = s.bar (.wg c.wg j)
/-- The 32 aligned bytes that a place lies in. -/
def Sys2Proof.Claim.granuleOf : Place → List Place
  | .mem a via => (List.range 32).map fun i => .mem (a / 32 * 32 + i) via
  | .sp g off => (List.range 32).map fun i => .sp g (off / 32 * 32 + i)
  | .gone => [.gone]
/-- R238, R268: a command without a slot takes the one at the cursor, in the order of the requests of its ring. -/
def Sys2Proof.Claim.CopySlots : Prop := ∀ (s : State) (f : Nat) (x : Flight) (c : CopyCmd) (q : Nat), s.flight? f = some x → x.kind = .copy c →
  c.ring = some q → c.slot = none → ∃ t, exec (.copySlotAcquire f) s = .next t ∧
  let g := s.wg c.wg
  let r := g.ringCfg q
  let goes := g.resident = true ∧ r.en = true ∧ s.ringTurn c.wg q c.store f = true ∧ (if c.store then r.filled else r.free) ≠ 0
  (¬ goes → t = s) ∧ (goes →
    let n := if c.store then r.ccur else r.pcur
    t = { s with wgs := t.wgs, flights := t.flights } ∧ (∀ h, h ≠ c.wg → t.wg h = s.wg h) ∧
    t.flight? f = some { x with kind := .copy { c with slot := some (n, r.base + r.size * n) } } ∧
    ((t.wg c.wg).ringOf q).slot n = if c.store then .consuming else .producing)
/-- R241, R289, R301, R312, R459: each step of a command moves one element, any of those left, on a strong page the first, and counts its bytes
on the barrier; once none is left the command gives its slot back and is acknowledged. With REL that waits for what the release covers, and the
bytes count then (the order of the two rules is the model's choice, log entry 89). A granule that the elements have written whole loses its
mark (log entry 56). -/
def Sys2Proof.Claim.CopiesProceed : Prop := ∀ (s : State) (f : Nat) (x : Flight) (c : CopyCmd) (start : Nat), s.flight? f = some x →
  x.kind = .copy c → c.start? = some start → ∃ t, exec (.copyBytesLand f) s = .next t ∧
  let goes := s.canPerform x = true ∧ s.programWaits x c = false
  (¬ goes → t = s) ∧
  (goes → c.elems ≠ [] → s.dev.cxl = [] → s.memoryWf → ∃ k < c.elems.length, (c.strong = true → k = 0) ∧ ∀ e, c.elems[k]? = some e →
    let now := if c.strong then s else { s with tick := s.tick + 1 }
    let u := if c.acq && !c.begun then now.refresh c.wg c.scope else now
    let pad := padPlaces c.wg (start + e.2) e.1.length
    let src := if c.store then pad else e.1
    let dst := if c.store then e.1 else pad
    Claim.Quiet s (pad ++ e.1) → (dst.map Claim.bare).Nodup → (∀ p ∈ src, (u.viewByte c.wg p).2 = false) →
      t = { s with flights := t.flights, mem := t.mem, poison := t.poison, wgs := t.wgs, dev := t.dev, cores := t.cores, tick := t.tick, hist := t.hist } ∧
      (∀ h, t.wg h = { s.wg h with sp := (t.wg h).sp, spPoison := (t.wg h).spPoison, stale := (t.wg h).stale, bars := (t.wg h).bars }) ∧
      (c.rel = false → Claim.Counted s t c e.1.length) ∧ (c.rel = true → ∀ j, t.bar (.wg c.wg j) = s.bar (.wg c.wg j)) ∧
      (t.core (s.wg c.wg).core).landed = (s.core (s.wg c.wg).core).landed + BitVec.ofNat 64 e.1.length ∧
      Claim.Writes s t (dst.zip (src.map fun p => (u.viewByte c.wg p).1)) ∧
      (∃ fr, t.flight? f = some { x with kind := .copy { c with elems := c.elems.eraseIdx k, fresh := fr, begun := true } } ∧
        ((∀ p ∈ dst, s.placePoisoned p = false) → fr = c.fresh.filter fun p => !dst.contains p)) ∧
      ∀ p ∈ dst, Claim.lands s p = true → (∀ q ∈ Claim.granuleOf p, q ∈ dst ++ c.fresh) → t.placePoisoned p = false) ∧
  (goes → c.elems = [] →
    let done := c.rel = false ∨ s.released (s.earlier f) x.wg x.warp x.set c.scope = true
    (¬ done → t = s) ∧ (done →
      t = { s with wgs := t.wgs, flights := s.flights.filter (·.id != f) } ∧ (∀ h, h ≠ c.wg → t.wg h = s.wg h) ∧
      (c.rel = true → Claim.Counted s t c c.total) ∧ (c.rel = false → ∀ j, t.bar (.wg c.wg j) = s.bar (.wg c.wg j)) ∧
      { t.wg c.wg with bars := (s.wg c.wg).bars } = match c.ring, c.slot with
        | some q, some y => if c.void then s.wg c.wg else (s.wg c.wg).ringDone q y.1 c.store
        | _, _ => s.wg c.wg))

/-- R242, R294, R410: APSTART starts a program in a slot whose program has ended, with its code and x0, once the accesses that it covers as a
release are performed, and its L1 gives the program no older value of an ordered page; APSTOP stops one. -/
def Sys2Proof.Claim.ProgramsStart : Prop := ∀ (s : State) (c : BitVec 1) (la : BitVec 4) (p : BitVec 2) (a : BitVec 4),
  let b := s.markOut
  let old := s.flintSlot s.cur.core p.toNat
  let code := s.cur.wpair (2 * a.toNat)
  let live := old.status = .running ∨ old.status = .waiting
  let bad (k : Nat) (pc addr : DWord) := { s.record 16 with cause := k, widx := 0, addr := pc, arg1 := BitVec.ofNat 32 p.toNat, arg2 := addr.setWidth 32 }
  let with' (t : State) (x : FlintSlot) := LanesPass b t s.gens noFlags ∧ BytesKept s t ∧
    t = { b with warps := t.warps, cores := t.cores, wgs := t.wgs } ∧ (∀ v, v ≠ s.issue.warp → t.warp v = s.warp v) ∧ t.cur = { b.cur with lanes := t.cur.lanes } ∧
    t.flintSlot s.cur.core p.toNat = x ∧ ∀ k q, ¬ (k = s.cur.core ∧ q = p.toNat) → t.flintSlot k q = s.flintSlot k q
  (∃ t, exec (.apstart c la p a) s = .next t ∧ (s.releaseWaits 5 = true → t = s) ∧ (s.releaseWaits 5 = false →
    (s.acts = false → Claim.Passes b t) ∧ (s.acts = true → live → Claim.AllOfE b t (bad 5 old.pc 0)) ∧
    (s.acts = true → ¬ live → code.toNat % 4 ≠ 0 → Claim.AllOfE b t (bad 1 code code)) ∧
    (s.acts = true → ¬ live → code.toNat % 4 = 0 →
      with' t { owner := s.cur.wg, status := .running, pc := code, x := [(0, s.cur.wpair (2 * a.toNat + 2))] } ∧
      ∀ g, t.wg g = if g = s.cur.wg then { s.wg g with stale := (s.wg g).stale.filter fun e => s.outlives 5 false e.1 } else s.wg g))) ∧
  ∃ t, exec (.apstop c la p) s = .next t ∧ (s.acts = false ∨ ¬ live → Claim.Passes b t) ∧
    (s.acts = true → live → with' t { old with status := .stopped, waitsOn := none } ∧ t.wgs = s.wgs)

/-- R243, R270: the instructions of address programs on their own registers; XLOOP counts from its own word. -/
def Sys2Proof.Claim.ProgramSteps : Prop := ∀ s : State,
  (∀ i x, Claim.ProgOp s.prog i x → ∃ t, exec i s = .next t ∧ Claim.SlotOnly s t s.flintAt.1 s.flintAt.2 ∧ t.prog = { x with pc := s.prog.pc + 4 }) ∧
  ∀ (c : BitVec 1) (k : BitVec 2) (o : BitVec 10), ∃ t, exec (.xloop c k o) s = .next t ∧ Claim.SlotOnly s t s.flintAt.1 s.flintAt.2 ∧
    let n := mapGet s.prog.n k.toNat 0 - 1
    t.prog = { s.prog with n := mapSet s.prog.n k.toNat n, pc := if n = 0 then s.prog.pc + 4 else s.prog.pc + 4 * o.signExtend 64 }

/-- R238, R243: the slot of a ring that a program's transfer uses: the one it holds, or else the one at the ring's cursor, while the ring is
enabled and has one, and no earlier request waits. -/
def Sys2Proof.Claim.ProgramSlots : Prop := ∀ (s : State) (q : Nat) (cons : Bool),
  let p := s.prog
  let c := (s.wg p.owner).ringCfg q
  let goes := c.en = true ∧ s.ringTurn p.owner q cons (p.turn s.nextId) = true ∧ (if cons then c.filled else c.free) ≠ 0
  let n := if cons then c.ccur else c.pcur
  (∀ h, Claim.heldSlot p cons q = some h → s.progSlot q cons = some (h, s)) ∧
  (Claim.heldSlot p cons q = none → ¬ goes → s.progSlot q cons = none) ∧
  (Claim.heldSlot p cons q = none → goes → ∃ u, s.progSlot q cons = some ({ slot := n, off := 0, addr := c.base + c.size * n, size := c.size }, u) ∧
    u = { s with wgs := u.wgs } ∧ (∀ g, g ≠ p.owner → u.wg g = s.wg g) ∧
    ((u.wg p.owner).ringOf q).slot n = if cons then .consuming else .producing)
/-- R243, R271, R291: the accesses of a transfer, 32 bytes each, by the ordering kind of their pages: those of one kind are one access on its
way. -/
def Sys2Proof.Claim.transferParts (s : State) (asid va g : Nat) : List (OrdKind × List Nat) :=
  ([OrdKind.strong, .consistent, .unordered].map fun k => (k, (List.range g).filter fun i => s.orderAt asid (va + 32 * i) 32 == k)).filter
    fun e => !e.2.isEmpty
/-- R243, R271, R291, R302, R403: a transfer of an address program is checked, takes its slot and its place in the tracker, and is on its way, 32
bytes at a time under the kinds of their pages, or waits, or faults; the signals give the held slot back once the program's own transfers with it have been performed. -/
def Sys2Proof.Claim.ProgramTransfers : Prop := ∀ s : State,
  let p := s.prog
  let x := s.launch (s.wg p.owner).launch
  let at' := s.flintAt
  let fault (u t : State) (k : Nat) (a : DWord) := Claim.Faulted u t at'.1 at'.2 k s.issue.word a
  (∀ i cons a g q, Claim.Move i cons a g q → ∃ t, exec i s = .next t ∧
    let va := p.xr a
    let n := 32 * g
    let granted := x.grants (if cons then .w else .r) va.toNat n = true ∧ s.inSaveSpan x.asid va.toNat n = false
    let ok := g ≠ 0 ∧ va.toNat % 32 = 0 ∧ granted
    let lines := (va.toNat + n + 127) / 128 - va.toNat / 128
    (g = 0 → fault s t 0 0) ∧ (g ≠ 0 → va.toNat % 32 ≠ 0 → fault s t 1 va) ∧
    (g ≠ 0 → va.toNat % 32 = 0 → ¬ granted → fault (s.markCause (s.wg p.owner).launch 4) t 2 va) ∧
    (ok → s.progSlot q cons = none → Claim.SlotOnly { s with nextId := s.nextId + 1 } t at'.1 at'.2 ∧
      t.prog = { p with status := .waiting, waitsOn := some (.slot q cons (p.turn s.nextId)) }) ∧
    ∀ h u, ok → s.progSlot q cons = some (h, u) →
      (h.size < h.off + n → ∃ v, Claim.SlotOnly u v at'.1 at'.2 ∧ v.prog = p.hold q cons h ∧ fault v t 3 va) ∧
      let room := (u.trackerRoom at'.1 lines).1
      let z := (u.trackerRoom at'.1 lines).2
      z = { u with tick := z.tick } ∧ (u.outstanding at'.1 + lines ≤ 2048 → room = true ∧ z = u) ∧
      (h.off + n ≤ h.size → room = false → Claim.SlotOnly z t at'.1 at'.2 ∧
        t.prog = { p.hold q cons h with status := .waiting, waitsOn := some (.room lines) }) ∧
      (h.off + n ≤ h.size → room = true →
        t.prog = { p.hold q cons { h with off := h.off + n } with pc := p.pc + 4 } ∧
        let parts := Claim.transferParts s x.asid va.toNat g
        ∃ fs : List Flight, Claim.SlotOnly { z with flights := z.flights ++ fs, nextId := z.nextId + fs.length } t at'.1 at'.2 ∧
          fs.length = parts.length ∧ ∀ j e, parts[j]? = some e → ∃ f, fs[j]? = some f ∧
          f.id = z.nextId + j ∧ f.warp = 0 ∧ f.wg = p.owner ∧ f.acq = false ∧ f.rel = false ∧ f.page = e.1 ∧ f.kind = .copy {
            store := cons, wg := p.owner, ring := none, slot := none, sbase := h.addr + h.off, flint := some (at'.1, at'.2, q, cons)
            elems := e.2.map fun k => (z.placesAt x.asid (va.toNat + 32 * k) 32, 32 * k)
            total := 32 * e.2.length, acq := false, rel := false, scope := 5, bar := none, strong := e.1 == .strong })) ∧
  ∀ i cons q, Claim.Signal i cons q → ∃ t, exec i s = .next t ∧
    (Claim.heldSlot p cons q = none → fault s t 4 0) ∧
    ∀ h, Claim.heldSlot p cons q = some h →
      (s.moving at' q cons = true → Claim.SlotOnly s t at'.1 at'.2 ∧ t.prog = { p with status := .waiting, waitsOn := some (.moved q cons) }) ∧
      (s.moving at' q cons = false →
        t = { s with cores := t.cores, wgs := t.wgs } ∧ (∀ c q, (c, q) ≠ at' → t.flintSlot c q = s.flintSlot c q) ∧
        t.prog.pc = p.pc + 4 ∧ t.prog.x = p.x ∧ t.prog.status = p.status ∧
        t.wg p.owner = (if h.void then s.wg p.owner else (s.wg p.owner).ringDone q h.slot cons) ∧ ∀ g, g ≠ p.owner → t.wg g = s.wg g)

/-- R270, R271, R403, R412, R419, R431: a word of a running program that is no instruction of programs, or cannot be fetched, faults the program,
and marks the launch where its lease does not grant the word; a program that waits, of a workgroup that is resident and not being drained, runs
again once what it waits for is there, a slot being taken for it at once. -/
def Sys2Proof.Claim.ProgramEvents : Prop := ∀ (s : State) (core p : Nat),
  let x := s.flintSlot core p
  (∃ t, exec (.flintIllegalInstruction core p) s = .next t ∧ (x.status ≠ .running → t = s) ∧
    (x.status = .running → Claim.Faulted s t core p 0 (if s.issue.flint = some (core, p) then s.issue.word else 0) 0)) ∧
  (∃ t, exec (.flintCodeFetchFault core p) s = .next t ∧ (x.status ≠ .running → t = s) ∧ (x.status = .running →
    let i := (s.wg x.owner).launch
    let y := s.launch i
    let granted := y.grants .r x.pc.toNat 4 = true ∧ s.inSaveSpan y.asid x.pc.toNat 4 = false
    (granted → Claim.Faulted (s.vnote y.asid x.pc.toNat 4) t core p 2 0 x.pc) ∧ (¬ granted → Claim.Faulted (s.markCause i 4) t core p 2 0 x.pc))) ∧
  ∃ t, exec (.flintRequestResume core p) s = .next t ∧
    let g := s.wg x.owner
    let on := x.status = .waiting ∧ g.resident = true ∧ s.wgDrains x.owner = false
    let runs := { x with status := .running, waitsOn := none }
    (¬ on ∨ x.waitsOn = none → t = s) ∧
    (∀ q cons seq, on → x.waitsOn = some (.slot q cons seq) →
      let c := g.ringCfg q
      let n := if cons then c.ccur else c.pcur
      let there := c.en = true ∧ s.ringTurn x.owner q cons seq = true ∧ (if cons then c.filled else c.free) ≠ 0
      (¬ there → t = s) ∧ (there → t = { s with cores := t.cores, wgs := t.wgs } ∧
        t.flintSlot core p = runs.hold q cons { slot := n, off := 0, addr := c.base + c.size * n, size := c.size } ∧
        (∀ k j, ¬ (k = core ∧ j = p) → t.flintSlot k j = s.flintSlot k j) ∧
        (∀ h, h ≠ x.owner → t.wg h = s.wg h) ∧ ((t.wg x.owner).ringOf q).slot n = if cons then .consuming else .producing)) ∧
    (∀ n, on → x.waitsOn = some (.room n) → Claim.SlotOnly s t core p ∧ t.flintSlot core p = runs) ∧
    ∀ q cons, on → x.waitsOn = some (.moved q cons) →
      (s.moving (core, p) q cons = true → t = s) ∧ (s.moving (core, p) q cons = false → Claim.SlotOnly s t core p ∧ t.flintSlot core p = runs)

namespace Sys2Proof.Claim

/-! ## Class 0xC (R244 to R249, R258 to R260) -/

/-- An instruction changes its warp by a function, once per issue. -/
def OnceWarp (s b t : State) (w : Warp) : Prop :=
  (s.acts = false → Passes b t) ∧ (s.acts = true → OnlyWarp b t ∧ LanesPass b t s.gens noFlags ∧ t.cur = { w with lanes := t.cur.lanes })
/-- A uniform register receives a value, once per issue. -/
def OnceReg (s t : State) (r : Nat) (v : Word) : Prop :=
  (s.acts = false → Passes s t) ∧ (s.acts = true → UniResult s t [r] (fun _ => v) none s.cur.wc)
/-- The value written to MODE by each form of MODESET (R245). -/
inductive ModeSet (m : Word) : Instr → Word → Prop
  | write (c x) : ModeSet m (.modesetWrite c x) ((m &&& 0xFFFFC000) ||| x.setWidth 32)
  | or (c x) : ModeSet m (.modesetOr c x) (m ||| x.setWidth 32)
  | andn (c x) : ModeSet m (.modesetAndn c x) (m &&& ~~~(x.setWidth 32))
  | ten (c x) : ModeSet m (.modesetTen c x) ((m &&& 0xFFC0FFFF) ||| x.setWidth 32 <<< 16)
/-- R245: the counters that PERFRD reads. -/
def counter (s : State) (n : Nat) : DWord := match n with
  | 0 => (s.core s.cur.core).clocks
  | 1 => s.cur.issued
  | 2 => s.cur.cuts
  | 3 => s.cur.violations
  | 4 => (s.core s.cur.core).fused
  | 5 => (s.core s.cur.core).skipped
  | 6 => (s.core s.cur.core).landed
  | 7 => s.cur.refusals
  | _ => 0
/-- R103, R259, R260: the record of the register-overflow trap for `n` rows. -/
def rowsRec (s : State) (n : Nat) : TrapRec := { s.record 4 with arg1 := BitVec.ofNat 32 n, arg2 := BitVec.ofNat 32 s.cur.budget }

/-! ## Traps (R405 to R413) -/

/-- R409: a handler lane of the issue set has returned and is parked. -/
def returned (s : State) (adv l : Nat) : Lane :=
  let x := s.cur.lane l
  if s.inSet l = true ∧ x.handler = true then
    { x with pc := x.trapPc + (if adv = 0 then 0 else if adv = 1 then 1 else if x.trapLen2 then 2 else 1), handler := false, parked := true, status := .hold, wait := .none,
             sync := if adv = 0 then x.sync else none }
  else x
/-- A lane when handler mode ends: parked lanes run, and each has the region it had before the entry. -/
def resumed (x : Lane) : Lane :=
  let y := { x with region := x.regionBefore, handler := false }
  if y.parked then { y with parked := false, status := .run } else y
/-- R152, R163: the trap that a lane takes at an entry; one that waits in JOIN takes none. -/
def taking (x : Lane) : Option TrapRec := if x.status = .join then none else x.trap
/-- R405 step 4, R410: a lane at the entry to handler mode. -/
def entered (x : Lane) (entry : Nat) (frame : DWord) : Lane :=
  match taking x with
  | some r => { x with
      trap := none, handler := true, parked := false, status := .run, wait := .none, trapPc := x.pc, trapLen2 := r.len2
      record := r.words frame, pc := entry, regionBefore := x.region }
  | none =>
    let y := { x with record := x.record.set 0 0, regionBefore := x.region, unpended := x.status == .hold }
    if x.status = .run then { y with status := .hold, parked := true } else y
/-- R405, R408: the lanes of a warp whose trap is taken: in handler mode only handler lanes. -/
def trapLane (w : Warp) (l : Nat) : Bool := (taking (w.lane l)).isSome && (w.handlerMode == (w.lane l).handler)
/-- A warp whose trap may be taken now (R58, R405, R429). -/
def mayTrap (s : State) (w : Nat) : Prop :=
  (∃ l < 32, trapLane (s.warp w) l = true) ∧
  (s.warp w).ended = false ∧ (s.warp w).halted = false ∧ (s.warp w).resident = true ∧ (s.warp w).evicted = false ∧ s.latencyPending w = false
/-- A record of the save area is written, and what goes with writes of memory; the rest of the state is `u`'s. -/
def Wrote (u t : State) : Prop := t = { u with mem := t.mem, poison := t.poison, wgs := t.wgs, dev := t.dev, tick := t.tick, hist := t.hist }

end Sys2Proof.Claim

/-- NOP, and the system registers (R244): read and written where the level allows, with the privilege fault elsewhere. -/
def Sys2Proof.Claim.SystemRegisters : Prop := ∀ (s : State) (c : BitVec 1) (p : BitVec 8) (m : BitVec 14),
  let priv := { s.record 17 with arg1 := BitVec.ofNat 32 m.toNat }
  let v := s.cur.wreg p.toNat
  let b := s.markOut
  (∃ t, exec (.nop c) s = .next t ∧ Claim.Passes s t) ∧
  (∃ t, exec (.sysrd c p m) s = .next t ∧
    (sysAccess m.toNat s.level = none → (s.acts = false → Claim.Passes s t) ∧ (s.acts = true → Claim.AllOfE s t priv)) ∧
    (sysAccess m.toNat s.level ≠ none → Claim.OnceReg s t p.toNat (s.sysRead m.toNat))) ∧
  ∃ t, exec (.syswr c p m) s = .next t ∧ (s.acts = false → Claim.Passes b t) ∧
    (s.acts = true → sysAccess m.toNat s.level ≠ some true → Claim.AllOfE b t priv) ∧
    (s.acts = true → sysAccess m.toNat s.level = some true →
      let off : Bool := m == 0x030 && v.getLsbD 1
      t = { b with warps := t.warps, cores := t.cores, launches := t.launches } ∧ BytesKept s t ∧ LanesPass b t s.gens noFlags ∧
      (∀ x, x ≠ s.issue.warp → t.warp x = { s.warp x with latch := if off = true ∧ (s.warp x).core = s.cur.core then [] else (s.warp x).latch }) ∧
      t.cur = { b.cur with
        latch := if off then [] else s.cur.latch, lanes := t.cur.lanes, mode := if m = 0x000 then modeStored v else s.cur.mode, mfmt := if m = 0x001 then v &&& 0x3FF else s.cur.mfmt
        wc := if m = 0x002 then v &&& 3 else s.cur.wc
        tba := if m = 0x020 then (s.cur.tba >>> 32).setWidth 32 ++ v else if m = 0x021 then v ++ s.cur.tba.setWidth 32 else s.cur.tba } ∧
      (∀ k, t.core k = if m = 0x030 ∧ k = s.cur.core then { s.core k with issueCtl := v &&& 7 } else s.core k) ∧
      ∀ k, t.launch k = if m = 0x040 ∧ k = s.cur.launch
        then { s.launch k with render := (s.launch k).render.map fun r => { r with threshold := v &&& 0xFFFF } } else s.launch k)

/-- R72, R245: the forms of MODESET, RNGSEED, QUERY and PERFRD. A counter that depends on timing has a value that the model leaves free. -/
def Sys2Proof.Claim.ModesAndQueries : Prop := ∀ (s : State) (c : BitVec 1) (q : BitVec 7) (p : BitVec 8) (m : BitVec 14),
  (∀ i v, Claim.ModeSet s.cur.mode i v → ∃ t, exec i s = .next t ∧ Claim.OnceWarp s s t { s.cur with mode := modeStored v }) ∧
  (∃ t, exec (.rngseed c q) s = .next t ∧ OnlyWarp s t ∧ t.cur = { s.cur with lanes := t.cur.lanes } ∧
    LanesPass s t (fun l => s.cur.vpair q.toNat l) noFlags) ∧
  (∃ t, exec (.query c p m) s = .next t ∧ Claim.OnceReg s t p.toNat (s.queryItem m.toNat)) ∧
  ∃ t, exec (.perfrd c p m) s = .next t ∧ (s.acts = false → Claim.Passes s t) ∧ (s.acts = true →
    t = { s with warps := t.warps, cores := t.cores, tick := t.tick } ∧ BytesKept s t ∧ LanesPass s t s.gens noFlags ∧
    (∀ x, x ≠ s.issue.warp → t.warp x = s.warp x) ∧ (∀ r, r ≠ p.toNat → r ≠ p.toNat + 1 → t.cur.wreg r = s.cur.wreg r) ∧
    t.cur = { s.cur with lanes := t.cur.lanes, wregs := t.cur.wregs, cuts := t.cur.cuts, violations := t.cur.violations, refusals := t.cur.refusals } ∧
    t.cur.wpair p.toNat = Claim.counter t m.toNat ∧
    ∀ n, n ≠ m.toNat ∨ n = 1 ∨ n = 6 → Claim.counter t n = Claim.counter s n)

/-- R248, R258, R259: VFREE empties registers and REGSHRINK gives rows back, as many as are free. -/
def Sys2Proof.Claim.RowsGivenBack : Prop := ∀ (s : State) (c : BitVec 1) (p n : BitVec 7) (m : BitVec 14),
  (∃ t, exec (.vfree c p n) s = .next t ∧ (s.acts = false → Claim.Passes s t) ∧ (s.acts = true →
    OnlyWarp s t ∧ LanesPass s t s.gens noFlags ∧ t.cur = { s.cur with lanes := t.cur.lanes, vregs := t.cur.vregs } ∧
    ∀ r, t.cur.vreg r = if p.toNat ≤ r ∧ r ≤ p.toNat + n.toNat then .v else s.cur.vreg r)) ∧
  ∃ t, exec (.regshrink c m) s = .next t ∧
    let k := min m.toNat (s.cur.budget - s.cur.rows)
    Claim.OnceWarp s s.markOut t { s.markOut.cur with budget := s.cur.budget - k, wc := setC s.cur.wc (k == m.toNat) }

/-- R260: REGGROW.TRY takes the rows at once or says that it did not; REGGROW.WAIT takes them, or holds until they are granted in order of
age, each lane group with its own request; rows that can never be had are the register-overflow trap of every lane of E, and by the model's
choice (log entry 72) of the lanes of a waiting request that a grant to another lane group of the warp put past 128 rows. -/
def Sys2Proof.Claim.RowsTaken : Prop := ∀ (s : State) (c : BitVec 1) (m : BitVec 14) (w : Nat),
  let b := s.markOut
  let n := m.toNat
  let sched := s.cur.slot % 4
  let never := 128 < s.cur.budget + n ∨ 8 * s.rowGranules s.cur.core < s.cur.budget + n
  (∃ t, exec (.reggrowTry c m) s = .next t ∧ (s.acts = false → Claim.Passes b t) ∧ (s.acts = true → never → Claim.AllOfE b t (Claim.rowsRec s n)) ∧
    (s.acts = true → ¬ never →
      let ok := decide (n ≤ s.freeRows s.cur.core sched) && !s.growWaits s.cur.core sched none
      Claim.OnceWarp s b t { b.cur with budget := if ok then s.cur.budget + n else s.cur.budget, wc := setC s.cur.wc ok })) ∧
  (∃ t, exec (.reggrowWait c m) s = .next t ∧ (s.acts = false → Claim.Passes b t) ∧ (s.acts = true → never → Claim.AllOfE b t (Claim.rowsRec s n)) ∧
    (s.acts = true → ¬ never →
      let now := n ≤ s.freeRows s.cur.core sched ∧ s.growWaits s.cur.core sched (some s.cur.age) = false ∧ s.cur.grows = []
      (now → Claim.OnceWarp s b t { b.cur with budget := s.cur.budget + n }) ∧
      (¬ now → Claim.Holds b t (.grow s.nextId n s.issue.word)))) ∧
  ∃ t, exec (.reggrowWaitGrant w) s = .next t ∧
    let x := s.warp w
    (x.grow? = none ∨ s.growReady w = false → t = s) ∧ ∀ q n, x.grow? = some (q, n) → s.growReady w = true →
      let past := 128 < x.budget + n ∨ 8 * s.rowGranules x.core < x.budget + n
      let excess (y : Lane) (word : Word) : TrapRec := {
        kind := 4, widx := BitVec.ofNat 32 y.pc, word := word, arg1 := BitVec.ofNat 32 n, arg2 := BitVec.ofNat 32 x.budget }
      t = { s with warps := t.warps } ∧ (∀ v, v ≠ w → t.warp v = s.warp v) ∧
      t.warp w = { x with lanes := (t.warp w).lanes, budget := (t.warp w).budget } ∧
      (past → (t.warp w).budget = x.budget) ∧ (¬ past → (t.warp w).budget = x.budget + n) ∧
      ∀ l < 32, match (x.lane l).wait with
        | .grow r _ word => (r ≠ q → (t.warp w).lane l = x.lane l) ∧
            (r = q → past → (t.warp w).lane l = Claim.traps (Claim.leaves (x.lane l) x.handlerMode) (excess (x.lane l) word)) ∧
            (r = q → ¬ past → (t.warp w).lane l = { Claim.leaves (x.lane l) x.handlerMode with pc := (x.lane l).pc + 1 })
        | _ => (t.warp w).lane l = x.lane l

/-- R261, R262: where every warp of a core is blocked and the oldest that waits for rows cannot have them, the youngest other warp of its
scheduler is evicted with its record stored, or ends where an error stands in its own state (R465); an evicted warp returns to a slot with room,
the oldest first. -/
def Sys2Proof.Claim.Evictions : Prop := ∀ (s : State) (core w : Nat),
  (∃ t, exec (.reggrowEviction core) s = .next t ∧ (s.evictee? core = none → t = s) ∧
    ∀ v, s.evictee? core = some v → (s.warpBusy v (fun _ => false) = true → t = s) ∧
      (s.warpBusy v (fun _ => false) = false → (s.warp v).bad ≠ [] →
        t = (s.endWarp v).markCause (s.warp v).launch 3 ∧ 3 ∈ (t.launch (s.warp v).launch).causes) ∧
      (s.warpBusy v (fun _ => false) = false → (s.warp v).bad = [] → ∃ y : Warp,
        let u := { s with warps := mapSet s.warps v y, flights := s.flights.filter fun f => !f.withdrawn v fun _ => true }
        (∀ u, u ≠ v → t.warp u = s.warp u) ∧ y = { s.warp v with lanes := y.lanes, evicted := true, latch := [] } ∧
        (∀ l < 32, y.lane l = s.withdraw v ((s.warp v).lane l)) ∧ t.warp v = { y with rowNums := (t.warp v).rowNums } ∧
        (∀ f, f ∈ t.flights ↔ f ∈ s.flights ∧ ¬ (f.warp = v ∧ (Claim.isOrdReq f ∨ f.buffered = true))) ∧
        t = { u.putWarp v true 128 256 with flights := t.flights } ∧ Claim.Wrote { s with warps := t.warps, flights := t.flights } t)) ∧
  ∃ t, exec (.evictedWarpReadmission w) s = .next t ∧ (s.returnSlot? w = none → t = s) ∧ ∀ k, s.returnSlot? w = some k →
    let r := (s.reload w).warp w
    let n := s.vnote (s.launch (s.warp w).launch).asid (s.frameVa w).toNat 0x8000
    t = { n with warps := t.warps, flights := t.flights, nextId := t.nextId } ∧ (∀ u, u ≠ w → t.warp u = s.warp u) ∧
    t.warp w = { r with
      lanes := (t.warp w).lanes, evicted := false, slot := k, passCount := 0, latch := [], chain := none, drain := .none, rowNums := [] } ∧
    (∀ l < 32, (t.warp w).lane l = { (match (r.lane l).wait with
      | .grow .. => if (r.lane l).status = LaneStatus.hold then Claim.leaves (r.lane l) r.handlerMode else r.lane l
      | _ => r.lane l : Lane) with passed := 0 }) ∧
    r.budget = n.frameGet w 0x14C 1 ∧ r.handlerMode = (s.warp w).handlerMode ∧
    ((s.warp w).handlerMode = true → r.vregs = (s.warp w).vregs ∧ r.wregs = (s.warp w).wregs) ∧
    ((s.warp w).handlerMode = false → (∀ i < 128, r.vreg i = n.getVreg w i true) ∧
      ∀ l < 32, (r.lane l).pc = bits (n.frameGet w (4 * l) 4) 0 31 ∧ (r.lane l).trap = ((s.warp w).lane l).trap) ∧
    ∃ xs : List Flight, t.flights = s.flights ++ xs ∧ xs.length = n.frameGet w 0x154 1 % 128 ∧ t.nextId = s.nextId + xs.length ∧
      ∀ e < xs.length, ∃ x ps, xs[e]? = some x ∧ x.warp = w ∧ x.counted = true ∧ x.kind = .store [ps] [] ∧
        x.ea = BitVec.ofNat 64 (n.frameGet w (0x1800 + 32 * e) 8) ∧
        ps.map Prod.snd = toBytes (2 ^ bits (n.frameGet w (0x1819 + 32 * e) 1) 0 3)
          (n.frameGet w (0x1808 + 32 * e) (2 ^ bits (n.frameGet w (0x1819 + 32 * e) 1) 0 3))

/-- R247, R405 to R410: TRAP is a trap of each lane of E. A trap is taken when the warp's results have returned: at a valid entry the trapped
lanes run there with their records, and the others that ran are parked; without one, or in a handler, the launch is to end. TRAPRET
returns the handler lanes of the issue set, and with the last of them the warp leaves handler mode. -/
def Sys2Proof.Claim.TrapsAndReturns : Prop := ∀ (s : State) (c : BitVec 1) (m : BitVec 14) (a : BitVec 2) (w : Nat),
  (∃ t, exec (.trap c m) s = .next t ∧ Claim.AllOfE s t { s.record 18 with arg1 := m.setWidth 32 }) ∧
  (∃ t, exec (.trapret c a) s = .next t ∧ (s.cur.handlerMode = false → TrapResult s t fun _ => some (s.record 2)) ∧
    (s.cur.handlerMode = true → OnlyWarp s t ∧
      t.cur = { s.cur with lanes := t.cur.lanes, handlerMode := t.cur.handlerMode, latch := t.cur.latch } ∧
      let back := Claim.returned s a.toNat
      let left := ∃ l < 32, (back l).handler = true ∧ (back l).status ≠ .done ∧ (back l).parked = false
      (left → t.cur.handlerMode = true ∧ ∀ l < 32, t.cur.lane l = back l) ∧
      (¬ left → t.cur.handlerMode = false ∧ t.cur.latch = [] ∧ ∀ l < 32, t.cur.lane l = Claim.resumed (back l)))) ∧
  ∃ t, exec (.trapEntry w) s = .next t ∧ (¬ Claim.mayTrap s w → t = s) ∧
    let x := s.warp w
    let code := (s.launch x.launch).desc
    let at' := x.tba.toNat / 4 * 4
    let valid := x.tba.getLsbD 0 = true ∧ code.code.toNat ≤ at' ∧ (at' - code.code.toNat) / 4 < code.limit.toNat
    let taken (l : Nat) : Bool := Claim.trapLane x l
    let u := { s with warps := t.warps, flights := t.flights }
    (Claim.mayTrap s w → (∀ v, v ≠ w → t.warp v = s.warp v) ∧
      ∀ f, f ∈ t.flights ↔ f ∈ s.flights ∧ ¬ (Claim.isOrdReq f ∧ f.warp = w ∧ taken f.lane = true)) ∧
    (Claim.mayTrap s w → x.handlerMode = false → valid →
      t = u.putEntry w x (t.warp w) taken ∧ Claim.Wrote u t ∧
      t.warp w = { x with lanes := (t.warp w).lanes, handlerMode := true, latch := [], chain := none, bad := x.bad.filter (· != 400) } ∧
      ∀ l < 32, (t.warp w).lane l = Claim.entered (x.lane l) ((at' - code.code.toNat) / 4) (s.frameVa w)) ∧
    (Claim.mayTrap s w → (x.handlerMode = true ∨ ¬ valid) → Claim.Wrote { u with launches := t.launches } t ∧
      t.warp w = { x with lanes := (t.warp w).lanes } ∧ (∀ l < 32, (t.warp w).lane l = match Claim.taking (x.lane l) with
        | some r => if x.handlerMode && !(x.lane l).handler then x.lane l
            else { x.lane l with trap := none, record := r.words (s.frameVa w) }
        | none => if x.handlerMode then x.lane l else { x.lane l with record := (x.lane l).record.set 0 0 }) ∧
      ((mapGet? s.launches x.launch).isSome = true → (t.launch x.launch).phase = .ending ∧ 3 ∈ (t.launch x.launch).causes))

/-- R412: FRSAVE, FRLOAD and TINFO in a handler; elsewhere illegal instructions. -/
def Sys2Proof.Claim.FrameInstructions : Prop := ∀ (s : State) (c : BitVec 1) (p m : BitVec 4) (r : BitVec 7),
  (∃ t, exec (.frsave c p) s = .next t ∧ (s.cur.handlerMode = false → TrapResult s t fun _ => some (s.record 2)) ∧
    (s.cur.handlerMode = true → (s.acts = false → Claim.Passes s t) ∧ (s.acts = true → s.frameBusy s.issue.warp = true → t = s) ∧
      (s.acts = true → s.frameBusy s.issue.warp = false → LanesPass s t s.gens noFlags ∧
        t.cur = { s.cur with lanes := t.cur.lanes, rowNums := t.cur.rowNums } ∧ (p.getLsbD 0 = false → t.cur.rowNums = s.cur.rowNums) ∧
        (∀ v, v ≠ s.issue.warp → t.warp v = s.warp v) ∧ t = { s.putGroups s.issue.warp p with warps := t.warps } ∧
        Claim.Wrote { s with warps := t.warps } t))) ∧
  (∃ t, exec (.frload c p) s = .next t ∧ (s.cur.handlerMode = false → TrapResult s t fun _ => some (s.record 2)) ∧
    (s.cur.handlerMode = true → (s.acts = false → Claim.Passes s t) ∧ (s.acts = true → s.frameBusy s.issue.warp = true → t = s) ∧
      (s.acts = true → s.frameBusy s.issue.warp = false →
        let x := s.getGroups s.issue.warp p false
        let u := s.noteGroups s.issue.warp p
        u = { s with mem := u.mem, poison := u.poison, dev := u.dev } ∧
        (s.cur.budget < x.rows → TrapResult u t fun _ => some (Claim.rowsRec s (rowsNeeded s.cur x))) ∧
        (x.rows ≤ s.cur.budget → OnlyWarp u t ∧ t.cur = { s.cur with
            bad := x.bad, lanes := t.cur.lanes, vregs := x.vregs, wregs := x.wregs, wc := x.wc, masks := x.masks, joins := x.joins, mode := x.mode, mfmt := x.mfmt } ∧
          (p.getLsbD 0 = false → t.cur.vregs = s.cur.vregs) ∧ (p.getLsbD 1 = false → t.cur.wregs = s.cur.wregs ∧ t.cur.wc = s.cur.wc) ∧
          (p.getLsbD 2 = false → t.cur.masks = s.cur.masks ∧ t.cur.joins = s.cur.joins) ∧
          (p.getLsbD 3 = false → t.cur.mode = s.cur.mode ∧ t.cur.mfmt = s.cur.mfmt) ∧
          (p.getLsbD 0 = true → ∀ i < 128, t.cur.vreg i = s.getVreg s.issue.warp i false))))) ∧
  ((s.cur.handlerMode = false → ∃ t, exec (.tinfo c r m) s = .next t ∧ TrapResult s t fun _ => some (s.record 2)) ∧
    (s.cur.handlerMode = true → s.fits [r.toNat] → ∃ t, exec (.tinfo c r m) s = .next t ∧
      VecResult s t [r.toNat] (fun _ l => (s.cur.lane l).record.getD m.toNat 0) noFlags s.gens s.cur.wc))

/-- R413: REGION records the entry and live-ins in the lanes of E that are no handler lanes. R246, R429: BKPT passes without a debugger;
with one the warp halts, once its results have returned, and a resume takes it past the BKPT with its registers from the record. -/
def Sys2Proof.Claim.RegionsAndDebug : Prop := ∀ (s : State) (c : BitVec 1) (p : BitVec 8) (m : BitVec 9) (k : BitVec 14) (w : Nat),
  (∃ t, exec (.region c p m) s = .next t ∧ OnlyWarp s t ∧ t.cur = { s.cur with lanes := t.cur.lanes } ∧ ∀ l < 32, t.cur.lane l =
    if s.inSet l then
      if s.inE l = true ∧ (s.cur.lane l).handler = false then { s.cur.lane l with
        pc := s.issue.pc + s.len
        region := { inside := true, entry := s.issue.pc, nv := p.toNat, ns := m.toNat, gen := (s.cur.lane l).gen, helper := (s.cur.lane l).helper } }
      else { s.cur.lane l with pc := s.issue.pc + s.len }
    else s.cur.lane l) ∧
  (∃ t, exec (.bkpt c k) s = .next t ∧ (s.curLaunch.debug = false → Claim.Passes s t) ∧
    (s.curLaunch.debug = true → s.latencyPending s.issue.warp = true → t = s) ∧
    (s.curLaunch.debug = true → s.latencyPending s.issue.warp = false →
      let y := { s.cur with halted := true, haltSet := s.issue.set, latch := [] }
      t.cur = { y with rowNums := t.cur.rowNums } ∧ (∀ v, v ≠ s.issue.warp → t.warp v = s.warp v) ∧
      t = ({ s with warps := mapSet s.warps s.issue.warp y }).putWhole s.issue.warp true 128 256 ∧ Claim.Wrote { s with warps := t.warps } t)) ∧
  ∃ t, exec (.debugResume w) s = .next t ∧
    let x := s.warp w
    let y := s.getGroups w 0xF false
    let may := x.halted = true ∧ x.ended = false ∧ x.resident = true ∧ (s.launch x.launch).debug = true
    (¬ may → t = s) ∧ (may → t = { s.noteGroups w 0xF with warps := t.warps } ∧ (∀ v, v ≠ w → t.warp v = s.warp v) ∧
      (x.budget < y.rows → t.warp w = { x with refused := true }) ∧
      (y.rows ≤ x.budget → t.warp w = { y with lanes := (t.warp w).lanes, halted := false, haltSet := 0, refused := false } ∧
        ∀ l < 32, (t.warp w).lane l = { y.lane l with pc := (x.lane l).pc + if x.haltSet.getLsbD l then 1 else 0 }))

/-- R249, R294, R295, R366, R367: WAITEV holds until its bit is set, and clears it, an acquire at device scope. LAUNCH without a graph, a pool or
a free node gives m0 = 0; else its node is claimed, last in the queue of its pool, and the descriptor's copy is on its way, or its fault is taken
by the lanes of E. When the copy is made m0 is all ones, and with a poisoned descriptor 0 and the node is free again. -/
def Sys2Proof.Claim.LaunchesAndEvents : Prop := ∀ (s : State) (c : BitVec 1) (p : BitVec 8) (m : BitVec 14) (e : BitVec 6) (f : Nat),
  let b := s.markOut
  (∃ t, exec (.waitev c e) s = .next t ∧ (s.acts = false → ∃ u, Claim.Passes b u ∧ t = Claim.withPoint b u true false false false 5) ∧
    (s.acts = true → (s.wg s.cur.wg).events.getLsbD e.toNat = false → Claim.Holds b t (Claim.waitOn b [])) ∧
    (s.acts = true → (s.wg s.cur.wg).events.getLsbD e.toNat = true → Claim.GroupResult b t s.cur.wg ∧ LanesPass b t s.gens noFlags ∧
      t.cur = { b.cur with lanes := t.cur.lanes } ∧ t.wg s.cur.wg = { s.wg s.cur.wg with events := (t.wg s.cur.wg).events, stale := (s.wg s.cur.wg).stale.filter fun e => s.outlives 5 false e.1 } ∧
      ∀ i < 64, (t.wg s.cur.wg).events.getLsbD i = if i = e.toNat then false else (s.wg s.cur.wg).events.getLsbD i)) ∧
  (∃ t, exec (.launch c p m) s = .next t ∧ (s.releaseWaits 5 = true → t = s) ∧ (s.releaseWaits 5 = false → (s.acts = false → Claim.Passes b t) ∧
    (s.acts = true →
      let pool := b.poolOf b.curLaunch m.toNat
      let ea := s.cur.wpair p.toNat
      let absent := s.curLaunch.desc.graph = 0 ∨ 16 ≤ m.toNat ∨ pool.2 = 0
      let graph := graphName s.curLaunch.asid s.curLaunch.desc.graph
      let full := ∀ k < pool.2, (graph, m.toNat, k) ∈ s.dev.nodes
      let chk := b.checkGlobal .r 640 false ((lanesOf s.eff).headD 0) ea
      let u := b.poolRead b.curLaunch m.toNat
      let zero := OnlyWarp u t ∧ LanesPass b t s.gens noFlags ∧ t.cur = { b.cur with lanes := t.cur.lanes, masks := t.cur.masks } ∧
        t.cur.mask 0 = 0 ∧ ∀ j, j ≠ 0 → t.cur.mask j = s.cur.mask j
      (absent → zero) ∧ (¬ absent → ea.toNat % 128 ≠ 0 → Claim.AllOfE u t { s.record 5 with addr := ea }) ∧
      (∀ r, ¬ absent → ea.toNat % 128 = 0 → chk = .bad r → ∀ l < 32, s.inE l = true → t.cur.lane l = Claim.traps (b.cur.lane l) { r with addr := ea }) ∧
      ∀ ps pg a, ¬ absent → ea.toNat % 128 = 0 → chk = .ok ps pg a → s.curLaunch.grantsSpan .r ea.toNat 640 = true →
        (s.readWaits s.issue.set pg ps = true → t = b) ∧ (s.readWaits s.issue.set pg ps = false → full → zero) ∧
        (s.readWaits s.issue.set pg ps = false → ¬ full → LanesPass b t s.gens noFlags ∧ t.cur = { b.cur with lanes := t.cur.lanes } ∧
          let hurt := b.struck ps
          let v := u.readDone (pg == .strong) ps hurt
          ∃ k < pool.2, (graph, m.toNat, k) ∉ s.dev.nodes ∧ (∀ j < k, (graph, m.toNat, j) ∈ s.dev.nodes) ∧
            t = { v with warps := t.warps, flights := t.flights, nextId := s.nextId + 1,
                         dev := { v.dev with
                           nodes := s.dev.nodes ++ [(graph, m.toNat, k)]
                           entries := mapMod s.dev.entries (poolQueue graph m.toNat) [] (· ++ [s.nextId]) } } ∧
            ∃ x : Flight, t.flights = s.flights ++ [x] ∧ x.id = s.nextId ∧ x.warp = s.issue.warp ∧ x.who = s.issue.set ∧ x.ea = ea ∧
              x.kind = .launchCopy m.toNat k (b.readHit hurt ps).1 (b.readHit hurt ps).2)))) ∧
  (∀ x pool node desc, s.flight? f = some x → x.kind = .launchCopy pool node desc true → ∃ t, exec (.launchNodeCopyDone f) s = .next t ∧
    t = { s with flights := s.flights.filter (·.id != x.id), warps := t.warps, dev := t.dev } ∧ (∀ v, v ≠ x.warp → t.warp v = s.warp v) ∧
    (t.warp x.warp).mask 0 = 0 ∧ 
    (graphName (s.launch (s.warp x.warp).launch).asid (s.launch (s.warp x.warp).launch).desc.graph, pool, node) ∉ t.dev.nodes) ∧
  ∀ x pool node desc, s.flight? f = some x → x.kind = .launchCopy pool node desc false → ∃ t, exec (.launchNodeCopyDone f) s = .next t ∧
    let i := (s.warp x.warp).launch
    let p := s.launch i
    let va := s.nodeVa p pool node
    let u := (s.deviceWrite p.asid va desc).deviceWrite p.asid (va + 640) (toBytes 8 p.addr.toNat ++ toBytes 4 (s.wg x.wg).wgid)
    ∀ ctx, u.ctx? p.cid = some ctx →
      let d := Desc.ofBytes desc
      let y : Launch := {
        desc := d, addr := BitVec.ofNat 64 va, cid := p.cid, asid := p.asid, save := p.save, profile := p.profile, debug := p.debug
        order := x.id, parent := some (i, x.wg), node := some (graphName p.asid p.desc.graph, pool, node)
        render := if d.isRender then some {} else none }
      y.valid ctx (some p) = true →
        t = { u with flights := s.flights.filter (·.id != x.id), warps := t.warps, launches := t.launches } ∧
        (t.warp x.warp).mask 0 = allLanes ∧ (∀ v, v ≠ x.warp → t.warp v = s.warp v) ∧
        t.launch x.id = y ∧ ∀ j, j ≠ x.id → t.launch j = s.launch j

/-- R155, R224, R362: a warp whose lanes are all DONE and of which nothing is on its way has ended, and its workgroup with its last warp. -/
def Sys2Proof.Claim.WarpsEnd : Prop := ∀ (s : State) (w : Nat), ∃ t, exec (.warpEnd w) s = .next t ∧
  let x := s.warp w
  let due := (mapGet? s.warps w).isSome = true ∧ (x.resident = true ∨ (s.launch x.launch).phase = .ending) ∧
    (∀ l < 32, (x.lane l).status = .done) ∧ ∀ f ∈ s.flights, f.warp ≠ w
  (¬ due → t = s) ∧ (due → BytesKept s t ∧ t.warp w = { x with ended := true } ∧ (∀ v, v ≠ w → t.warp v = s.warp v) ∧
    t = { s with warps := t.warps, wgs := t.wgs, launches := t.launches, trees := t.trees } ∧
    (KeysRise s.warps → (∀ e ∈ s.warps, e.2.wg = x.wg → e.1 = w ∨ e.2.ended = true) → (∀ g ∈ s.flights, g.wg ≠ x.wg) → (∀ e ∈ s.flintOf x.wg, e.2.live = false) →
      (t.wg x.wg).ended = true))

/-- R24, R26: a prefix word is latched, and its base word issues next with the same issue set. -/
def Sys2Proof.Claim.Prefixes : Prop := ∀ (s : State) (me : BitVec 1) (k rm : BitVec 3) (z : BitVec 1) (q : BitVec 7) (ws : BitVec 1) (x : BitVec 11),
  ∃ t, exec (.pfx me k rm z q ws x) s = .next t ∧ t = { s with issue := t.issue } ∧ t.issue = { s.issue with pfx := t.issue.pfx, open_ := true } ∧
    t.prefix? = some ⟨me.getLsbD 0, k.toNat, rm.toNat, z.getLsbD 0, q.toNat, ws.getLsbD 0, x.toNat⟩ ∧ t.len = 2

namespace Sys2Proof.Claim

/-! ## Host interface -/

/-- Only device registers change. -/
def DevOnly (s t : State) : Prop := t = { s with dev := t.dev }
/-- R344, R396: a tail is written. -/
structure Rung (x y : QRegs) (v : Word) : Prop where
  rest : y = { x with tail := v &&& 0xFFFF, ctl := y.ctl, going := y.going }
  off : x.enabled = false → y.ctl = x.ctl ∧ y.going = x.going
  beyond : x.enabled = true → x.size ≤ (v &&& 0xFFFF).toNat → y.ctl = x.ctl ||| 0x40000000 ∧ y.going = false
  within : x.enabled = true → (v &&& 0xFFFF).toNat < x.size → y.ctl = x.ctl ∧ y.going = (x.going || !x.ctl.getLsbD 30)
/-- R342, R396, R401, R468: a control register is written, of which the bits of `keep` exist: while EN = 1 a write that does not clear EN is
ignored; another stores the fields, EN with a LOG2N of 4 or more, and a one clears ERR. -/
structure CtlWritten (x y : QRegs) (v keep : Word) : Prop where
  rest : y = { x with ctl := y.ctl, going := y.going }
  ignored : x.enabled = true → v.getLsbD 31 = true → y = x
  err : x.enabled = false ∨ v.getLsbD 31 = false → y.ctl.getLsbD 30 = (x.ctl.getLsbD 30 && !v.getLsbD 30)
  cleared : x.enabled = true → v.getLsbD 31 = false → y.enabled = false ∧ y.going = false ∧ ∀ i < 30, y.ctl.getLsbD i = (v.getLsbD i && keep.getLsbD i)
  taken : x.enabled = false → y.going = x.going ∧ y.enabled = (v.getLsbD 31 && decide (4 ≤ (v.extractLsb' 0 4).toNat)) ∧
    ∀ i < 30, y.ctl.getLsbD i = (v.getLsbD i && keep.getLsbD i)
/-- A queue's head passes one entry. -/
def Passed (x y : QRegs) : Prop := y = { x with head := BitVec.ofNat 32 ((x.head.toNat + 1) % x.size) }
/-- The operations of a host queue, with their codes (R343). -/
inductive QueueOp : Instr → Nat → Nat → Prop
  | run (q) : QueueOp (.run q) q 0
  | event (q) : QueueOp (.event q) q 1
  | domalloc (q) : QueueOp (.domalloc q) q 2
  | domfree (q) : QueueOp (.domfree q) q 3
  | abort (q) : QueueOp (.abort q) q 4
/-- The commands of the invalidation queue (R397). -/
inductive IqOp : Instr → Nat → Prop
  | inval : IqOp .inval 0
  | retry : IqOp .retry 1
  | refuse : IqOp .refuse 2
  | sync : IqOp .sync 3
/-- The grid of a stage of a launch. -/
def gridOf (s : State) (i stage : Nat) : Grid := (s.launch i).grid stage
/-- Only one launch changes. -/
def LaunchOnly (s t : State) (i : Nat) : Prop := t = { s with launches := t.launches } ∧ ∀ j, j ≠ i → t.launch j = s.launch j

end Sys2Proof.Claim

/-- R342, R344, R389, R396, R401, R322, R468, R471, R483: the registers that the host writes; and R62, R244, R326: ORDQUIET's threshold and a
core's ISSUECTL, which the running service firmware writes through its own port; its port to the window reaches the registers marked F alone. The
offsets of both are the model's choice (log entry 75). -/
def Sys2Proof.Claim.HostRegisters : Prop := ∀ (s : State) (q : Nat) (v : Word),
  (∃ t, exec (.queueDoorbell q v) s = .next t ∧ Claim.DevOnly s t ∧ t.dev = { s.dev with queues := t.dev.queues } ∧
    Claim.Rung (s.queue q) (t.queue q) v ∧ ∀ k, k ≠ q → t.queue k = s.queue k) ∧
  (∃ t, exec (.qctlWrite q v) s = .next t ∧ Claim.DevOnly s t ∧ t.dev = { s.dev with queues := t.dev.queues } ∧
    Claim.CtlWritten (s.queue q) (t.queue q) v 0x8001FFFF ∧ ∀ k, k ≠ q → t.queue k = s.queue k) ∧
  (∃ t, exec (.iqDoorbell v) s = .next t ∧ Claim.DevOnly s t ∧ t.dev = { s.dev with iq := t.dev.iq } ∧ Claim.Rung s.dev.iq t.dev.iq v) ∧
  (∃ t, exec (.iqctlWrite v) s = .next t ∧ Claim.DevOnly s t ∧ t.dev = { s.dev with iq := t.dev.iq } ∧ Claim.CtlWritten s.dev.iq t.dev.iq v 0x8000000F) ∧
  (∃ t, exec (.rqctlWrite v) s = .next t ∧ Claim.DevOnly s t ∧ t.dev = { s.dev with rq := t.dev.rq } ∧ Claim.CtlWritten s.dev.rq t.dev.rq v 0x8000000F) ∧
  (∃ t, exec (.elctlWrite v) s = .next t ∧ Claim.DevOnly s t ∧ t.dev = { s.dev with el := t.dev.el } ∧ Claim.CtlWritten s.dev.el t.dev.el v 0x8000000F) ∧
  (∃ t, exec (.atctlWrite v) s = .next t ∧ Claim.DevOnly s t ∧
    (v.getLsbD 0 = false → s.dev.atCtl.getLsbD 0 = true → (∃ c < 4096, (s.ctx? c).isSome = true) → t = s) ∧
    (v.getLsbD 0 = true ∨ s.dev.atCtl.getLsbD 0 = false ∨ (∀ c < 4096, s.ctx? c = none) → t.dev = { s.dev with atCtl := v &&& 1 })) ∧
  (∃ t, exec (.ordovfctlWrite v) s = .next t ∧ Claim.DevOnly s t ∧ ((∃ e ∈ s.keys, e.overflow.isSome = true) → t = s) ∧
    ((∀ e ∈ s.keys, e.overflow = none) → t.dev = { s.dev with ovfCtl := t.dev.ovfCtl } ∧ t.dev.ovfCtl.extractLsb' 0 5 = v.extractLsb' 0 5 ∧
      t.dev.ovfCtl.getLsbD 31 = (v.getLsbD 31 && decide (10 ≤ (v.extractLsb' 0 5).toNat ∧ (v.extractLsb' 0 5).toNat ≤ 24)))) ∧
  (∃ t, exec (.pwrcapWrite v) s = .next t ∧ Claim.DevOnly s t ∧ t.dev = { s.dev with pwrCap := t.dev.pwrCap } ∧
    t.dev.pwrCap.toNat = if (v.extractLsb' 0 12).toNat < 300 then 300 else if 2700 < (v.extractLsb' 0 12).toNat then 2700 else (v.extractLsb' 0 12).toNat) ∧
  ∀ off, ∃ t, exec (.registerWrite off v) s = .next t ∧ ((∀ k < 192, off ≠ 2 ^ 32 + 0x1000 * k + 0x030) → Claim.DevOnly s t) ∧ (off % 4 ≠ 0 → t = s) ∧
    (∀ k < 192, off = 2 ^ 32 + 0x1000 * k + 0x030 →
      let st := (s.dev.fwstat.extractLsb' 0 4).toNat
      (¬ (st = 2 ∨ st = 3) → t = s) ∧ (st = 2 ∨ st = 3 → t = { s with warps := t.warps, cores := t.cores } ∧
        (∀ c, t.core c = if c = k then { s.core c with issueCtl := v &&& 7 } else s.core c) ∧
        ∀ w, t.warp w = { s.warp w with latch := if v.getLsbD 1 = true ∧ (s.warp w).core = k then [] else (s.warp w).latch })) ∧
    (off = 0x10030 → t.dev = { s.dev with shalePart := v &&& 0x3FF }) ∧ (off = 0x10010 → s.dev.atCtl.getLsbD 0 = true → t = s) ∧
    (∀ k < 128, off = 0x40000 + 4 * k → t.dev = { s.dev with barLink := t.dev.barLink } ∧ mapGet t.dev.barLink k 0 = v &&& 0x81FFFFFF) ∧
    (∀ k < 4096, off = 0x20000 + 32 * k + 8 → Claim.Rung (s.queue k) (t.queue k) v) ∧
    (∀ k < 4096, off = 0x20000 + 32 * k + 16 → Claim.CtlWritten (s.queue k) (t.queue k) v 0x8001FFFF) ∧
    (∀ k < 4096, off = 0x20000 + 32 * k → (t.queue k).baseLo = if (s.queue k).enabled then (s.queue k).baseLo else v &&& 0xFFFFFFC0) ∧
    (∀ k < 4096, off = 0x20000 + 32 * k + 4 → (t.queue k).baseHi = if (s.queue k).enabled then (s.queue k).baseHi else v) ∧
    (∀ k < 6, off = 0x10100 + 4 * k → t.dev = { s.dev with rasThr := t.dev.rasThr } ∧ mapGet? t.dev.rasThr k = some v) ∧
    (off = 0x10000 → t.dev = { s.dev with contextBase := (s.dev.contextBase >>> 32).setWidth 32 ++ v }) ∧
    (off = 0x10004 → t.dev = { s.dev with contextBase := v ++ s.dev.contextBase.setWidth 32 }) ∧
    (off = 0x10010 → s.dev.atCtl.getLsbD 0 = false → t.dev = { s.dev with atBaseLo := v &&& 0xFFFFF000 }) ∧
    (off < 0x10000 → t = s) ∧
    (off = 2 ^ 32 + 0x050 → t.dev = { s.dev with ordQuiet := t.dev.ordQuiet } ∧ t.dev.ordQuiet =
      let st := (s.dev.fwstat.extractLsb' 0 4).toNat
      if st = 2 ∨ st = 3 then v &&& 0xFFFF else s.dev.ordQuiet) ∧
    (2 ^ 33 ≤ off → s.dev.fwstat.extractLsb' 0 4 ≠ 2 → s.dev.fwstat.extractLsb' 0 4 ≠ 3 → t = s) ∧
    (s.dev.fwstat.extractLsb' 0 4 = 3 → (off = 2 ^ 33 + 0x10400 → exec (.pwrcapWrite v) s = .next t) ∧
      (off = 2 ^ 33 + 0x100D0 → exec (.elctlWrite v) s = .next t) ∧
      (∀ k < 6, off = 2 ^ 33 + 0x10100 + 4 * k → exec (.registerWrite (0x10100 + 4 * k) v) s = .next t)) ∧
    (off = 2 ^ 33 + 0x10000 → t = s)

/-- R343 to R345, R352, R368 to R370, R386, R389, R401: the entry at the head of a running queue. One that is not legal stops the queue; RUN whose
descriptor can be read makes a launch, last in the queue, and where it cannot be read a request goes out; the others have their effect on what
they name. An ABORT leaves any bytes in the tiles that the launch's CPACK and CUNPK still write, and no other byte changes. -/
def Sys2Proof.Claim.QueueEntries : Prop := ∀ (s : State) (i : Instr) (q op : Nat), Claim.QueueOp i q op → ∃ t, exec i s = .next t ∧
  let n := s.entryRead q
  (s.queueHead? q = none → t = s) ∧
  (∀ e, s.queueHead? q = some e → s.entryLegal q e = false →
    Claim.DevOnly n t ∧ t.queue q = { s.queue q with ctl := (s.queue q).ctl ||| 0x40000000, going := false } ∧ ∀ k, k ≠ q → t.queue k = s.queue k) ∧
  (∀ e, s.queueHead? q = some e → s.entryLegal q e = true → e.op ≠ op ∨ (op = 0 ∧ s.dev.atCtl.getLsbD 0 = false) → t = s) ∧
  ∀ e c, s.queueHead? q = some e → s.entryLegal q e = true → e.op = op → s.ctx? (s.queue q).cid = some c → (op = 0 → s.dev.atCtl.getLsbD 0 = true) →
    (op = 0 → (∀ bs, s.walkBytes c.asid e.addr.toNat 640 = .ok bs →
      let x := { c.launch (s.queue q).cid s.nextId e.addr (Desc.ofBytes bs) with queue := some q }
      Claim.Passed (s.queue q) (t.queue q) ∧ (KeysRise s.launches → x.valid c none = false → mapGet? t.launches s.nextId = none) ∧
      (x.valid c none = true →
        t = { (s.noteWalk c.asid e.addr.toNat 640).entryRead q with dev := t.dev, launches := t.launches, nextId := s.nextId + 1 } ∧
        t.launch s.nextId = x ∧ mapGet t.dev.entries q [] = mapGet s.dev.entries q [] ++ [s.nextId] ∧
        ∀ j, j ≠ s.nextId → t.launch j = s.launch j)) ∧
      ∀ err, s.walkBytes c.asid e.addr.toNat 640 = .error err →
        (s.dev.rq.enabled = false → Claim.DevOnly ((s.noteWalk c.asid e.addr.toNat 640).entryRead q) t ∧ Claim.Passed (s.queue q) (t.queue q)) ∧
        (s.dev.rq.enabled = true → s.dev.rq.room = false → t = s) ∧
        (s.dev.rq.enabled = true → s.dev.rq.room = true → t.queue q = s.queue q ∧ (t.launch s.nextId).phase = .waiting ∧
          ∃ r ∈ t.dev.requests, r.launch = s.nextId ∧ r.index = 0xFE ∧ r.addr = e.addr)) ∧
    (op = 1 → Claim.Passed (s.queue q) (t.queue q) ∧ t = { n with dev := t.dev, wgs := t.wgs } ∧
      ∀ g, t.wg g = { s.wg g with events := (t.wg g).events } ∧ ∀ b, (s.wg g).events.getLsbD b = true → (t.wg g).events.getLsbD b = true) ∧
    (op = 1 → KeysRise s.wgs → ∀ j ∈ s.named (s.queue q).cid e.addr, ∀ g w, (g, w) ∈ s.wgs → w.launch = j → w.grouped = true → w.wgid = e.arg →
      w.ended = false → (∀ h, h ∈ s.wgs → h.2.launch = j → h.2.grouped = true → h.2.wgid = e.arg → h.2.ended = false → h.1 = g) →
      (t.wg g).events.getLsbD (e.ebit % 64) = true) ∧
    (op = 2 → Claim.Passed (s.queue q) (t.queue q) ∧ t = { n with dev := t.dev, shared := t.shared } ∧
      mapGet? t.shared (e.arg % 4096) = some { base := e.addr.setWidth 32, next := e.addr.setWidth 32 }) ∧
    (op = 3 → Claim.Passed (s.queue q) (t.queue q) ∧ t.warps = s.warps ∧ t.launches = s.launches ∧ BytesKept n t ∧
      (KeysRise s.shared → match mapGet? t.shared (e.arg % 4096) with
        | some d => d.freeing = true
        | none => ∀ l ∈ s.launches, e.arg % 4096 ∉ l.2.sharedDoms)) ∧
    (op = 4 → Claim.Passed (s.queue q) (t.queue q) ∧
      (let torn (f : Flight) := f ∈ s.flights ∧ f.tileStore = true ∧ (s.warp f.warp).launch ∈ s.named (s.queue q).cid e.addr
      (∀ f, torn f → Claim.Quiet s f.image) → ∀ p, (∀ f, torn f → Claim.bare p ∉ f.image.map Claim.bare) → Claim.rawByte t p = Claim.rawByte n p) ∧
      ∀ j ∈ s.named (s.queue q).cid e.addr, (mapGet? s.launches j).isSome = true →
      (t.launch j).phase = .ending ∧ 6 ∈ (t.launch j).causes)

/-- R396 to R399, R401: the command at the head of the invalidation queue. One that is not legal stops the queue; another is taken, a range
that is pinned being rejected at levels 0 and 1 unless the command waits; RETRY lets its launch walk again and REFUSE ends it; the
completion waits for pins where the command does, and for the accesses to the range that are on their way, removes what the level names, and
counts the command. -/
def Sys2Proof.Claim.Invalidations : Prop := ∀ s : State,
  (∀ i op, Claim.IqOp i op → ∃ t, exec i s = .next t ∧ (s.iqHead? = none → t = s) ∧
    (∀ c, s.iqHead? = some c → c.legal s = false →
      Claim.DevOnly s.iqRead t ∧ t.dev.iq = { s.dev.iq with ctl := s.dev.iq.ctl ||| 0x40000000, going := false }) ∧
    (∀ c, s.iqHead? = some c → c.legal s = true → c.op ≠ op → t = s) ∧
    ∀ c, s.iqHead? = some c → c.legal s = true → c.op = op → t.dev.iqBusy.isSome = true ∧ t.dev.iq = s.dev.iq ∧
      (op = 0 → Claim.DevOnly s.iqRead t ∧ t.dev = { s.iqRead.dev with iqBusy := t.dev.iqBusy } ∧
        ∀ ws, t.dev.iqBusy = some ws → ws.getD 8 0 = if c.ctl % 4 < 2 ∧ c.ctl / 4 % 2 = 0 ∧ s.pinnedIn c.asid c.range.1 c.range.2 = true then 1 else 0) ∧
      (op = 3 → Claim.DevOnly s.iqRead t ∧ t.dev = { s.iqRead.dev with iqBusy := t.dev.iqBusy }) ∧
      (op = 1 → ∀ r, s.waitingLaunch? c.base c.asid = some r → (∀ x ∈ t.dev.requests, x.launch ≠ r.launch) ∧
        (r.index ≠ 0xFE → Claim.LaunchOnly { s.iqRead with dev := t.dev } t r.launch ∧ t.launch r.launch = { s.launch r.launch with phase := .walking })) ∧
      (op = 2 → ∀ r, s.waitingLaunch? c.base c.asid = some r → (∀ x ∈ t.dev.requests, x.launch ≠ r.launch) ∧
        (KeysRise s.launches → mapGet? t.launches r.launch = none))) ∧
  ∃ t, exec .invalCompletion s = .next t ∧ (s.dev.iqBusy = none → t = s) ∧ (s.iqWaits = true → t = s) ∧
    ∀ c rejected, s.iqBusy? = some (c, rejected) → s.iqWaits = false → (rejected = false → s.rangeBusy c = true → t = s) ∧
      (rejected = true ∨ s.rangeBusy c = false →
        t.dev.iqBusy = none ∧ t.dev.iqDone.toNat = (s.dev.iqDone + 1).toNat % 2 ^ 32 ∧ Claim.Passed s.dev.iq t.dev.iq ∧
        t = { s with mem := t.mem, poison := t.poison, hist := t.hist, tlb := t.tlb, lines := t.lines, wgs := t.wgs, dev := t.dev } ∧
        let removes (levels : List Nat) := rejected = false ∧ c.op = 0 ∧ c.ctl % 4 ∈ levels
        let r := c.pages
        (removes [0, 1] → t.tlb = s.tlb.filter fun e => !inRanges [r] e.1) ∧ (¬ removes [0, 1] → t.tlb = s.tlb) ∧
        (removes [0, 2] → (t.lines = s.lines.filter fun e => !inRanges [r] e.1) ∧
          ∀ g, t.wg g = { s.wg g with stale := (s.wg g).stale.filter fun b => !inRanges [r] (b.1 / 4096) }) ∧
        (¬ removes [0, 2] → t.lines = s.lines ∧ t.wgs = s.wgs) ∧
        (removes [0, 3] → c.ack = 0 → ∀ e ∈ t.hist, ∀ p ∈ e.2, r ∈ p.code) ∧
        (removes [0, 2] → c.ack = 0 → KeysRise s.hist → ∀ e ∈ t.hist, ∀ p ∈ e.2, r ∈ p.data))

/-- R341, R353, R354, R361 to R363, R401: the dispatcher's moves on one launch. A walk goes on with a walking launch that is considered, unless
one of higher effective priority can go on; it takes the context's entry as it is then, and where that is no longer valid the launch ends
as malformed (the model's choice, log entry 73). A launch whose next gangs fit is placed unless one that comes before it can be (of equals,
one that gangs are saved for may go first by the model's choice, log entry 43); a slice that is over, a fence that holds and the follower's
acknowledgement are noted; a launch that is over completes, and one that is to end has its warps ended first. -/
def Sys2Proof.Claim.Dispatching : Prop := ∀ (s : State) (i key : Nat),
  (∃ t, exec (.residencyWalk i) s = .next t ∧
    let due (j : Nat) : Prop := (mapGet? s.launches j).isSome = true ∧ (s.launch j).phase = .walking ∧ s.considered j = true
    let outranked := ∃ e ∈ s.launches, e.1 ≠ i ∧ s.effPrio i < s.effPrio e.1 ∧ due e.1 ∧ ((s.walkLaunch e.1).launch e.1).phase ≠ .walking
    (¬ due i ∨ outranked → t = s) ∧
    (due i → ¬ outranked → t = s.walkLaunch i ∧
      let n := s.noteRead 0 ((List.range 64).map (s.dev.contextBase.toNat + 64 * (s.launch i).cid + ·))
      (n.ctx? (s.launch i).cid = none → t = n.complete i 1) ∧ ∀ ctx, n.ctx? (s.launch i).cid = some ctx →
        let v := n.setLaunch i { s.launch i with asid := ctx.asid, save := ctx.save, profile := ctx.profile, debug := ctx.dbg }
        ∀ u page reason index, v.walkRanges i (s.launch i).desc.walks = .failed u page reason index →
        (u.dev.rq.enabled = true → u.dev.rq.room = false → t = u) ∧
        (u.dev.rq.enabled = true → u.dev.rq.room = true → (t.launch i).phase = .waiting ∧
          t.dev.rq.tail.toNat = (u.dev.rq.tail.toNat + 1) % u.dev.rq.size % 2 ^ 32 ∧ (∃ r ∈ t.dev.requests, r.launch = i ∧ r.index = index)))) ∧
  (∃ t, exec (.gangPlacement i) s = .next t ∧
    (s.nextUnit i = [] → t = s) ∧ (s.unfit i = true → t = s.endLaunch i 2) ∧ (s.unfit i = false → s.placed? i = none → t = s) ∧
    (∀ u, s.unfit i = false → s.placed? i = some u → (∃ e ∈ s.launches, e.1 ≠ i ∧ s.placesBefore e.1 i = true ∧ (s.placed? e.1).isSome = true) → t = s) ∧
    (∀ u, s.unfit i = false → s.placed? i = some u → (∀ e ∈ s.launches, ¬ (e.1 ≠ i ∧ s.placesBefore e.1 i = true ∧ (s.placed? e.1).isSome = true)) →
      t = u ∧ (∃ xs, t.flights = s.flights ++ xs) ∧ t.keys = s.keys ∧
      ∀ k ∈ s.nextUnit i, (mapGet (t.launch i).gangs k {}).resident = true ∧ (mapGet (t.launch i).gangs k {}).started = true ∨
        (mapGet (s.launch i).gangs k {}).saved = true)) ∧
  (∃ t, exec (.sliceExpiry i key) s = .next t ∧ Claim.LaunchOnly s t i ∧ ∀ g, mapGet? (s.launch i).gangs key = some g →
    (g.resident = true → (s.launch i).prio < 23 → mapGet? (t.launch i).gangs key = some { g with sliceOver := true }) ∧
    (g.resident = false ∨ 23 ≤ (s.launch i).prio → t = s)) ∧
  (∃ t, exec (.fenceWaitPoll i) s = .next t ∧ Claim.LaunchOnly s t i ∧ (s.newFences i = [] → t = s) ∧
    (s.newFences i ≠ [] → t.launch i = { s.launch i with fencesMet := (s.launch i).fencesMet ++ s.newFences i }) ∧
    ∀ k e, (s.launch i).phase = .admitted → k < 4 → e ∈ (s.launch i).desc.fencesOf k 0 →
      (∀ p ∈ s.placesAt (s.launch i).asid e.2.1.toNat 8, s.placePoisoned p = false) →
      e.2.2.toNat ≤ ofBytes ((s.placesAt (s.launch i).asid e.2.1.toNat 8).map s.placeByte) → e.1 ∈ (t.launch i).fencesMet) ∧
  (∃ t, exec (.gangIndexMirror i) s = .next t ∧ (s.mirrorStage? i = none → t = s) ∧ ∀ k, s.mirrorStage? i = some k → Claim.LaunchOnly s t i ∧
    Claim.gridOf t i k = { Claim.gridOf s i k with mirror := (Claim.gridOf s i k).mirror + 8 } ∧ ∀ j, j ≠ k → Claim.gridOf t i j = Claim.gridOf s i j) ∧
  ∃ t, exec (.launchCompletion i) s = .next t ∧
    ((s.launch i).phase = .ending → s.endDue i = true → t = s.endAllWarps i ∧ (t.launch i).phase = .ending) ∧
    ((s.launch i).phase ≠ .ending ∨ s.endDue i = false → s.canComplete i = false → t = s) ∧
    ((s.launch i).phase ≠ .ending ∨ s.endDue i = false → s.canComplete i = true →
      (KeysRise s.launches → mapGet? t.launches i = none) ∧ (∀ e ∈ t.warps, e.2.launch ≠ i) ∧ (∀ e ∈ t.wgs, e.2.launch ≠ i) ∧
      (∀ p ∈ t.pins, p.owner = i → p.saveArea = true) ∧ (∀ e ∈ t.keys, ∀ d, e.tag ≠ .priv i d) ∧
      ∀ e ∈ s.warps, e.2.launch ≠ i → e ∈ t.warps)

/-- R354, R360, R415 to R419, R423 to R426: pre-emption starts the drain of gangs that make room, unless a launch that comes before this one
can be placed or can make room; a warp that has not stopped after the approach
takes the full form; once a unit has drained it is stored, and its workgroups and warps have left their cores. -/
def Sys2Proof.Claim.Preempting : Prop := ∀ (s : State) (i key w : Nat),
  (∃ t, exec (.preemption i) s = .next t ∧ let first := ∃ e ∈ s.launches, e.1 ≠ i ∧ s.ranksBefore e.1 i = true ∧ ((s.placed? e.1).isSome = true ∨ s.toSave e.1 ≠ [])
    (s.toSave i = [] ∨ first → t = s) ∧ (s.toSave i ≠ [] → ¬ first →
    t = { s with warps := t.warps, launches := t.launches } ∧ (t.launch i).claim = ((s.toSave i).map Prod.fst).eraseDups ∧
    (∀ g ∈ s.toSave i, (mapGet (t.launch g.1).gangs g.2 {}).draining = true) ∧
    ∀ v, (t.warp v) = { s.warp v with drain := (t.warp v).drain } ∧
      (mapGet? s.warps v ≠ none → (s.warp v).ended = false → ((s.warp v).launch, (s.warp v).gang) ∈ s.toSave i →
        (t.warp v).drain = if (s.warp v).handlerMode = true ∨ (s.warp v).halted = true then .full else .approach))) ∧
  (∃ t, exec (.drainApproachExpiry w) s = .next t ∧ ((s.warp w).drain ≠ .approach ∨ s.warpStops w = true → t = s) ∧
    ((s.warp w).drain = .approach → s.warpStops w = false →
      t = { s with warps := t.warps } ∧ t.warp w = { s.warp w with drain := .full } ∧ ∀ v, v ≠ w → t.warp v = s.warp v)) ∧
  ∃ t, exec (.saveBlockStore i key) s = .next t ∧
    (mapGet? s.launches i = none ∨ s.unitDrained i key = false ∨ s.treesCalm i = false → t = s) ∧
    ((mapGet? s.launches i).isSome = true → s.unitDrained i key = true → s.treesCalm i = true →
      (∀ k ∈ (s.launch i).unit key, k ∈ (s.launch i).gangs.map Prod.fst → (mapGet (t.launch i).gangs k {}).saved = true ∧
        (mapGet (t.launch i).gangs k {}).resident = false ∧ (mapGet (t.launch i).gangs k {}).draining = false) ∧
      (∀ k ∈ (s.launch i).unit key, ∀ g ∈ (mapGet (s.launch i).gangs k {}).wgs, (t.wg g).resident = false ∧
        ∀ e ∈ s.warps, e.2.wg = g → (t.warp e.1).resident = false) ∧ t.keys = s.keys ∧ t.pins = s.pins)

/-- R371, R376 to R383: a stage of a render pass starts when its fences hold and the stage before it is done, and ends with its gangs and, for
stage 1, its records; the classifier takes the records in order; a batch is handed to a warp that waits for one. -/
def Sys2Proof.Claim.RenderPasses : Prop := ∀ (s : State) (i stage w : Nat),
  (∃ t, exec (.stageStart i stage) s = .next t ∧ ((s.launch i).stageReady stage = false → t = s) ∧ ((s.launch i).stageReady stage = true →
    (Claim.gridOf t i stage).started = true ∧ (∀ k, k ≠ stage → Claim.gridOf t i k = Claim.gridOf s i k) ∧ t.warps = s.warps ∧
    (∀ j, j ≠ i → t.launch j = s.launch j) ∧ ∀ r, (s.launch i).render = some r → r.cleared = true →
      t = { s with launches := t.launches } ∧ t.launch i = { s.launch i with grids := (t.launch i).grids })) ∧
  (∃ t, exec (.stageCompletion i stage) s = .next t ∧ ((s.launch i).stageOver stage = false → t = s) ∧ ((s.launch i).stageOver stage = true →
    (Claim.gridOf t i stage).done = true ∧ (∀ k, k ≠ stage → Claim.gridOf t i k = Claim.gridOf s i k) ∧ t.warps = s.warps ∧
    (stage ≠ 1 → (t.launch i).render = (s.launch i).render) ∧
    ∀ r, stage = 1 → (s.launch i).render = some r →
      (t.launch i).render = some { r with batches := r.batches ++ r.visits, window := [] } ∧
      ((s.launch i).desc.fencesOf 1 1 = [] →
        t = { (if r.spq = 0 then s else s.vput (s.launch i).asid r.spq 4 r.small) with launches := t.launches }))) ∧
  (∃ t, exec (.classifyMeshlet i) s = .next t ∧ ((s.launch i).nextRecord? = none → t = s) ∧ ∀ m r, (s.launch i).nextRecord? = some m →
    (s.launch i).render = some r → t.warps = s.warps ∧ t.flights = s.flights ∧ (∀ j, j ≠ i → t.launch j = s.launch j) ∧
      ∃ x, (t.launch i).render = some x ∧ x.nextMeshlet = m + 1 ∧ x.records = mapErase r.records m ∧ x.block = r.block ∧
        ((mapGet r.records m (false, [])).1 = true → x.window = []) ∧
        (r.batches ++ x.batches.drop r.batches.length = x.batches)) ∧
  ∃ t, exec (.shaleBatchHandout w) s = .next t ∧ (s.handout? w = none → t = s) ∧
    (∀ n sa d len r k b, (s.warp w).batchWait? = some (n, sa, d, len) → (s.launch (s.warp w).launch).render = some r →
      batchFor (((s.launch (s.warp w).launch).shape 3).gwg * ((s.launch (s.warp w).launch).shape 3).ngang) (s.wg (s.warp w).wg).wgid r.batches = some k →
      r.batches[k]? = some b → s.batchBusy w sa b.prims.length = true → t = s) ∧
    ∀ u, s.handout? w = some u → t = u ∧ (∀ v, v ≠ w → t.warp v = s.warp v) ∧ (∀ l < 32, ((t.warp w).lane l).helper = false) ∧
      ∀ n sa d len, (s.warp w).batchWait? = some (n, sa, d, len) → ∀ l < 32, ((s.warp w).lane l).wait = .batch n sa d len →
        (t.warp w).lane l = { Claim.leaves { (s.warp w).lane l with helper := false } (s.warp w).handlerMode with pc := ((s.warp w).lane l).pc + len }

namespace Sys2Proof.Claim

/-! ## Errors, links and boot -/

/-- R468: the bytes of an error record. -/
def errorRecord (cls ev unit addr tag count : Nat) : List Byte :=
  toBytes 1 cls ++ toBytes 1 ev ++ toBytes 2 0 ++ toBytes 4 unit ++ toBytes 8 addr ++ toBytes 2 tag ++ toBytes 2 0 ++ toBytes 4 count ++ toBytes 8 0
/-- The error log takes no record now. -/
def logOff (s : State) : Prop := (s.dev.el.enabled && s.dev.el.room) = false
/-- R468: one record is written to the error log, or, where it takes none, one more drop is counted. -/
structure Logged (s t : State) (bs : List Byte) : Prop where
  rest : t = { s with mem := t.mem, poison := t.poison, dev := { s.dev with el := t.dev.el, elDrop := t.dev.elDrop, units := t.dev.units, cxl := t.dev.cxl } }
  off : logOff s → t.mem = s.mem ∧ t.poison = s.poison ∧ t.dev.el = s.dev.el ∧ t.dev.cxl = s.dev.cxl ∧ t.dev.elDrop = s.dev.elDrop + 1
  tail : ¬ logOff s → t.dev.elDrop = s.dev.elDrop ∧
    t.dev.el = { s.dev.el with tail := BitVec.ofNat 32 ((s.dev.el.tail.toNat + 1) % s.dev.el.size) }
  bytes : ¬ logOff s → let a := s.dev.el.base + 32 * (s.dev.el.tail.toNat % s.dev.el.size)
    (s.memoryWf → ∀ k < 32, s.paLands (a + k) = true → memRead t.mem (a + k) = bs.getD k 0) ∧
    ∀ pa, ¬ (a ≤ pa ∧ pa < a + 32) → memRead t.mem pa = memRead s.mem pa
/-- Only the counts of one unit change. -/
def OtherUnits (s t : State) (u : Nat) : Prop := ∀ v, v ≠ u → t.unit v = s.unit v
/-- R461: the thresholds of a unit's window. -/
def thresholds (s : State) (u : Nat) : Nat × Nat := ((s.unitThr u).toNat % 65536, (s.unitThr u).toNat / 65536)
/-- R462 to R465, R467: a unit that is to be retired is retired, unless its link or its slice cannot be replaced, or it is an HBM channel; with
the last group of the die link a die fails. -/
def retires (s : State) (u : Nat) : Bool := match u / 2 ^ 32 with
  | 2 => ((List.range 16).all fun g => g == u % 2 ^ 32 || (s.unit (2 * 2 ^ 32 + g)).retired) || s.detour u
  | 3 => (s.standIn? (unitSite (u % 2 ^ 32))).isSome
  | 4 => true
  | 5 => false
  | _ => s.detour u
/-- R461: an error that is only counted: the count `c`, when it does not bring a retirement. -/
def CountedOnce (s t : State) (u : Nat) : Prop :=
  ((thresholds s u).1 ≠ (s.unit u).corrected + 1 → t = { s with dev := { s.dev with units := t.dev.units } } ∧
    t.unit u = { s.unit u with corrected := (s.unit u).corrected + 1 } ∧ OtherUnits s t u) ∧
  ((thresholds s u).1 = (s.unit u).corrected + 1 → (t.unit u).retired = ((s.unit u).retired || retires s u) ∧
    (t.unit u).corrected = (s.unit u).corrected + 1)
/-- R365, R364, R467: what a launch becomes when a die fails. -/
def afterFailure (die : Nat) (x y : Launch) : Prop :=
  if x.phase = .admitted ∨ x.phase = .ending then
    (x.desc.dies = die + 1 → y.phase = .ending ∧ 5 ∈ y.causes) ∧
    (x.desc.dies ≠ die + 1 → x.desc.dies = 0 → y.phase = x.phase ∧ y.grace = true ∧ 5 ∈ y.causes) ∧
    (x.desc.dies ≠ die + 1 → x.desc.dies ≠ 0 → y = x)
  else y = x
/-- R472: an ID of the device's list that the list of the other side names, too. -/
def common (list i : Nat) : Bool := decide (1 ≤ i ∧ i ≤ 6) && (capWalk list 256 [] (bits list 0 32)).any fun e => e.1 == i
/-- R458, R466: the next read of a warp that an instruction makes as it issues, or its next fetch, is to arrive marked. -/
def Arms (s t : State) (x : Nat) (unit : Option Nat) : Prop :=
  ((mapGet? s.warps (x / 2 ^ 11)).isSome = false → t = s) ∧ ((mapGet? s.warps (x / 2 ^ 11)).isSome = true →
    t = { s with armed := s.armed ++ [{ warp := x / 2 ^ 11, unit := unit, fetch := bitAt x 0, sector := x / 2 % 2 ^ 10 }] })
/-- R479: the boot state that FWSTAT reports, with its code; the reserved bits read 0. -/
def Boot (t : State) (state code : Nat) : Prop := t.dev.fwstat = BitVec.ofNat 32 (state + 16 * code)

end Sys2Proof.Claim

/-- R458, R460, R461, R464, R465: errors on links and in storage are counted and logged, spoil what held them, and bring the retirement of
their unit at its thresholds; the end of a window clears its counts. A unit that the device does not have changes nothing. A payload that
arrives marked marks one sector; what a CXL expander reports counts nowhere (R486). -/
def Sys2Proof.Claim.ErrorCounts : Prop := ∀ (s : State) (u x k : Nat),
  (∃ t, exec (.flitReceive u x) s = .next t ∧ (unitLegal u = false ∨ 3 ≤ u / 2 ^ 32 → t = s) ∧ (unitLegal u = true → u / 2 ^ 32 < 3 →
    (x % 8 = 1 → Claim.CountedOnce s t u) ∧
    ((x % 8 = 2 ∨ x % 8 = 3 ∧ s.flight? (x / 8) = none) → (Claim.thresholds s u).2 ≠ (s.unit u).uncorrected + 1 →
      t.unit u = { s.unit u with uncorrected := (s.unit u).uncorrected + 1 } ∧ Claim.OtherUnits s t u ∧
      Claim.Logged s t (Claim.errorRecord (u / 2 ^ 32) 1 (u % 2 ^ 32) 0 0 ((s.unit u).uncorrected + 1))) ∧
    (x % 8 = 3 → (Claim.thresholds s u).2 ≠ (s.unit u).uncorrected + 1 → ∀ f, s.flight? (x / 8) = some f →
      (t.unit u).uncorrected = (s.unit u).uncorrected + 1 ∧
      (∀ ps bad, f.kind = .store ps bad → ∃ hurt, { f with kind := .store ps (bad ++ hurt) } ∈ t.flights ∧
        (ps.flatten ≠ [] → ∃ p ∈ ps.flatten.map Prod.fst, hurt = (ps.flatten.map Prod.fst).filter (sameGranule p))) ∧
      (∀ ps n signed dst, f.kind = .load ps n signed dst false → s.canPerform f = true → f.dropped = false → ps.length ∈ [1, 2, 4, 8, 16] →
        Claim.Returns (s.warp f.warp) (t.warp f.warp) f.lane dst (Claim.loadedRegs ps.length) (fun _ => 0) f.who (some (Claim.poisonRec f)))) ∧
    (x % 8 = 4 → (t.unit u).retired = ((s.unit u).retired || Claim.retires s u)) ∧ (x % 8 = 5 → Claim.Arms s t (x / 8) (some u)) ∧
    (x % 8 = 0 ∨ 5 < x % 8 → t = s))) ∧
  (∃ t, exec (.storageError u x k) s = .next t ∧ (unitLegal u = false ∨ u / 2 ^ 32 < 3 → t = s) ∧ (unitLegal u = true → 3 ≤ u / 2 ^ 32 → x % 8 = 6 →
      (∀ n, s.route (64 * (x / 8)) = .cxl n → t = { s with dev := { s.dev with cxl := t.dev.cxl } } ∧ x / 8 ∈ (t.cxlPort n).poisoned) ∧
      ((∀ n, s.route (64 * (x / 8)) ≠ .cxl n) → t = s)) ∧
    (unitLegal u = true → 3 ≤ u / 2 ^ 32 → x % 8 ≠ 6 → (k = 0 → Claim.CountedOnce s t u) ∧
    (k = 0 → (Claim.thresholds s u).1 = (s.unit u).corrected + 1 → (s.unit u).retired = false →
      (u / 2 ^ 32 = 4 → (t.core (unitSite (u % 2 ^ 32))).retired = true) ∧
      (u / 2 ^ 32 = 3 → ∀ site, s.standIn? (unitSite (u % 2 ^ 32)) = some site →
        ∀ j < 192, t.sliceAt j = if s.sliceAt j = unitSite (u % 2 ^ 32) then site else s.sliceAt j)) ∧
    (k ≠ 0 → (t.unit u).uncorrected = (s.unit u).uncorrected + 1 ∧
      let y := x / 8
      let g := y / 2 ^ 20
      let n := y % 2 ^ 20
      (x % 8 = 0 → (mapGet? s.warps (y / 2 ^ 16)).isSome = true → y % 2 ^ 16 ∈ (t.warp (y / 2 ^ 16)).bad) ∧
      (x % 8 = 1 → (mapGet? s.wgs g).isSome = true → n ∈ (t.wg g).spPoison) ∧
      (x % 8 = 2 → Claim.logOff s → (Claim.thresholds s u).2 ≠ (s.unit u).uncorrected + 1 → y ∈ t.poison) ∧
      (x % 8 = 3 → (mapGet? s.wgs g).isSome = true → n ∈ (t.wg g).scalePoison) ∧
      (x % 8 = 4 → n < 64 * (s.wg g).tiles → mapGet? (t.wg g).region n = some { mapGet (s.wg g).region n Ace.cleared with pois := true }) ∧
      (x % 8 = 5 → ∀ e, s.keys[y]? = some e → ∀ e' ∈ t.keys, e'.tag = e.tag → e'.key = e.key → e'.poisoned = true)))) ∧
  ∃ t, exec (.errorWindowEnd u) s = .next t ∧ (unitLegal u = false → t = s) ∧ (unitLegal u = true →
    t = { s with dev := { s.dev with units := t.dev.units } } ∧ Claim.OtherUnits s t u ∧
    t.unit u = { s.unit u with corrected := 0, uncorrected := 0, thr := some (mapGet s.dev.rasThr (u / 2 ^ 32) 0) })

/-- R466, R472, R473, R476, R478, R488: an access that times out completes: a load with zeros and the data-poison fault, a store with each of
its parts performed or not; a CXL port that does not answer is isolated, its reads being poisoned from then on, and a clear ends the isolation
once its link has trained again (log entry 90); links come up, with the IDs that both sides list, and go down. -/
def Sys2Proof.Claim.Timeouts : Prop := ∀ (s : State) (f port list : Nat),
  (∃ t, exec (.accessTimeout f) s = .next t ∧ (2 ^ 40 ≤ f → Claim.Arms s t (f - 2 ^ 40) none) ∧
    (f < 2 ^ 40 → s.flight? f = none → t = s) ∧ ∀ x, f < 2 ^ 40 → s.flight? f = some x →
    ((x.timed && x.leaves && !x.toCore && s.underWay x) = false → t = s) ∧
    (x.leaves = true → x.toCore = false → s.canPerform x = true →
      (∀ ps n signed dst uniform, x.kind = .load ps n signed dst uniform →
        (∃ u, Claim.Points s u x x.acq false ∧ t.flights = Claim.without f u.flights) ∧
        (Claim.logOff s → Claim.Quiet s ps → s.dev.cxl = [] → t.dev = { s.dev with elDrop := s.dev.elDrop + 1 }) ∧
        (uniform = false → x.dropped = false → ps.length ∈ [1, 2, 4, 8, 16] →
          Claim.Returns (s.warp x.warp) (t.warp x.warp) x.lane dst (Claim.loadedRegs ps.length) (fun _ => 0) x.who (some (Claim.poisonRec x)))) ∧
      (∀ parts, x.kind = .store parts [] → (x.soft = 0 → ∀ g ∈ t.flights, g.id ≠ f) ∧ t.warps = s.warps ∧
        (Claim.logOff s → Claim.Quiet s (parts.flatten.map Prod.fst) → (parts.flatten.map fun c => Claim.bare c.1).Nodup → s.memoryWf →
          (∀ p, Claim.bare p ∉ (parts.flatten.map fun c => Claim.bare c.1) → Claim.rawByte t p = Claim.rawByte s p) ∧
          ∀ part ∈ parts, (∀ c ∈ part, Claim.lands s c.1 = true → Claim.rawByte t c.1 = c.2) ∨
            ∀ c ∈ part, Claim.rawByte t c.1 = Claim.rawByte s c.1)))) ∧
  (∃ t, exec (.cxlReadTimeout port) s = .next t ∧ (4 ≤ port ∨ (s.cxlPort port).isolated = true → t = s) ∧
    (port < 4 → (s.cxlPort port).isolated = false → (t.cxlPort port).ctl = (s.cxlPort port).ctl ||| 0x40 ∧
      (t.cxlPort port).trained = false ∧ (t.cxlPort port).stat.getLsbD 0 = false ∧
      (∀ n, n ≠ port → (t.cxlPort n).ctl = (s.cxlPort n).ctl ∧ (t.cxlPort n).trained = (s.cxlPort n).trained) ∧
      (∀ pa, t.route pa = .cxl port → t.paPoisoned pa = true) ∧
      (s.flights = [] → t = { s with mem := t.mem, poison := t.poison, dev := t.dev }))) ∧
  (∃ t, exec (.cxlClearIsolation port) s = .next t ∧ (4 ≤ port ∨ (s.cxlPort port).trained = false → t = s) ∧
    (port < 4 → (s.cxlPort port).trained = true → Claim.DevOnly s t ∧ t.cxlPort port = { s.cxlPort port with ctl := (s.cxlPort port).ctl &&& 0xFFFFFFBF } ∧
      ∀ n, n ≠ port → t.cxlPort n = s.cxlPort n)) ∧
  (∃ t, exec (.peerPortDown port) s = .next t ∧ ((mapGet s.dev.peers port {}).up = false → t = s) ∧ ((mapGet s.dev.peers port {}).up = true →
    mapGet t.dev.peers port {} = { mapGet s.dev.peers port {} with up := false } ∧
    (∀ p, p ≠ port → mapGet t.dev.peers p {} = mapGet s.dev.peers p {}) ∧
    ((∀ g ∈ s.flights, g.id < s.nextId) → ∀ x ∈ s.flights, (∃ pa ∈ physOf x.places, s.route pa = .peer port) →
      ((∃ ps n signed dst uniform, x.kind = .load ps n signed dst uniform) ∨ ∃ bs m, x.kind = .store bs m ∧ x.soft = 0) →
      ∀ g ∈ t.flights, g.id ≠ x.id))) ∧
  ∃ t, exec (.linkUp port list) s = .next t ∧ Claim.DevOnly s t ∧
    (port < 18 → t.dev = { s.dev with peers := t.dev.peers } ∧ (mapGet t.dev.peers port {}).up = true ∧
      (∀ i, bitAt (mapGet t.dev.peers port {}).caps i = Claim.common list i) ∧
      ∀ p, p ≠ port → mapGet t.dev.peers p {} = mapGet s.dev.peers p {}) ∧
    (18 ≤ port → port < 22 → t.dev = { s.dev with cxl := t.dev.cxl } ∧ (t.cxlPort (port - 18)).trained = true ∧
      (t.cxlPort (port - 18)).stat.extractLsb' 16 16 = (s.cxlPort (port - 18)).stat.extractLsb' 16 16 ∧
      (t.cxlPort (port - 18)).stat.toNat % 65536 = match (capWalk list 256 [] (bits list 0 32)).find? fun e => e.1 == 4 with
        | some e => 3 + 4 * min 1 e.2
        | none => 1) ∧
    (port = 22 → t.dev = { s.dev with adapter := t.dev.adapter } ∧ ∃ ids, t.dev.adapter = some ids ∧ ∀ i, bitAt ids i = Claim.common list i) ∧
    (22 < port → t = s)

/-- R316, R333, R364, R365, R467: the failure of a die takes its warps, address programs and key entries; each admitted launch that the die
carries ends, or goes on for a time, with status 5. -/
def Sys2Proof.Claim.DieFailures : Prop := ∀ (s : State) (die i : Nat),
  (∃ t, exec (.dieFailure die) s = .next t ∧ (2 ≤ die ∨ die ∈ s.dev.diesFailed → t = s) ∧ (die < 2 → die ∉ s.dev.diesFailed →
    t.dev.diesFailed = die :: s.dev.diesFailed ∧
    (∀ w, (mapGet? s.warps w).isSome = true → (s.warp w).core / 96 = die → (s.warp w).resident = true → (s.warp w).ended = false →
      (t.warp w).resident = false ∧ (t.warp w).ended = false ∧ ∀ l < 32, ((s.warp w).lane l).status ≠ .done →
        ((t.warp w).lane l).status = .hold ∧ ((t.warp w).lane l).wait = .none ∧ ((t.warp w).lane l).trap = none) ∧
    (∀ w, (s.warp w).core / 96 ≠ die ∨ (s.warp w).resident = false ∨ (s.warp w).ended = true → t.warp w = s.warp w) ∧
    (∀ e, e ∈ t.keys ↔ e ∈ s.keys ∧ t.keyLost e.key = false) ∧
    (∀ c, c / 96 = die → (t.core c).flint = []) ∧ (∀ c, c / 96 ≠ die → t.core c = s.core c) ∧
    (∀ j x, mapGet? s.launches j = some x → Claim.afterFailure die x (t.launch j)) ∧
    (KeysRise s.warps → (s.flights.map (·.id)).Nodup → ∀ f ∈ s.flights, (s.warp f.warp).core / 96 ≠ die →
      (f.isCopy = true → (s.wg f.wg).core / 96 ∉ die :: s.dev.diesFailed) → f ∈ t.flights))) ∧
  ∃ t, exec (.dieFailureGraceEnd i) s = .next t ∧ Claim.LaunchOnly s t i ∧
    ((s.launch i).grace = false ∨ (s.launch i).phase ≠ .admitted → t = s) ∧
    ((s.launch i).grace = true → (s.launch i).phase = .admitted → (t.launch i).phase = .ending ∧ 5 ∈ (t.launch i).causes)

/-- R62, R470, R472, R479, R480, R482, R483: a cold reset; the two images, each accepted only when nothing refuses it, and readiness after the
self-test; the attestation report; the trip; and writes by the host and by peers, which reach HBM. -/
def Sys2Proof.Claim.Booting : Prop := ∀ (s : State) (bs : List Byte) (agent addr : Nat),
  (∃ t, exec .coldReset s = .next t ∧ t = { State.reset with tick := s.tick, nextId := s.nextId, inputs := s.inputs }) ∧
  (∃ t, exec (.gneissImageLoad bs) s = .next t ∧ Claim.DevOnly s t ∧ (s.bootState ≠ 0 → t = s) ∧
    (s.bootState = 0 → (∀ c, imageFails? 1 bs = some c → t.dev = { s.dev with fwstat := t.dev.fwstat } ∧ Claim.Boot t 15 c) ∧
      (imageFails? 1 bs = none → Claim.Boot t 1 0 ∧ t.dev.mailbox = bs ∧ mapGet t.dev.fwDigests 1 [] = sha384 bs))) ∧
  (∃ t, exec (.serviceFirmwareLoad bs) s = .next t ∧ (s.bootState ≠ 1 → s.bootState ≠ 2 ∨ bs ≠ [] → t = s) ∧
    (s.bootState = 1 →
      (∀ c, imageFails? 2 bs = some c → t = { s with dev := { s.dev with fwstat := t.dev.fwstat } } ∧ Claim.Boot t 15 c) ∧
      (imageFails? 2 bs = none → Claim.DevOnly s t ∧ Claim.Boot t 2 0 ∧ t.dev.mailbox = bs ∧ mapGet t.dev.fwDigests 2 [] = sha384 bs)) ∧
    (s.bootState = 2 → bs = [] →
      t = { s with dev := { s.dev with fwstat := t.dev.fwstat }, cores := t.cores, tick := s.tick + 1 } ∧
      (Config.selfTest s.tick = false → Claim.Boot t 15 5 ∧ t.cores = s.cores) ∧
      (Config.selfTest s.tick = true → Claim.Boot t 3 0 ∧
        ∀ c < 192, t.core c = { s.core c with issueCtl := (s.core c).issueCtl &&& 0xFFFFFFFE }))) ∧
  (∃ t, exec (.attestationRequest bs) s = .next t ∧ Claim.DevOnly s t ∧ (bs.length ≠ 32 ∨ s.bootState = 0 ∨ 3 < s.bootState → t = s) ∧
    (bs.length = 32 → 1 ≤ s.bootState → s.bootState ≤ 3 → t.dev = { s.dev with mailbox := bs, report := t.dev.report, certs := t.dev.certs } ∧
      t.dev.report.take 8 = toBytes 4 1 ++ toBytes 4 1 ∧
      ((∀ k, (mapGet s.dev.fwDigests k (List.replicate 48 0)).length = 48) → t.dev.report.length = 272 ∧ (t.dev.report.drop 0x80).take 32 = bs))) ∧
  (∃ t, exec .thermalTrip s = .next t ∧ t = { s with dev := { s.dev with tripped := true } }) ∧
  ∃ t, exec (.systemAgentAccess agent addr bs) s = .next t ∧
    let linked := agent = 0 ∨ ((mapGet s.dev.peers (agent - 1) {}).up = true ∧ s.peerHas (agent - 1) 3 = true)
    (¬ linked → t = s) ∧ (linked → t = { s with mem := t.mem, poison := t.poison, hist := t.hist, dev := { s.dev with cxl := t.dev.cxl } } ∧
      (∀ pa, ¬ (addr ≤ pa ∧ pa < addr + bs.length) ∨ s.route pa ≠ .hbm → memRead t.mem pa = memRead s.mem pa) ∧
      (s.memoryWf → ∀ k < bs.length, s.route (addr + k) = .hbm → s.homeLost (addr + k) = false → memRead t.mem (addr + k) = bs.getD k 0))

namespace Sys2Proof.Claim

/-! ## The whole machine -/

/-- The state in which the device makes the move `m`: the one after the wait for an arrival, when `m` is the only move, or when a free
choice names it. -/
noncomputable def Moves (s u : State) (m : Machine.Move) : Prop :=
  (s.wait.moves = [m] ∧ u = s.wait) ∨
  (2 ≤ s.wait.moves.length ∧ u = (s.wait.choose s.wait.moves.length).2 ∧ s.wait.moves[(s.wait.choose s.wait.moves.length).1]? = some m)
/-- The state in which the instruction of a picked group begins: the counts of R46 and R47 are made, the group's lanes are the issue set,
and the windows of the accesses on their way count it (R57). -/
noncomputable def opened (u : State) (core sched : Nat) (c : Candidate) (g : Ready) : State :=
  (u.passCounts (u.candidates core sched) c g).openIssue c.warp g.pc g.set g.met
/-- What follows the meaning of an instruction `i` that began in `o`: the marks of what it wrote are gone, it is counted, nothing is being
issued, and what arrived marked for it is recorded (R468). -/
noncomputable def done (i : Instr) (n : Names) (o t : State) : State := (t.closeIssue o n).closeArmed o i
noncomputable def closed (i : Instr) (n : Names) (o : State) (r : Res) (q : Res) : Prop := match r with
  | .next t => q = .next (done i n o t)
  | x => q = x
/-- R36, R460: the meaning of `i` in `o` and its close; where the instruction reads an item with an uncorrectable error the data-poison fault
takes its place, after the illegal-instruction trap. -/
def ran (i : Instr) (pfx : Option Word) (o : State) (q : Res) : Prop :=
  (o.cur.spoilt (i.names pfx) = false → closed i (i.names pfx) o (exec i o) q) ∧
  ∀ t, o.cur.spoilt (i.names pfx) = true → exec i o = .next t →
    (o.isIllegal t = true → q = .next (done i (i.names pfx) o t)) ∧
    (o.isIllegal t = false → q = .next (done i (i.names pfx) o (o.trapE (o.record 8))))
/-- A vector register as base and stride; none for one with 32 values (R256). -/
def affine : VReg → Option (Word × Word)
  | .v => some (0, 0)
  | .u x => some (x, 0)
  | .a b st => some (b, st)
  | .g _ => none
/-- R102: a compact result; a stride of zero is written U. -/
def compact (b st : Word) : VReg := if st = 0 then .u b else .a b st
def isUniform : VReg → Prop
  | .v => True
  | .u _ => True
  | _ => False
/-- Source B as a register value. -/
def regB (s : State) (r : BitVec 7) : VReg := match wsB s with
  | some u => .u (s.cur.wreg u)
  | none => s.cur.vreg r.toNat
/-- Operand c as a register value (R99). -/
def regC (s : State) (d : BitVec 7) : VReg := match s.prefix? with
  | some p => s.cur.vreg p.q
  | none => s.cur.vreg d.toNat
/-- The integer instructions without a row of their own in R102, with their destination and their sources. -/
inductive PlainSrc (s : State) : Instr → BitVec 7 → List VReg → Prop
  | vand (c h d a b) : PlainSrc s (.vand c h d a b) d [s.cur.vreg a.toNat, regB s b]
  | vor (c h d a b) : PlainSrc s (.vor c h d a b) d [s.cur.vreg a.toNat, regB s b]
  | vxor (c h d a b) : PlainSrc s (.vxor c h d a b) d [s.cur.vreg a.toNat, regB s b]
  | andn (c h d a b) : PlainSrc s (.andn c h d a b) d [s.cur.vreg a.toNat, regB s b]
  | shr (c h d a b) : PlainSrc s (.shr c h d a b) d [s.cur.vreg a.toNat, regB s b]
  | sar (c h d a b) : PlainSrc s (.sar c h d a b) d [s.cur.vreg a.toNat, regB s b]
  | rot (c h d a b) : PlainSrc s (.rot c h d a b) d [s.cur.vreg a.toNat, regB s b]
  | bfe (c h d a b) : PlainSrc s (.bfe c h d a b) d [s.cur.vreg a.toNat, regB s b]
  | bfi (c h d a b) : PlainSrc s (.bfi c h d a b) d [s.cur.vreg a.toNat, regB s b, regC s d]
  | prmt (c h d a b) : PlainSrc s (.prmt c h d a b) d [s.cur.vreg a.toNat, regB s b, regC s d]
  | iminS (c h d a b) : PlainSrc s (.iminS c h d a b) d [s.cur.vreg a.toNat, regB s b]
  | iminN (c h d a b) : PlainSrc s (.iminN c h d a b) d [s.cur.vreg a.toNat, regB s b]
  | imaxS (c h d a b) : PlainSrc s (.imaxS c h d a b) d [s.cur.vreg a.toNat, regB s b]
  | imaxN (c h d a b) : PlainSrc s (.imaxN c h d a b) d [s.cur.vreg a.toNat, regB s b]
  | imulhiS (c h d a b) : PlainSrc s (.imulhiS c h d a b) d [s.cur.vreg a.toNat, regB s b]
  | imulhiN (c h d a b) : PlainSrc s (.imulhiN c h d a b) d [s.cur.vreg a.toNat, regB s b]
  | iaddsS (c h d a b) : PlainSrc s (.iaddsS c h d a b) d [s.cur.vreg a.toNat, regB s b]
  | iaddsN (c h d a b) : PlainSrc s (.iaddsN c h d a b) d [s.cur.vreg a.toNat, regB s b]
  | isubsS (c h d a b) : PlainSrc s (.isubsS c h d a b) d [s.cur.vreg a.toNat, regB s b]
  | isubsN (c h d a b) : PlainSrc s (.isubsN c h d a b) d [s.cur.vreg a.toNat, regB s b]
  | bitopPopc (c h d a) : PlainSrc s (.bitopPopc c h d a) d [s.cur.vreg a.toNat]
  | bitopClz (c h d a) : PlainSrc s (.bitopClz c h d a) d [s.cur.vreg a.toNat]
  | bitopCtz (c h d a) : PlainSrc s (.bitopCtz c h d a) d [s.cur.vreg a.toNat]
  | bitopBrev (c h d a) : PlainSrc s (.bitopBrev c h d a) d [s.cur.vreg a.toNat]
  | bitopNot (c h d a) : PlainSrc s (.bitopNot c h d a) d [s.cur.vreg a.toNat]
  | andi (c d a i) : PlainSrc s (.andi c d a i) d [s.cur.vreg a.toNat]
  | ori (c d a i) : PlainSrc s (.ori c d a i) d [s.cur.vreg a.toNat]
  | xori (c d a i) : PlainSrc s (.xori c d a i) d [s.cur.vreg a.toNat]
  | shri (c d a i) : PlainSrc s (.shri c d a i) d [s.cur.vreg a.toNat]
  | sari (c d a i) : PlainSrc s (.sari c d a i) d [s.cur.vreg a.toNat]
  | iminiS (c d a i) : PlainSrc s (.iminiS c d a i) d [s.cur.vreg a.toNat]
  | imaxiS (c d a i) : PlainSrc s (.imaxiS c d a i) d [s.cur.vreg a.toNat]
  | movi (c d i) : PlainSrc s (.movi c d i) d []
/-- Every integer instruction with a 32-bit result, with its destination and its sources: the ones above, and those that R102 names. -/
inductive IntSrc (s : State) : Instr → BitVec 7 → List VReg → Prop
  | plain (i d xs) : PlainSrc s i d xs → IntSrc s i d xs
  | iadd (c h d a b) : IntSrc s (.iadd c h d a b) d [s.cur.vreg a.toNat, regB s b]
  | isub (c h d a b) : IntSrc s (.isub c h d a b) d [s.cur.vreg a.toNat, regB s b]
  | imul (c h d a b) : IntSrc s (.imul c h d a b) d [s.cur.vreg a.toNat, regB s b]
  | imad (c h d a b) : IntSrc s (.imad c h d a b) d [s.cur.vreg a.toNat, regB s b, regC s d]
  | shl (c h d a b) : IntSrc s (.shl c h d a b) d [s.cur.vreg a.toNat, regB s b]
  | sel (c h d a b) : IntSrc s (.sel c h d a b) d [s.cur.vreg a.toNat, regB s b]
  | mov (c h d a) : IntSrc s (.mov c h d a) d [s.cur.vreg a.toNat]
  | iaddi (c d a i) : IntSrc s (.iaddi c d a i) d [s.cur.vreg a.toNat]
  | imuli (c d a i) : IntSrc s (.imuli c d a i) d [s.cur.vreg a.toNat]
  | shli (c d a i) : IntSrc s (.shli c d a i) d [s.cur.vreg a.toNat]
  | laneidx (c d a i) : IntSrc s (.laneidx c d a i) d [s.cur.vreg a.toNat]
/-- The vector registers that an instruction writes lane by lane: integer, immediate, pair, saturating, float, conversion, random, lane and
warp results. -/
inductive Dests (s : State) : Instr → List Nat → Prop
  | int (i d v) : IntVal s i d v → Dests s i [d]
  | imm (i d v) : ImmVal s i d v → Dests s i [d]
  | pair (i d v) : PairVal s i d v → Dests s i [d, d + 1]
  | num (i d n f r) : NumVal s i d n f r → Dests s i (List.range' d n)
  | conv (i d n f r) : ConvVal s i d n f r → Dests s i (List.range' d n)
  | lane (i d v) : LaneVal s i d v → Dests s i [d]
  | warp (i d v fl wc) : WarpVal s i d v fl wc → Dests s i [d]
/-- The oldest of the candidates that meet a condition. -/
def Oldest (cs : List Candidate) (p : Candidate → Prop) (c : Candidate) : Prop := p c ∧ ∀ d ∈ cs, p d → c.age ≤ d.age

end Sys2Proof.Claim

/-- Every instruction answers with a next state, in every state: none ends in a fault or a refusal. One that does not issue yet
answers with the state it has (log entry 17). -/
def Obligations.ExecAnswers : Prop := ∀ (i : Instr) (s : State), Answers (exec i s)

/-- The device never stops: every step answers with a next state, where what stands in `issue` is as between steps. -/
def Obligations.StepAnswers : Prop := ∀ s, IssueInv s → Answers (step s)

/-- R24, R26: what stands in `issue` between steps stays nothing, or a latched prefix with a base word that is legal after it. -/
def Obligations.StepKeepsIssue : Prop := ∀ s t, IssueInv s → step s = .next t → IssueInv t

/-- Physical memory, every scratchpad window and every scale memory keep their one form: addresses rising, and no byte listed that is
zero. -/
def Obligations.StepKeepsMemory : Prop := ∀ s t, s.memoryWf → step s = .next t → t.memoryWf

/-- The maps of the state stay in order, and accesses on their way keep names of their own. -/
def Obligations.StepKeepsTidy : Prop := ∀ s t, s.Tidy → step s = .next t → t.Tidy

/-- R5, R62, R461, R479, R480, R483: after a cold reset nothing runs and nothing is on its way, the registers read their reset values, and the
state meets what every step keeps. -/
def Obligations.ResetState : Prop :=
  (IssueInv State.reset ∧ State.reset.memoryWf ∧ State.reset.Tidy) ∧
  (State.reset.warps = [] ∧ State.reset.launches = [] ∧ State.reset.flights = [] ∧ State.reset.keys = [] ∧ State.reset.pins = []) ∧
  (∀ e ∈ ([(0x1000, 0), (0x10018, 0), (0x10028, 0), (0x10030, 2), (0x10100, 0x00040100), (0x10104, 0x00040100), (0x10108, 0x00101000),
      (0x1010C, 0x00020040), (0x10110, 0x00020040), (0x10114, 0), (0x10210, 0x28), (0x10214, 0), (0x10400, 2700)] : List (Nat × Word)),
    State.reset.windowRead e.1 = e.2) ∧
  ∀ c, (State.reset.core c).issueCtl = 1

/-- R17, R19, R24, R35, R36, R47, R49, R460: when the device issues from a scheduler, the step is the meaning of the instruction that the bytes at
the picked group's program counter decode to, in the state opened for it, and then its close. A fetch whose sector is to arrive marked meets
the fetch fault (R458, R459). -/
def Sys2Proof.Claim.StepRunsDecoded : Prop := ∀ (s u : State) (core sched : Nat) (c : Candidate) (g : Ready),
  s.issue.open_ = false → s.due? = none → Claim.Moves s u (.issue core sched) →
  pickWarp (u.candidates core sched) = some c → pickGroup (u.warp c.warp) c.groups = some g →
  let x := u.launch (u.warp c.warp).launch
  let o := Claim.opened u core sched c g
  (g ∈ c.groups → c ∈ u.candidates core sched →
    (u.fetchArmed? c.warp = none → g.met = u.meet x g.pc) ∧ ((u.fetchArmed? c.warp).isSome = true → g.pc < x.desc.limit.toNat → g.met = .fetchFault 0 none)) ∧
  (∀ w i, g.pc < x.desc.limit.toNat → u.codeWord? x g.pc = some w → isPrefix w = false → decode w = .ok i → WellFormed.alone i = true →
    g.met = u.meet x g.pc → i ≠ .illegalInstruction → i ≠ .instructionFetchFault → Claim.ran i none o (step s)) ∧
  (∀ w p, g.met = .illegal w p → Claim.closed .illegalInstruction (Instr.illegalInstruction.names p) o (exec .illegalInstruction o) (step s)) ∧
  (∀ w p, g.met = .fetchFault w p → Claim.closed .instructionFetchFault (Instr.instructionFetchFault.names p) o (exec .instructionFetchFault o) (step s)) ∧
  ∀ p w i, g.pc + 1 < x.desc.limit.toNat → g.pc % 3 ≠ 2 → u.codeWord? x g.pc = some p → u.codeWord? x (g.pc + 1) = some w → isPrefix p = true →
    decode w = .ok i → WellFormed.paired p i = true → g.met = u.meet x g.pc →
    step s = .next { o with issue := { o.issue with word := w, pfx := some p, open_ := true } }

/-- R24, R36, R50, R460: the step after a prefix is the meaning of its base word. -/
def Sys2Proof.Claim.StepRunsBase : Prop := ∀ (s : State) (i : Instr), s.issue.open_ = true → decode s.issue.word = .ok i →
  let o : State := { s with issue := { s.issue with open_ := false } }
  i ≠ .illegalInstruction → i ≠ .instructionFetchFault → Claim.ran i s.issue.pfx o (step s)

/-- An event that arrives from outside is taken as it is, where the device takes it: not once it has tripped (R483), only those of the boot
before the service firmware runs (R480), and not one that the adapter's list leaves out (R472); otherwise time passes before the service
firmware runs (R480), and after that the device makes a move of its own, and one event of the device, one retry of lanes in HOLD, one instruction of an address program, one store that reaches its core or one step of
an ordering point, or one L1 that drops a line of older values is a move. The list of arrivals
and the order of moves are the model's choice (log entries 2, 7, 14). -/
def Obligations.StepTakesEvents : Prop := ∀ (s : State), s.issue.open_ = false →
  (∀ i, s.due? = some i → s.takes i = true → step s = idleAfter (exec i { s with inputs := s.inputs.drop 1 })) ∧
  (∀ i, s.due? = some i → s.takes i = false → step s = .next { s with inputs := s.inputs.drop 1 }) ∧
  (s.due? = none → s.wait.moves = [] → step s = .next { s.wait with tick := s.tick + 1 }) ∧
  (s.due? = none → s.firmwareRuns = false → step s = .next { s.wait with tick := s.tick + 1 }) ∧
  (∀ u i, s.due? = none → Claim.Moves s u (.event i) → step s = idleAfter (exec i u)) ∧
  (∀ u w n t, s.due? = none → Claim.Moves s u (.retry w n) → u.retry? w n = some t → step s = .next t) ∧
  (∀ u f x t, s.due? = none → Claim.Moves s u (.stage f) → u.flight? f = some x → u.stage? x = some t → step s = .next t) ∧
  (∀ u g, s.due? = none → Claim.Moves s u (.refresh g) → ∃ t, step s = .next t ∧ t = { u with wgs := t.wgs, tick := u.tick + 1 } ∧
    (∀ e ∈ (u.wg g).stale, ∃ k, (∃ x ∈ (u.wg g).stale, x.1 / 128 = k) ∧
      t.wg g = { u.wg g with stale := (u.wg g).stale.filter fun x => x.1 / 128 != k }) ∧ ∀ h, h ≠ g → t.wg h = u.wg h) ∧
  ∀ u core slot, s.due? = none → Claim.Moves s u (.flint core slot) →
    let run (w : Word) (i : Instr) := idleAfter (exec i { u with issue := { word := w, flint := some (core, slot) } })
    (∀ w i, u.flintMeet core slot = some (w, some i) → step s = run w i) ∧
    (∀ w, u.flintMeet core slot = some (w, none) → step s = run w (.flintIllegalInstruction core slot)) ∧
    (u.flintMeet core slot = none → step s = run 0 (.flintCodeFetchFault core slot))

/-- R46: the pick of a scheduler: the highest effective priority; among equals a warp passed over 256 times, the oldest of these, and
else the oldest; and the counts after it. -/
def Obligations.PickOfWarps : Prop := ∀ (s : State) (cs : List Candidate) (g : Ready),
  (pickWarp cs = none ↔ cs = []) ∧ ∀ c, pickWarp cs = some c →
    c ∈ cs ∧ (∀ d ∈ cs, d.prio ≤ c.prio) ∧
    (((∃ d ∈ cs, d.prio = c.prio ∧ 256 ≤ d.passes) → Claim.Oldest cs (fun d => d.prio = c.prio ∧ 256 ≤ d.passes) c) ∧
      ((∀ d ∈ cs, d.prio = c.prio → d.passes < 256) → Claim.Oldest cs (fun d => d.prio = c.prio) c)) ∧
    ((cs.map Candidate.warp).Nodup → ((s.passCounts cs c g).warp c.warp).passCount = 0 ∧
      ∀ d ∈ cs, d.warp ≠ c.warp → ((s.passCounts cs c g).warp d.warp).passCount =
        if d.prio = c.prio then min ((s.warp d.warp).passCount + 1) 256 else (s.warp d.warp).passCount)

/-- R47: the issue set of a picked warp: among the groups with a lane passed over 64 times the one with the lowest program counter, and
else the group with most lanes, ties to the lowest program counter; and the lanes' counts after it, from 0 at a warp's start and when it
resumes. -/
def Obligations.PickOfGroups : Prop := ∀ (x : Warp) (gs : List Ready),
  let late (g : Ready) : Prop := ∃ l ∈ lanesOf g.set, 64 ≤ (x.lane l).passed
  (pickGroup x gs = none ↔ gs = []) ∧ (∀ g, pickGroup x gs = some g →
    g ∈ gs ∧
    ((∃ h ∈ gs, late h) → late g ∧ ∀ h ∈ gs, late h → g.pc ≤ h.pc) ∧
    ((∀ h ∈ gs, ¬ late h) → ∀ h ∈ gs, laneCount h.set < laneCount g.set ∨ (laneCount h.set = laneCount g.set ∧ g.pc ≤ h.pc)) ∧
    ∀ l < 32, ((x.passLanes gs g.set).lane l).passed =
      if g.set.getLsbD l then 0
      else if ∃ h ∈ gs, h.set.getLsbD l = true then min ((x.lane l).passed + 1) 64 else (x.lane l).passed) ∧
  (∀ y i key g wgid index core slot age h, ∀ l < 32, ((Launch.newWarp y i key g wgid index core slot age h).lane l).passed = 0) ∧
  ∀ l < 32, (x.resumed.lane l).passed = 0

/-- R102: the tags of integer results: G where some lane is outside E, or a source is G; with every lane in E the rows of the table, and the
values of the compact results. -/
def Sys2Proof.Claim.CompactTags : Prop := ∀ (s : State) (c h : BitVec 1) (d a b : BitVec 7) (im : BitVec 8), s.eff ≠ 0 → s.fits [d.toNat] →
  let full := s.eff = allLanes
  let A := s.cur.vreg a.toNat
  let B := Claim.regB s b
  let C := Claim.regC s d
  (∀ i xs, Claim.IntSrc s i d xs → ¬ full ∨ (∃ x ∈ xs, x.isG = true) → ∃ t, exec i s = .next t ∧ (t.cur.vreg d.toNat).isG = true) ∧
  (full → ∀ i xs, Claim.PlainSrc s i d xs → ∃ t, exec i s = .next t ∧ ((t.cur.vreg d.toNat).isG = false ↔ ∀ x ∈ xs, Claim.isUniform x) ∧
    ((∀ x ∈ xs, Claim.isUniform x) → t.cur.vreg d.toNat = .u ((t.cur.vreg d.toNat).lane 0))) ∧
  (full → ∀ x y, Claim.affine A = some x → Claim.affine B = some y →
    (∃ t, exec (.iadd c h d a b) s = .next t ∧ t.cur.vreg d.toNat = Claim.compact (x.1 + y.1) (x.2 + y.2)) ∧
    (∃ t, exec (.isub c h d a b) s = .next t ∧ t.cur.vreg d.toNat = Claim.compact (x.1 - y.1) (x.2 - y.2)) ∧
    (∃ t, exec (.imul c h d a b) s = .next t ∧
      (Claim.isUniform B → t.cur.vreg d.toNat = Claim.compact (x.1 * y.1) (x.2 * y.1)) ∧
      (Claim.isUniform A → t.cur.vreg d.toNat = Claim.compact (x.1 * y.1) (x.1 * y.2)) ∧
      (¬ Claim.isUniform A → ¬ Claim.isUniform B → (t.cur.vreg d.toNat).isG = true)) ∧
    (∀ z, Claim.affine C = some z → ∃ t, exec (.imad c h d a b) s = .next t ∧
      (Claim.isUniform B → t.cur.vreg d.toNat = Claim.compact (x.1 * y.1 + z.1) (x.2 * y.1 + z.2)) ∧
      (Claim.isUniform A → t.cur.vreg d.toNat = Claim.compact (x.1 * y.1 + z.1) (x.1 * y.2 + z.2)) ∧
      (¬ Claim.isUniform A → ¬ Claim.isUniform B → (t.cur.vreg d.toNat).isG = true)) ∧
    (∃ t, exec (.shl c h d a b) s = .next t ∧
      (Claim.isUniform B → t.cur.vreg d.toNat = if y.1.toNat < 32 then Claim.compact (x.1 <<< y.1.toNat) (x.2 <<< y.1.toNat) else .u 0) ∧
      (¬ Claim.isUniform B → (t.cur.vreg d.toNat).isG = true)) ∧
    (∃ t, exec (.sel c h d a b) s = .next t ∧
      (s.cur.mask 0 = allLanes → t.cur.vreg d.toNat = Claim.compact x.1 x.2) ∧ (s.cur.mask 0 = 0 → t.cur.vreg d.toNat = Claim.compact y.1 y.2) ∧
      (s.cur.mask 0 ≠ allLanes → s.cur.mask 0 ≠ 0 → (t.cur.vreg d.toNat).isG = true))) ∧
  (full → ∀ x, Claim.affine A = some x →
    (∃ t, exec (.mov c h d a) s = .next t ∧ t.cur.vreg d.toNat = Claim.compact x.1 x.2) ∧
    (∃ t, exec (.iaddi c d a im) s = .next t ∧ t.cur.vreg d.toNat = Claim.compact (x.1 + Claim.imm s im true) x.2) ∧
    (∃ t, exec (.imuli c d a im) s = .next t ∧ t.cur.vreg d.toNat = Claim.compact (x.1 * Claim.imm s im true) (x.2 * Claim.imm s im true)) ∧
    (∃ t, exec (.shli c d a im) s = .next t ∧ let k := (Claim.imm s im false).toNat
      t.cur.vreg d.toNat = if k < 32 then Claim.compact (x.1 <<< k) (x.2 <<< k) else .u 0) ∧
    ∃ t, exec (.laneidx c d a im) s = .next t ∧ t.cur.vreg d.toNat = Claim.compact x.1 (x.2 + Claim.imm s im true))

/-- R102, R103, R259: with some lane outside E every result takes a row, for each of the integer, immediate, pair, float, conversion, lane and
warp results; where the rows that the registers still need are not left, every lane of the issue set takes the register-overflow trap,
and nothing else changes. -/
def Sys2Proof.Claim.RegisterOverflow : Prop := ∀ (s : State) (i : Instr) (ds : List Nat), Claim.Dests s i ds → s.eff ≠ 0 → s.eff ≠ allLanes →
  let need := (ds.filter fun r => !(s.cur.vreg r).isG).length
  (s.fits ds → ∃ t, exec i s = .next t ∧ ∀ r ∈ ds, (t.cur.vreg r).isG = true) ∧
  (KeysRise s.cur.vregs → ds ≠ [] → s.cur.budget < s.cur.rows + need →
    ∃ t, exec i s = .next t ∧ TrapResult s t (fun _ => some (Claim.rowsRec s need)))

/-! ## The statements that join several claims -/

/-- R114, R115: the integer forms of class 0x2 and the 64-bit results of class 0x0. -/
def Obligations.ImmediateAndPairResults : Prop := Claim.ImmediateResults ∧ Claim.PairResults

/-- R141 to R144, R146: shuffles, MATCH, values of masks, votes, reductions and scans. -/
def Obligations.LaneAndWarpResults : Prop := Claim.LaneResults ∧ Claim.WarpResults

/-- R73, R108, R118 to R124, R131 to R137: saturating and float results, conversions, packing, approximate functions and random numbers. The
results of the approximate functions hold a free value (log entry 9); the order of NaN sources in FDOT2 and the IV of its
opposing infinities are the model's choice (log entries 25, 85), and so are the generator's steps and a zero's sign in E8M0, FRND, FLERP and SQRT (log
entries 58, 61 to 63). -/
def Obligations.NumberAndConversionResults : Prop := Claim.NumberResults ∧ Claim.ConversionResults

/-- R125 to R130, R142, R145, R147: the uniform instructions, the mask algebra and the masks written whole. -/
def Obligations.UniformAndWholeMasks : Prop := Claim.UniformResults ∧ Claim.WholeMasks

/-- R150, R151: the branches, and the loop branch with its counter. -/
def Obligations.BranchesAndLoops : Prop := Claim.Branches ∧ Claim.LoopBranch

/-- R151, R153, R154, R329: calls, and the ends of lanes and of warps. -/
def Obligations.CallsAndEnds : Prop := Claim.Calls ∧ Claim.LaneEnds

/-- R156 to R172, R415: loads, stores, atomics and uniform loads, and R295 for lanes without an access, as they issue. That an access is one entry of the
model's list of accesses on their way is the model's choice (log entries 15, 16). -/
def Obligations.AccessesIssue : Prop := Claim.LoadsIssue ∧ Claim.StoresIssue ∧ Claim.AtomicsIssue ∧ Claim.UniformLoad

/-- R57, R161 to R163, R168 to R172, R286, R291, R293, R294, R296, R297, R299: what an access on its way does when it is performed. That each stage is one step is the
model's choice (log entry 15), and so is what an ordering point covers (log entry 16). -/
def Obligations.AccessesPerform : Prop := Claim.LoadReturns ∧ Claim.StorePerforms ∧ Claim.AtomicPerforms

/-- R176 to R179, R189 to R191, R204: rows of the accumulator region, MFMT and the scale memory as they are written. That AMOV tests
its source before its destination is the model's choice (log entry 64), and so is that SCLD reads as it issues (log entry 15). -/
def Obligations.AccumulatorWrites : Prop := Claim.AccumulatorRows ∧ Claim.FormatWrite ∧ Claim.ScaleLoad

/-- R192 to R200, R277, R289, R458: resolved values and compares, drains as they issue, rows loaded, and what an instruction that reads as it issues
does. That a row of ALOAD is read at the issue, and waits there, is the model's choice (log entries 15, 16); so is ADDR of a row's fault (log entry
66). -/
def Obligations.AccumulatorTransfers : Prop := Claim.ResolveAndCompare ∧ Claim.DrainsIssue ∧ Claim.RowLoads ∧ Claim.IssueReads

/-- R90, R91, R181, R183, R201 to R204, R267, R274, R281: tile operations, and their steps. A step is one step of the model (log entry 15), TWAIT.OC
acts as TWAIT (log entry 20), S is a free value (log entry 8), and the lanes of IV and the order of the ring fault and the descriptor fault are the
model's choice (log entries 68, 78). -/
def Obligations.TileProducts : Prop := Claim.TileOperations ∧ Claim.TileSteps

/-- R71, R207 to R210, R214: edges, filters and the packing of quads. -/
def Obligations.EdgesAndQuads : Prop := Claim.EdgesAndFilters ∧ Claim.QuadPacking

/-- R160, R211 to R213, R215, R216, R289, R458: texture gathers and blending. That the texels of TEXG, and the pixels of BLND, are read at the issue,
and that the instruction waits there, is the model's choice (log entries 15, 16). -/
def Obligations.TexturesAndBlending : Prop := Claim.TextureGather ∧ Claim.Blending

/-- R217, R218, R220, R221, R377, R380: compressed tiles, meshlet records and bins. That the tile of CUNPK, and the pixels of CPACK, are read at the
issue, and that the instruction waits there, is the model's choice (log entries 15, 16); so are a poisoned record that is read as zeros, the fault of a
record's counts, and what BINNEXT gives at the end of a pass (log entries 39, 86, 87). -/
def Obligations.TilesAndMeshlets : Prop := Claim.PackedTilesUnpack ∧ Claim.TileCompression ∧ Claim.MeshletsAndBins

/-- R223 to R225, R311 to R314, R474: arrivals, waits, releases and peers' messages. That a release waits by not issuing is the model's choice (log
entry 16); so are the record of a message that names no tree, and trees once die 0 has failed (log entries 28, 77). -/
def Obligations.BarrierPhases : Prop := Claim.BarrierArrival ∧ Claim.BarrierWaits ∧ Claim.PeerMessages

/-- R227 to R229, R295, R305, R323, R324, R329, R489: requests and leaves, at the core and at their homes. The fields of records that the spec
leaves out, that the tests of one instruction are served together, and that a release waits as an entry of the list of accesses, are the model's choice
(log entries 16, 29, 55). -/
def Obligations.OrderedSections : Prop := Claim.SectionRequests ∧ Claim.RequestsAtHome ∧ Claim.LeavesAtHome

/-- R226, R230, R317, R318, R324, R326, R327: numbers retired, numbers given out, and quiet intervals. The fields of records that the spec leaves out,
and the cause of a counter whose home is lost, are the model's choice (log entries 29, 70). -/
def Obligations.SequenceAndQuiet : Prop := Claim.RetiringNumbers ∧ Claim.QuietIntervals ∧ Claim.SequenceNumbers

/-- R231 to R235, R263, R295, R298, R299: puts, put counters and fences. That a fence is an entry of the list of accesses is
the model's choice (log entry 16). -/
def Obligations.PutsAndFences : Prop := Claim.PutsIssue ∧ Claim.PutCounters ∧ Claim.Fences

/-- R236 to R238, R267, R296: slots of rings, and reconfiguration. That QREL and QPCOMMIT, as releases, wait by not issuing is the model's choice (log
entry 16), and so is a copy that waits while its ring changes (log entry 79). -/
def Obligations.RingTransfers : Prop := Claim.RingSlots ∧ Claim.RingReconfiguration

/-- R238 to R241, R268, R286, R289, R295, R301, R312, R459: copies as they issue, take their slots and land. One step lands one element by the model's
choice, and so are the element's bytes that count one after another, when a mark goes, and a copy that waits while its ring changes (log entries 15, 38, 56, 79,
89); the queue's length is a free value, and the waiting of a release rests on log entry 16. -/
def Obligations.CopyCommands : Prop := Claim.CopiesIssue ∧ Claim.CopySlots ∧ Claim.CopiesProceed

/-- R238, R242, R243, R269 to R271, R302, R403, R431: address programs. What the spec leaves open of their faults, of the accesses of a transfer, of a slot
that a stopped program held, and of a poisoned code word is the model's choice (log entries 15, 29, 31, 80, 81); that XSIG, as a release, waits is log
entry 16. -/
def Obligations.AddressPrograms : Prop := Claim.ProgramsStart ∧ Claim.ProgramSteps ∧ Claim.ProgramSlots ∧ Claim.ProgramTransfers ∧ Claim.ProgramEvents

/-- R64, R72, R244, R245: special registers, modes and queries. Reserved bits that SYSWR stores as zero are the model's choice (log entry 32), and the
counters of timing are free values (log entry 33). -/
def Obligations.SystemInstructions : Prop := Claim.SystemRegisters ∧ Claim.ModesAndQueries

/-- R248, R258 to R262: rows given back and taken, and evictions. What an eviction keeps of waiting lanes, and a grant past 128 rows, are the
model's choice (log entries 22, 23, 29, 72); the compact words that R256 calls Ignored hold zero by log entry 88. -/
def Obligations.RowBudgets : Prop := Claim.RowsGivenBack ∧ Claim.RowsTaken ∧ Claim.Evictions

/-- R58, R152, R163, R247, R405 to R410, R412: traps taken and returned from, and the frame instructions. The frame of a warp in handler mode, and the
compact words that R256 calls Ignored, are the model's choice (log entries 37, 88). -/
def Obligations.TrapsAndFrames : Prop := Claim.TrapsAndReturns ∧ Claim.FrameInstructions

/-- R24, R26, R246, R413, R429: regions, the debugger's halt and resume, and prefixes. What a resume restores, and that it
leaves the pass-over counts, are the model's choice (log entries 23, 84). -/
def Obligations.RegionsAndPrefixes : Prop := Claim.RegionsAndDebug ∧ Claim.Prefixes

/-- R155, R224, R249, R294, R345, R362, R366, R367: device-side launches, events, and the ends of warps. A pool that cannot be read is the model's choice (log
entry 34); that WAITEV and LAUNCH, as ordering points, wait by not issuing rests on log entry 16. -/
def Obligations.LaunchesAndEnds : Prop := Claim.LaunchesAndEvents ∧ Claim.WarpsEnd

/-- R62, R244, R322, R326, R342, R344, R389, R396, R401, R468, R471, R483: the registers that the host and the service firmware write. What a write that
clears EN stores, and the firmware's offset, are the model's choice (log entries 45, 75). -/
def Obligations.HostRegisterWrites : Prop := Claim.HostRegisters

/-- R343 to R345, R352, R368 to R370, R389, R401: the operations of the host queues. What a domain is between DOMFREE and its last launch's end is
the model's choice (log entry 83). -/
def Obligations.HostQueues : Prop := Claim.QueueEntries

/-- R392, R394, R396 to R399, R401: the commands of the invalidation queue. What the spec leaves open of RETRY and of IQDONE's width is the model's choice (log
entries 35, 44). -/
def Obligations.InvalidationQueue : Prop := Claim.Invalidations

/-- R341, R353, R354, R361 to R363, R401: the dispatcher's moves on launches. What the spec leaves open of them is the model's choice (log entries 42 to
44, 73). -/
def Obligations.Dispatch : Prop := Claim.Dispatching

/-- R354, R360, R415 to R419, R423 to R426: pre-emption, drains, and the storing of a unit. The moves of R360 come as the model orders them (log entries 14,
22, 23). -/
def Obligations.Preemption : Prop := Claim.Preempting

/-- R371, R376 to R383: the stages of a render pass. What the spec leaves open of them is the model's choice (log entry 43). -/
def Obligations.RenderPassStages : Prop := Claim.RenderPasses

/-- R458, R460, R461, R464, R465, R468: errors, their counts and records, and retirement. The numbers of units, outcomes and places are the model's
choice (log entries 46, 47). -/
def Obligations.ErrorsAndRetirement : Prop := Claim.ErrorCounts

/-- R466, R472, R473, R476, R478, R486, R488: timeouts, isolation, and links that come up and go down. What the spec leaves open of them is the model's choice (log
entries 14, 48, 51, 90). -/
def Obligations.TimeoutsAndLinks : Prop := Claim.Timeouts

/-- R316, R333, R364, R365, R467: the failure of a die. What becomes of a lost warp's accesses is the model's choice (log entries 12, 49). -/
def Obligations.DieFailure : Prop := Claim.DieFailures

/-- R62, R470, R472, R479, R480, R482, R483: reset, boot, attestation, the trip, and system agents. The order of the image checks, the service
firmware's readiness as the same event with no image, and what a reset clears are the model's choice (log entries 50, 51); digests, signatures and the self-test are free values (log entry 13). -/
def Obligations.BootAndAgents : Prop := Claim.Booting

/-- R17, R24, R35, R36, R49, R50, R460: a step runs the instruction that the fetched words decode to. -/
def Obligations.StepRunsInstructions : Prop := Claim.StepRunsDecoded ∧ Claim.StepRunsBase

/-- R102: the tags of integer results, with every lane in E or with some. -/
def Obligations.ResultTags : Prop := Claim.CompactTags

/-- R102, R103, R259: the rows that results take, and the register-overflow trap. -/
def Obligations.RegisterOverflows : Prop := Claim.RegisterOverflow
end

