-- ==== Sys2Proof/Laws/Exec.lean ====
section
/-! SUPPORT. Which meaning each instruction has: one lemma per arm of `exec`, true by definition, so that no proof opens the whole match. -/

namespace Sys2Proof.Machine

@[simp] theorem exec_iadd (x0 : BitVec 1) (x1 : BitVec 1) (d : BitVec 7) (a : BitVec 7) (b : BitVec 7) (s : State) : exec (.iadd x0 x1 d a b) s = execIadd d a b s := rfl
@[simp] theorem exec_isub (x0 : BitVec 1) (x1 : BitVec 1) (d : BitVec 7) (a : BitVec 7) (b : BitVec 7) (s : State) : exec (.isub x0 x1 d a b) s = execIsub d a b s := rfl
@[simp] theorem exec_imul (x0 : BitVec 1) (x1 : BitVec 1) (d : BitVec 7) (a : BitVec 7) (b : BitVec 7) (s : State) : exec (.imul x0 x1 d a b) s = execImul d a b s := rfl
@[simp] theorem exec_imulhiS (x0 : BitVec 1) (x1 : BitVec 1) (d : BitVec 7) (a : BitVec 7) (b : BitVec 7) (s : State) : exec (.imulhiS x0 x1 d a b) s = execImulhiS d a b s := rfl
@[simp] theorem exec_imulhiN (x0 : BitVec 1) (x1 : BitVec 1) (d : BitVec 7) (a : BitVec 7) (b : BitVec 7) (s : State) : exec (.imulhiN x0 x1 d a b) s = execImulhiN d a b s := rfl
@[simp] theorem exec_imad (x0 : BitVec 1) (x1 : BitVec 1) (d : BitVec 7) (a : BitVec 7) (b : BitVec 7) (s : State) : exec (.imad x0 x1 d a b) s = execImad d a b s := rfl
@[simp] theorem exec_iaddsS (x0 : BitVec 1) (x1 : BitVec 1) (d : BitVec 7) (a : BitVec 7) (b : BitVec 7) (s : State) : exec (.iaddsS x0 x1 d a b) s = execIaddsS d a b s := rfl
@[simp] theorem exec_iaddsN (x0 : BitVec 1) (x1 : BitVec 1) (d : BitVec 7) (a : BitVec 7) (b : BitVec 7) (s : State) : exec (.iaddsN x0 x1 d a b) s = execIaddsN d a b s := rfl
@[simp] theorem exec_isubsS (x0 : BitVec 1) (x1 : BitVec 1) (d : BitVec 7) (a : BitVec 7) (b : BitVec 7) (s : State) : exec (.isubsS x0 x1 d a b) s = execIsubsS d a b s := rfl
@[simp] theorem exec_isubsN (x0 : BitVec 1) (x1 : BitVec 1) (d : BitVec 7) (a : BitVec 7) (b : BitVec 7) (s : State) : exec (.isubsN x0 x1 d a b) s = execIsubsN d a b s := rfl
@[simp] theorem exec_iminS (x0 : BitVec 1) (x1 : BitVec 1) (d : BitVec 7) (a : BitVec 7) (b : BitVec 7) (s : State) : exec (.iminS x0 x1 d a b) s = execIminS d a b s := rfl
@[simp] theorem exec_iminN (x0 : BitVec 1) (x1 : BitVec 1) (d : BitVec 7) (a : BitVec 7) (b : BitVec 7) (s : State) : exec (.iminN x0 x1 d a b) s = execIminN d a b s := rfl
@[simp] theorem exec_imaxS (x0 : BitVec 1) (x1 : BitVec 1) (d : BitVec 7) (a : BitVec 7) (b : BitVec 7) (s : State) : exec (.imaxS x0 x1 d a b) s = execImaxS d a b s := rfl
@[simp] theorem exec_imaxN (x0 : BitVec 1) (x1 : BitVec 1) (d : BitVec 7) (a : BitVec 7) (b : BitVec 7) (s : State) : exec (.imaxN x0 x1 d a b) s = execImaxN d a b s := rfl
@[simp] theorem exec_vand (x0 : BitVec 1) (x1 : BitVec 1) (d : BitVec 7) (a : BitVec 7) (b : BitVec 7) (s : State) : exec (.vand x0 x1 d a b) s = execVand d a b s := rfl
@[simp] theorem exec_vor (x0 : BitVec 1) (x1 : BitVec 1) (d : BitVec 7) (a : BitVec 7) (b : BitVec 7) (s : State) : exec (.vor x0 x1 d a b) s = execVor d a b s := rfl
@[simp] theorem exec_vxor (x0 : BitVec 1) (x1 : BitVec 1) (d : BitVec 7) (a : BitVec 7) (b : BitVec 7) (s : State) : exec (.vxor x0 x1 d a b) s = execVxor d a b s := rfl
@[simp] theorem exec_andn (x0 : BitVec 1) (x1 : BitVec 1) (d : BitVec 7) (a : BitVec 7) (b : BitVec 7) (s : State) : exec (.andn x0 x1 d a b) s = execAndn d a b s := rfl
@[simp] theorem exec_shl (x0 : BitVec 1) (x1 : BitVec 1) (d : BitVec 7) (a : BitVec 7) (b : BitVec 7) (s : State) : exec (.shl x0 x1 d a b) s = execShl d a b s := rfl
@[simp] theorem exec_shr (x0 : BitVec 1) (x1 : BitVec 1) (d : BitVec 7) (a : BitVec 7) (b : BitVec 7) (s : State) : exec (.shr x0 x1 d a b) s = execShr d a b s := rfl
@[simp] theorem exec_sar (x0 : BitVec 1) (x1 : BitVec 1) (d : BitVec 7) (a : BitVec 7) (b : BitVec 7) (s : State) : exec (.sar x0 x1 d a b) s = execSar d a b s := rfl
@[simp] theorem exec_rot (x0 : BitVec 1) (x1 : BitVec 1) (d : BitVec 7) (a : BitVec 7) (b : BitVec 7) (s : State) : exec (.rot x0 x1 d a b) s = execRot d a b s := rfl
@[simp] theorem exec_bfe (x0 : BitVec 1) (x1 : BitVec 1) (d : BitVec 7) (a : BitVec 7) (b : BitVec 7) (s : State) : exec (.bfe x0 x1 d a b) s = execBfe d a b s := rfl
@[simp] theorem exec_bfi (x0 : BitVec 1) (x1 : BitVec 1) (d : BitVec 7) (a : BitVec 7) (b : BitVec 7) (s : State) : exec (.bfi x0 x1 d a b) s = execBfi d a b s := rfl
@[simp] theorem exec_bitopPopc (x0 : BitVec 1) (x1 : BitVec 1) (d : BitVec 7) (a : BitVec 7) (s : State) : exec (.bitopPopc x0 x1 d a) s = execBitopPopc d a s := rfl
@[simp] theorem exec_bitopClz (x0 : BitVec 1) (x1 : BitVec 1) (d : BitVec 7) (a : BitVec 7) (s : State) : exec (.bitopClz x0 x1 d a) s = execBitopClz d a s := rfl
@[simp] theorem exec_bitopCtz (x0 : BitVec 1) (x1 : BitVec 1) (d : BitVec 7) (a : BitVec 7) (s : State) : exec (.bitopCtz x0 x1 d a) s = execBitopCtz d a s := rfl
@[simp] theorem exec_bitopBrev (x0 : BitVec 1) (x1 : BitVec 1) (d : BitVec 7) (a : BitVec 7) (s : State) : exec (.bitopBrev x0 x1 d a) s = execBitopBrev d a s := rfl
@[simp] theorem exec_bitopNot (x0 : BitVec 1) (x1 : BitVec 1) (d : BitVec 7) (a : BitVec 7) (s : State) : exec (.bitopNot x0 x1 d a) s = execBitopNot d a s := rfl
@[simp] theorem exec_icmp (x0 : BitVec 1) (x1 : BitVec 1) (k : BitVec 4) (a : BitVec 7) (b : BitVec 7) (s : State) : exec (.icmp x0 x1 k a b) s = execIcmp k a b s := rfl
@[simp] theorem exec_sel (x0 : BitVec 1) (x1 : BitVec 1) (d : BitVec 7) (a : BitVec 7) (b : BitVec 7) (s : State) : exec (.sel x0 x1 d a b) s = execSel d a b s := rfl
@[simp] theorem exec_mov (x0 : BitVec 1) (x1 : BitVec 1) (d : BitVec 7) (a : BitVec 7) (s : State) : exec (.mov x0 x1 d a) s = execMov d a s := rfl
@[simp] theorem exec_prmt (x0 : BitVec 1) (x1 : BitVec 1) (d : BitVec 7) (a : BitVec 7) (b : BitVec 7) (s : State) : exec (.prmt x0 x1 d a b) s = execPrmt d a b s := rfl
@[simp] theorem exec_iadd64 (x0 : BitVec 1) (x1 : BitVec 1) (d : BitVec 7) (a : BitVec 7) (b : BitVec 7) (s : State) : exec (.iadd64 x0 x1 d a b) s = execIadd64 d a b s := rfl
@[simp] theorem exec_isub64 (x0 : BitVec 1) (x1 : BitVec 1) (d : BitVec 7) (a : BitVec 7) (b : BitVec 7) (s : State) : exec (.isub64 x0 x1 d a b) s = execIsub64 d a b s := rfl
@[simp] theorem exec_lea (x0 : BitVec 1) (x1 : BitVec 1) (d : BitVec 7) (a : BitVec 7) (b : BitVec 7) (s : State) : exec (.lea x0 x1 d a b) s = execLea d a b s := rfl
@[simp] theorem exec_fadd (x0 : BitVec 1) (x1 : BitVec 1) (d : BitVec 7) (a : BitVec 7) (b : BitVec 7) (s : State) : exec (.fadd x0 x1 d a b) s = execFadd d a b s := rfl
@[simp] theorem exec_fsub (x0 : BitVec 1) (x1 : BitVec 1) (d : BitVec 7) (a : BitVec 7) (b : BitVec 7) (s : State) : exec (.fsub x0 x1 d a b) s = execFsub d a b s := rfl
@[simp] theorem exec_fmul (x0 : BitVec 1) (x1 : BitVec 1) (d : BitVec 7) (a : BitVec 7) (b : BitVec 7) (s : State) : exec (.fmul x0 x1 d a b) s = execFmul d a b s := rfl
@[simp] theorem exec_ffma (x0 : BitVec 1) (x1 : BitVec 1) (d : BitVec 7) (a : BitVec 7) (b : BitVec 7) (s : State) : exec (.ffma x0 x1 d a b) s = execFfma d a b s := rfl
@[simp] theorem exec_ffms (x0 : BitVec 1) (x1 : BitVec 1) (d : BitVec 7) (a : BitVec 7) (b : BitVec 7) (s : State) : exec (.ffms x0 x1 d a b) s = execFfms d a b s := rfl
@[simp] theorem exec_fnma (x0 : BitVec 1) (x1 : BitVec 1) (d : BitVec 7) (a : BitVec 7) (b : BitVec 7) (s : State) : exec (.fnma x0 x1 d a b) s = execFnma d a b s := rfl
@[simp] theorem exec_fmin (x0 : BitVec 1) (x1 : BitVec 1) (d : BitVec 7) (a : BitVec 7) (b : BitVec 7) (s : State) : exec (.fmin x0 x1 d a b) s = execFmin d a b s := rfl
@[simp] theorem exec_fminn (x0 : BitVec 1) (x1 : BitVec 1) (d : BitVec 7) (a : BitVec 7) (b : BitVec 7) (s : State) : exec (.fminn x0 x1 d a b) s = execFminn d a b s := rfl
@[simp] theorem exec_fmax (x0 : BitVec 1) (x1 : BitVec 1) (d : BitVec 7) (a : BitVec 7) (b : BitVec 7) (s : State) : exec (.fmax x0 x1 d a b) s = execFmax d a b s := rfl
@[simp] theorem exec_fmaxn (x0 : BitVec 1) (x1 : BitVec 1) (d : BitVec 7) (a : BitVec 7) (b : BitVec 7) (s : State) : exec (.fmaxn x0 x1 d a b) s = execFmaxn d a b s := rfl
@[simp] theorem exec_fcmp (x0 : BitVec 1) (x1 : BitVec 1) (k : BitVec 4) (a : BitVec 7) (b : BitVec 7) (s : State) : exec (.fcmp x0 x1 k a b) s = execFcmp k a b s := rfl
@[simp] theorem exec_fclass (x0 : BitVec 1) (x1 : BitVec 1) (d : BitVec 7) (a : BitVec 7) (s : State) : exec (.fclass x0 x1 d a) s = execFclass d a s := rfl
@[simp] theorem exec_fcpsgn (x0 : BitVec 1) (x1 : BitVec 1) (d : BitVec 7) (a : BitVec 7) (b : BitVec 7) (s : State) : exec (.fcpsgn x0 x1 d a b) s = execFcpsgn d a b s := rfl
@[simp] theorem exec_frnd (x0 : BitVec 1) (x1 : BitVec 1) (d : BitVec 7) (a : BitVec 7) (s : State) : exec (.frnd x0 x1 d a) s = execFrnd d a s := rfl
@[simp] theorem exec_ffract (x0 : BitVec 1) (x1 : BitVec 1) (d : BitVec 7) (a : BitVec 7) (s : State) : exec (.ffract x0 x1 d a) s = execFfract d a s := rfl
@[simp] theorem exec_fsat (x0 : BitVec 1) (x1 : BitVec 1) (d : BitVec 7) (a : BitVec 7) (s : State) : exec (.fsat x0 x1 d a) s = execFsat d a s := rfl
@[simp] theorem exec_flerp (x0 : BitVec 1) (x1 : BitVec 1) (d : BitVec 7) (a : BitVec 7) (b : BitVec 7) (s : State) : exec (.flerp x0 x1 d a b) s = execFlerp d a b s := rfl
@[simp] theorem exec_fmed3 (x0 : BitVec 1) (x1 : BitVec 1) (d : BitVec 7) (a : BitVec 7) (b : BitVec 7) (s : State) : exec (.fmed3 x0 x1 d a b) s = execFmed3 d a b s := rfl
@[simp] theorem exec_hadd2 (x0 : BitVec 1) (x1 : BitVec 1) (d : BitVec 7) (a : BitVec 7) (b : BitVec 7) (s : State) : exec (.hadd2 x0 x1 d a b) s = execHadd2 d a b s := rfl
@[simp] theorem exec_hmul2 (x0 : BitVec 1) (x1 : BitVec 1) (d : BitVec 7) (a : BitVec 7) (b : BitVec 7) (s : State) : exec (.hmul2 x0 x1 d a b) s = execHmul2 d a b s := rfl
@[simp] theorem exec_hfma2 (x0 : BitVec 1) (x1 : BitVec 1) (d : BitVec 7) (a : BitVec 7) (b : BitVec 7) (s : State) : exec (.hfma2 x0 x1 d a b) s = execHfma2 d a b s := rfl
@[simp] theorem exec_badd2 (x0 : BitVec 1) (x1 : BitVec 1) (d : BitVec 7) (a : BitVec 7) (b : BitVec 7) (s : State) : exec (.badd2 x0 x1 d a b) s = execBadd2 d a b s := rfl
@[simp] theorem exec_bmul2 (x0 : BitVec 1) (x1 : BitVec 1) (d : BitVec 7) (a : BitVec 7) (b : BitVec 7) (s : State) : exec (.bmul2 x0 x1 d a b) s = execBmul2 d a b s := rfl
@[simp] theorem exec_bfma2 (x0 : BitVec 1) (x1 : BitVec 1) (d : BitVec 7) (a : BitVec 7) (b : BitVec 7) (s : State) : exec (.bfma2 x0 x1 d a b) s = execBfma2 d a b s := rfl
@[simp] theorem exec_fdot2h (x0 : BitVec 1) (x1 : BitVec 1) (d : BitVec 7) (a : BitVec 7) (b : BitVec 7) (s : State) : exec (.fdot2h x0 x1 d a b) s = execFdot2h d a b s := rfl
@[simp] theorem exec_fdot2b (x0 : BitVec 1) (x1 : BitVec 1) (d : BitVec 7) (a : BitVec 7) (b : BitVec 7) (s : State) : exec (.fdot2b x0 x1 d a b) s = execFdot2b d a b s := rfl
@[simp] theorem exec_iaddi (x0 : BitVec 1) (d : BitVec 7) (a : BitVec 7) (im : BitVec 8) (s : State) : exec (.iaddi x0 d a im) s = execIaddi d a im s := rfl
@[simp] theorem exec_imuli (x0 : BitVec 1) (d : BitVec 7) (a : BitVec 7) (im : BitVec 8) (s : State) : exec (.imuli x0 d a im) s = execImuli d a im s := rfl
@[simp] theorem exec_andi (x0 : BitVec 1) (d : BitVec 7) (a : BitVec 7) (im : BitVec 8) (s : State) : exec (.andi x0 d a im) s = execAndi d a im s := rfl
@[simp] theorem exec_ori (x0 : BitVec 1) (d : BitVec 7) (a : BitVec 7) (im : BitVec 8) (s : State) : exec (.ori x0 d a im) s = execOri d a im s := rfl
@[simp] theorem exec_xori (x0 : BitVec 1) (d : BitVec 7) (a : BitVec 7) (im : BitVec 8) (s : State) : exec (.xori x0 d a im) s = execXori d a im s := rfl
@[simp] theorem exec_shli (x0 : BitVec 1) (d : BitVec 7) (a : BitVec 7) (im : BitVec 8) (s : State) : exec (.shli x0 d a im) s = execShli d a im s := rfl
@[simp] theorem exec_shri (x0 : BitVec 1) (d : BitVec 7) (a : BitVec 7) (im : BitVec 8) (s : State) : exec (.shri x0 d a im) s = execShri d a im s := rfl
@[simp] theorem exec_sari (x0 : BitVec 1) (d : BitVec 7) (a : BitVec 7) (im : BitVec 8) (s : State) : exec (.sari x0 d a im) s = execSari d a im s := rfl
@[simp] theorem exec_icmpi (x0 : BitVec 1) (k : BitVec 4) (a : BitVec 7) (im : BitVec 8) (s : State) : exec (.icmpi x0 k a im) s = execIcmpi k a im s := rfl
@[simp] theorem exec_movi (x0 : BitVec 1) (d : BitVec 7) (im : BitVec 8) (s : State) : exec (.movi x0 d im) s = execMovi d im s := rfl
@[simp] theorem exec_laneidx (x0 : BitVec 1) (d : BitVec 7) (a : BitVec 7) (im : BitVec 8) (s : State) : exec (.laneidx x0 d a im) s = execLaneidx d a im s := rfl
@[simp] theorem exec_fmuli (x0 : BitVec 1) (d : BitVec 7) (a : BitVec 7) (im : BitVec 8) (s : State) : exec (.fmuli x0 d a im) s = execFmuli d a im s := rfl
@[simp] theorem exec_faddi (x0 : BitVec 1) (d : BitVec 7) (a : BitVec 7) (im : BitVec 8) (s : State) : exec (.faddi x0 d a im) s = execFaddi d a im s := rfl
@[simp] theorem exec_iminiS (x0 : BitVec 1) (d : BitVec 7) (a : BitVec 7) (im : BitVec 8) (s : State) : exec (.iminiS x0 d a im) s = execIminiS d a im s := rfl
@[simp] theorem exec_imaxiS (x0 : BitVec 1) (d : BitVec 7) (a : BitVec 7) (im : BitVec 8) (s : State) : exec (.imaxiS x0 d a im) s = execImaxiS d a im s := rfl
@[simp] theorem exec_wadd (x0 : BitVec 1) (d : BitVec 8) (a : BitVec 8) (b : BitVec 6) (s : State) : exec (.wadd x0 d a b) s = execWadd d a b s := rfl
@[simp] theorem exec_wsub (x0 : BitVec 1) (d : BitVec 8) (a : BitVec 8) (b : BitVec 6) (s : State) : exec (.wsub x0 d a b) s = execWsub d a b s := rfl
@[simp] theorem exec_wmul (x0 : BitVec 1) (d : BitVec 8) (a : BitVec 8) (b : BitVec 6) (s : State) : exec (.wmul x0 d a b) s = execWmul d a b s := rfl
@[simp] theorem exec_wand (x0 : BitVec 1) (d : BitVec 8) (a : BitVec 8) (b : BitVec 6) (s : State) : exec (.wand x0 d a b) s = execWand d a b s := rfl
@[simp] theorem exec_wor (x0 : BitVec 1) (d : BitVec 8) (a : BitVec 8) (b : BitVec 6) (s : State) : exec (.wor x0 d a b) s = execWor d a b s := rfl
@[simp] theorem exec_wxor (x0 : BitVec 1) (d : BitVec 8) (a : BitVec 8) (b : BitVec 6) (s : State) : exec (.wxor x0 d a b) s = execWxor d a b s := rfl
@[simp] theorem exec_wshl (x0 : BitVec 1) (d : BitVec 8) (a : BitVec 8) (b : BitVec 6) (s : State) : exec (.wshl x0 d a b) s = execWshl d a b s := rfl
@[simp] theorem exec_wshr (x0 : BitVec 1) (d : BitVec 8) (a : BitVec 8) (b : BitVec 6) (s : State) : exec (.wshr x0 d a b) s = execWshr d a b s := rfl
@[simp] theorem exec_wsar (x0 : BitVec 1) (d : BitVec 8) (a : BitVec 8) (b : BitVec 6) (s : State) : exec (.wsar x0 d a b) s = execWsar d a b s := rfl
@[simp] theorem exec_wcmp (x0 : BitVec 1) (k : BitVec 4) (a : BitVec 8) (b : BitVec 6) (s : State) : exec (.wcmp x0 k a b) s = execWcmp k a b s := rfl
@[simp] theorem exec_wsel (x0 : BitVec 1) (d : BitVec 8) (a : BitVec 8) (b : BitVec 6) (s : State) : exec (.wsel x0 d a b) s = execWsel d a b s := rfl
@[simp] theorem exec_wmov (x0 : BitVec 1) (d : BitVec 8) (a : BitVec 8) (s : State) : exec (.wmov x0 d a) s = execWmov d a s := rfl
@[simp] theorem exec_wli (x0 : BitVec 1) (d : BitVec 8) (im : BitVec 14) (s : State) : exec (.wli x0 d im) s = execWli d im s := rfl
@[simp] theorem exec_wlih (x0 : BitVec 1) (d : BitVec 8) (im : BitVec 14) (s : State) : exec (.wlih x0 d im) s = execWlih d im s := rfl
@[simp] theorem exec_wadd64 (x0 : BitVec 1) (d : BitVec 8) (a : BitVec 8) (b : BitVec 6) (s : State) : exec (.wadd64 x0 d a b) s = execWadd64 d a b s := rfl
@[simp] theorem exec_wtov (x0 : BitVec 1) (d : BitVec 7) (a : BitVec 8) (s : State) : exec (.wtov x0 d a) s = execWtov d a s := rfl
@[simp] theorem exec_vtow (x0 : BitVec 1) (d : BitVec 8) (a : BitVec 7) (b : BitVec 6) (s : State) : exec (.vtow x0 d a b) s = execVtow d a b s := rfl
@[simp] theorem exec_waddi (x0 : BitVec 1) (d : BitVec 8) (a : BitVec 8) (im : BitVec 6) (s : State) : exec (.waddi x0 d a im) s = execWaddi d a im s := rfl
@[simp] theorem exec_wmin (x0 : BitVec 1) (d : BitVec 8) (a : BitVec 8) (b : BitVec 6) (s : State) : exec (.wmin x0 d a b) s = execWmin d a b s := rfl
@[simp] theorem exec_wmax (x0 : BitVec 1) (d : BitVec 8) (a : BitVec 8) (b : BitVec 6) (s : State) : exec (.wmax x0 d a b) s = execWmax d a b s := rfl
@[simp] theorem exec_shflIdx (x0 : BitVec 1) (x1 : BitVec 1) (d : BitVec 7) (a : BitVec 7) (b : BitVec 7) (s : State) : exec (.shflIdx x0 x1 d a b) s = execShflIdx d a b s := rfl
@[simp] theorem exec_shflUp (x0 : BitVec 1) (x1 : BitVec 1) (d : BitVec 7) (a : BitVec 7) (b : BitVec 7) (s : State) : exec (.shflUp x0 x1 d a b) s = execShflUp d a b s := rfl
@[simp] theorem exec_shflDn (x0 : BitVec 1) (x1 : BitVec 1) (d : BitVec 7) (a : BitVec 7) (b : BitVec 7) (s : State) : exec (.shflDn x0 x1 d a b) s = execShflDn d a b s := rfl
@[simp] theorem exec_shflXor (x0 : BitVec 1) (x1 : BitVec 1) (d : BitVec 7) (a : BitVec 7) (b : BitVec 7) (s : State) : exec (.shflXor x0 x1 d a b) s = execShflXor d a b s := rfl
@[simp] theorem exec_voteAny (x0 : BitVec 1) (x1 : BitVec 1) (d : BitVec 7) (a : BitVec 7) (s : State) : exec (.voteAny x0 x1 d a) s = execVoteAny d a s := rfl
@[simp] theorem exec_voteAll (x0 : BitVec 1) (x1 : BitVec 1) (d : BitVec 7) (a : BitVec 7) (s : State) : exec (.voteAll x0 x1 d a) s = execVoteAll d a s := rfl
@[simp] theorem exec_ballot (x0 : BitVec 1) (x1 : BitVec 1) (d : BitVec 3) (a : BitVec 7) (s : State) : exec (.ballot x0 x1 d a) s = execBallot d a s := rfl
@[simp] theorem exec_matchLanes (x0 : BitVec 1) (x1 : BitVec 1) (d : BitVec 7) (a : BitVec 7) (s : State) : exec (.matchLanes x0 x1 d a) s = execMatchLanes d a s := rfl
@[simp] theorem exec_redAdd (x0 : BitVec 1) (x1 : BitVec 1) (d : BitVec 7) (a : BitVec 7) (b : BitVec 7) (s : State) : exec (.redAdd x0 x1 d a b) s = execRedAdd d a b s := rfl
@[simp] theorem exec_redMinS (x0 : BitVec 1) (x1 : BitVec 1) (d : BitVec 7) (a : BitVec 7) (b : BitVec 7) (s : State) : exec (.redMinS x0 x1 d a b) s = execRedMinS d a b s := rfl
@[simp] theorem exec_redMinN (x0 : BitVec 1) (x1 : BitVec 1) (d : BitVec 7) (a : BitVec 7) (b : BitVec 7) (s : State) : exec (.redMinN x0 x1 d a b) s = execRedMinN d a b s := rfl
@[simp] theorem exec_redMaxS (x0 : BitVec 1) (x1 : BitVec 1) (d : BitVec 7) (a : BitVec 7) (b : BitVec 7) (s : State) : exec (.redMaxS x0 x1 d a b) s = execRedMaxS d a b s := rfl
@[simp] theorem exec_redMaxN (x0 : BitVec 1) (x1 : BitVec 1) (d : BitVec 7) (a : BitVec 7) (b : BitVec 7) (s : State) : exec (.redMaxN x0 x1 d a b) s = execRedMaxN d a b s := rfl
@[simp] theorem exec_redAnd (x0 : BitVec 1) (x1 : BitVec 1) (d : BitVec 7) (a : BitVec 7) (b : BitVec 7) (s : State) : exec (.redAnd x0 x1 d a b) s = execRedAnd d a b s := rfl
@[simp] theorem exec_redOr (x0 : BitVec 1) (x1 : BitVec 1) (d : BitVec 7) (a : BitVec 7) (b : BitVec 7) (s : State) : exec (.redOr x0 x1 d a b) s = execRedOr d a b s := rfl
@[simp] theorem exec_redFadd (x0 : BitVec 1) (x1 : BitVec 1) (d : BitVec 7) (a : BitVec 7) (b : BitVec 7) (s : State) : exec (.redFadd x0 x1 d a b) s = execRedFadd d a b s := rfl
@[simp] theorem exec_scanAdd (x0 : BitVec 1) (x1 : BitVec 1) (d : BitVec 7) (a : BitVec 7) (b : BitVec 7) (s : State) : exec (.scanAdd x0 x1 d a b) s = execScanAdd d a b s := rfl
@[simp] theorem exec_scanFadd (x0 : BitVec 1) (x1 : BitVec 1) (d : BitVec 7) (a : BitVec 7) (b : BitVec 7) (s : State) : exec (.scanFadd x0 x1 d a b) s = execScanFadd d a b s := rfl
@[simp] theorem exec_mand (x0 : BitVec 1) (x1 : BitVec 1) (d : BitVec 3) (a : BitVec 3) (b : BitVec 3) (s : State) : exec (.mand x0 x1 d a b) s = execMand d a b s := rfl
@[simp] theorem exec_mor (x0 : BitVec 1) (x1 : BitVec 1) (d : BitVec 3) (a : BitVec 3) (b : BitVec 3) (s : State) : exec (.mor x0 x1 d a b) s = execMor d a b s := rfl
@[simp] theorem exec_mxor (x0 : BitVec 1) (x1 : BitVec 1) (d : BitVec 3) (a : BitVec 3) (b : BitVec 3) (s : State) : exec (.mxor x0 x1 d a b) s = execMxor d a b s := rfl
@[simp] theorem exec_mandn (x0 : BitVec 1) (x1 : BitVec 1) (d : BitVec 3) (a : BitVec 3) (b : BitVec 3) (s : State) : exec (.mandn x0 x1 d a b) s = execMandn d a b s := rfl
@[simp] theorem exec_mmov (x0 : BitVec 1) (x1 : BitVec 1) (d : BitVec 3) (a : BitVec 3) (s : State) : exec (.mmov x0 x1 d a) s = execMmov d a s := rfl
@[simp] theorem exec_mpopc (x0 : BitVec 1) (x1 : BitVec 1) (d : BitVec 7) (a : BitVec 3) (s : State) : exec (.mpopc x0 x1 d a) s = execMpopc d a s := rfl
@[simp] theorem exec_mpopcRank (x0 : BitVec 1) (x1 : BitVec 1) (d : BitVec 7) (a : BitVec 3) (s : State) : exec (.mpopcRank x0 x1 d a) s = execMpopcRank d a s := rfl
@[simp] theorem exec_mfirst (x0 : BitVec 1) (x1 : BitVec 1) (d : BitVec 7) (a : BitVec 3) (s : State) : exec (.mfirst x0 x1 d a) s = execMfirst d a s := rfl
@[simp] theorem exec_mtov (x0 : BitVec 1) (x1 : BitVec 1) (d : BitVec 7) (a : BitVec 3) (s : State) : exec (.mtov x0 x1 d a) s = execMtov d a s := rfl
@[simp] theorem exec_vtom (x0 : BitVec 1) (x1 : BitVec 1) (d : BitVec 3) (a : BitVec 7) (b : BitVec 5) (s : State) : exec (.vtom x0 x1 d a b) s = execVtom d a b s := rfl
@[simp] theorem exec_elect (x0 : BitVec 1) (x1 : BitVec 1) (d : BitVec 3) (s : State) : exec (.elect x0 x1 d) s = execElect d s := rfl
@[simp] theorem exec_issuem (x0 : BitVec 1) (x1 : BitVec 1) (d : BitVec 3) (s : State) : exec (.issuem x0 x1 d) s = execIssuem d s := rfl
@[simp] theorem exec_bra (x0 : BitVec 1) (o : BitVec 18) (s : State) : exec (.bra x0 o) s = execBra o s := rfl
@[simp] theorem exec_brc (x0 : BitVec 1) (n : BitVec 1) (k : BitVec 3) (o : BitVec 18) (s : State) : exec (.brc x0 n k o) s = execBrc n k o s := rfl
@[simp] theorem exec_brw (x0 : BitVec 1) (n : BitVec 1) (o : BitVec 18) (s : State) : exec (.brw x0 n o) s = execBrw n o s := rfl
@[simp] theorem exec_call (x0 : BitVec 1) (o : BitVec 18) (s : State) : exec (.call x0 o) s = execCall o s := rfl
@[simp] theorem exec_bri (x0 : BitVec 1) (x1 : BitVec 1) (a : BitVec 7) (s : State) : exec (.bri x0 x1 a) s = execBri a s := rfl
@[simp] theorem exec_calli (x0 : BitVec 1) (x1 : BitVec 1) (d : BitVec 7) (a : BitVec 7) (s : State) : exec (.calli x0 x1 d a) s = execCalli d a s := rfl
@[simp] theorem exec_ret (x0 : BitVec 1) (x1 : BitVec 1) (a : BitVec 7) (s : State) : exec (.ret x0 x1 a) s = execRet a s := rfl
@[simp] theorem exec_split (x0 : BitVec 1) (x1 : BitVec 1) (d : BitVec 3) (s : State) : exec (.split x0 x1 d) s = execSplit d s := rfl
@[simp] theorem exec_join (x0 : BitVec 1) (x1 : BitVec 1) (d : BitVec 3) (s : State) : exec (.join x0 x1 d) s = execJoin d s := rfl
@[simp] theorem exec_exit (x0 : BitVec 1) (x1 : BitVec 1) (s : State) : exec (.exit x0 x1) s = execExit s := rfl
@[simp] theorem exec_endAll (x0 : BitVec 1) (x1 : BitVec 1) (s : State) : exec (.endAll x0 x1) s = execEndAll s := rfl
@[simp] theorem exec_loopw (x0 : BitVec 1) (w : BitVec 4) (o : BitVec 18) (s : State) : exec (.loopw x0 w o) s = execLoopw w o s := rfl
@[simp] theorem exec_ldB8 (x0 : BitVec 1) (l : BitVec 4) (d : BitVec 7) (v : BitVec 7) (w : BitVec 4) (s : State) : exec (.ldB8 x0 l d v w) s = execLdB8 l d v w s := rfl
@[simp] theorem exec_ldS8 (x0 : BitVec 1) (l : BitVec 4) (d : BitVec 7) (v : BitVec 7) (w : BitVec 4) (s : State) : exec (.ldS8 x0 l d v w) s = execLdS8 l d v w s := rfl
@[simp] theorem exec_ldB16 (x0 : BitVec 1) (l : BitVec 4) (d : BitVec 7) (v : BitVec 7) (w : BitVec 4) (s : State) : exec (.ldB16 x0 l d v w) s = execLdB16 l d v w s := rfl
@[simp] theorem exec_ldS16 (x0 : BitVec 1) (l : BitVec 4) (d : BitVec 7) (v : BitVec 7) (w : BitVec 4) (s : State) : exec (.ldS16 x0 l d v w) s = execLdS16 l d v w s := rfl
@[simp] theorem exec_ldB32 (x0 : BitVec 1) (l : BitVec 4) (d : BitVec 7) (v : BitVec 7) (w : BitVec 4) (s : State) : exec (.ldB32 x0 l d v w) s = execLdB32 l d v w s := rfl
@[simp] theorem exec_ldB64 (x0 : BitVec 1) (l : BitVec 4) (d : BitVec 7) (v : BitVec 7) (w : BitVec 4) (s : State) : exec (.ldB64 x0 l d v w) s = execLdB64 l d v w s := rfl
@[simp] theorem exec_ldB128 (x0 : BitVec 1) (l : BitVec 4) (d : BitVec 7) (v : BitVec 7) (w : BitVec 4) (s : State) : exec (.ldB128 x0 l d v w) s = execLdB128 l d v w s := rfl
@[simp] theorem exec_stB8 (x0 : BitVec 1) (l : BitVec 4) (d : BitVec 7) (v : BitVec 7) (w : BitVec 4) (s : State) : exec (.stB8 x0 l d v w) s = execStB8 l d v w s := rfl
@[simp] theorem exec_stB16 (x0 : BitVec 1) (l : BitVec 4) (d : BitVec 7) (v : BitVec 7) (w : BitVec 4) (s : State) : exec (.stB16 x0 l d v w) s = execStB16 l d v w s := rfl
@[simp] theorem exec_stB32 (x0 : BitVec 1) (l : BitVec 4) (d : BitVec 7) (v : BitVec 7) (w : BitVec 4) (s : State) : exec (.stB32 x0 l d v w) s = execStB32 l d v w s := rfl
@[simp] theorem exec_stB64 (x0 : BitVec 1) (l : BitVec 4) (d : BitVec 7) (v : BitVec 7) (w : BitVec 4) (s : State) : exec (.stB64 x0 l d v w) s = execStB64 l d v w s := rfl
@[simp] theorem exec_stB128 (x0 : BitVec 1) (l : BitVec 4) (d : BitVec 7) (v : BitVec 7) (w : BitVec 4) (s : State) : exec (.stB128 x0 l d v w) s = execStB128 l d v w s := rfl
@[simp] theorem exec_ldsB32 (x0 : BitVec 1) (l : BitVec 4) (d : BitVec 7) (v : BitVec 7) (w : BitVec 4) (s : State) : exec (.ldsB32 x0 l d v w) s = execLdsB32 l d v w s := rfl
@[simp] theorem exec_ldsB64 (x0 : BitVec 1) (l : BitVec 4) (d : BitVec 7) (v : BitVec 7) (w : BitVec 4) (s : State) : exec (.ldsB64 x0 l d v w) s = execLdsB64 l d v w s := rfl
@[simp] theorem exec_ldsB128 (x0 : BitVec 1) (l : BitVec 4) (d : BitVec 7) (v : BitVec 7) (w : BitVec 4) (s : State) : exec (.ldsB128 x0 l d v w) s = execLdsB128 l d v w s := rfl
@[simp] theorem exec_stsB32 (x0 : BitVec 1) (l : BitVec 4) (d : BitVec 7) (v : BitVec 7) (w : BitVec 4) (s : State) : exec (.stsB32 x0 l d v w) s = execStsB32 l d v w s := rfl
@[simp] theorem exec_stsB64 (x0 : BitVec 1) (l : BitVec 4) (d : BitVec 7) (v : BitVec 7) (w : BitVec 4) (s : State) : exec (.stsB64 x0 l d v w) s = execStsB64 l d v w s := rfl
@[simp] theorem exec_stsB128 (x0 : BitVec 1) (l : BitVec 4) (d : BitVec 7) (v : BitVec 7) (w : BitVec 4) (s : State) : exec (.stsB128 x0 l d v w) s = execStsB128 l d v w s := rfl
@[simp] theorem exec_ldw (x0 : BitVec 1) (l : BitVec 4) (d : BitVec 7) (v : BitVec 7) (w : BitVec 4) (s : State) : exec (.ldw x0 l d v w) s = execLdw l d v w s := rfl
@[simp] theorem exec_pref (x0 : BitVec 1) (x1 : BitVec 4) (x2 : BitVec 1) (x3 : BitVec 7) (x4 : BitVec 4) (s : State) : exec (.pref x0 x1 x2 x3 x4) s = execPref s := rfl
@[simp] theorem exec_atomAdd32 (x0 : BitVec 1) (l : BitVec 4) (d : BitVec 7) (v : BitVec 7) (w : BitVec 4) (s : State) : exec (.atomAdd32 x0 l d v w) s = execAtomAdd32 l d v w s := rfl
@[simp] theorem exec_atomAdd64 (x0 : BitVec 1) (l : BitVec 4) (d : BitVec 7) (v : BitVec 7) (w : BitVec 4) (s : State) : exec (.atomAdd64 x0 l d v w) s = execAtomAdd64 l d v w s := rfl
@[simp] theorem exec_atomSub32 (x0 : BitVec 1) (l : BitVec 4) (d : BitVec 7) (v : BitVec 7) (w : BitVec 4) (s : State) : exec (.atomSub32 x0 l d v w) s = execAtomSub32 l d v w s := rfl
@[simp] theorem exec_atomSub64 (x0 : BitVec 1) (l : BitVec 4) (d : BitVec 7) (v : BitVec 7) (w : BitVec 4) (s : State) : exec (.atomSub64 x0 l d v w) s = execAtomSub64 l d v w s := rfl
@[simp] theorem exec_atomMinS32 (x0 : BitVec 1) (l : BitVec 4) (d : BitVec 7) (v : BitVec 7) (w : BitVec 4) (s : State) : exec (.atomMinS32 x0 l d v w) s = execAtomMinS32 l d v w s := rfl
@[simp] theorem exec_atomMinS64 (x0 : BitVec 1) (l : BitVec 4) (d : BitVec 7) (v : BitVec 7) (w : BitVec 4) (s : State) : exec (.atomMinS64 x0 l d v w) s = execAtomMinS64 l d v w s := rfl
@[simp] theorem exec_atomMinN32 (x0 : BitVec 1) (l : BitVec 4) (d : BitVec 7) (v : BitVec 7) (w : BitVec 4) (s : State) : exec (.atomMinN32 x0 l d v w) s = execAtomMinN32 l d v w s := rfl
@[simp] theorem exec_atomMinN64 (x0 : BitVec 1) (l : BitVec 4) (d : BitVec 7) (v : BitVec 7) (w : BitVec 4) (s : State) : exec (.atomMinN64 x0 l d v w) s = execAtomMinN64 l d v w s := rfl
@[simp] theorem exec_atomMaxS32 (x0 : BitVec 1) (l : BitVec 4) (d : BitVec 7) (v : BitVec 7) (w : BitVec 4) (s : State) : exec (.atomMaxS32 x0 l d v w) s = execAtomMaxS32 l d v w s := rfl
@[simp] theorem exec_atomMaxS64 (x0 : BitVec 1) (l : BitVec 4) (d : BitVec 7) (v : BitVec 7) (w : BitVec 4) (s : State) : exec (.atomMaxS64 x0 l d v w) s = execAtomMaxS64 l d v w s := rfl
@[simp] theorem exec_atomMaxN32 (x0 : BitVec 1) (l : BitVec 4) (d : BitVec 7) (v : BitVec 7) (w : BitVec 4) (s : State) : exec (.atomMaxN32 x0 l d v w) s = execAtomMaxN32 l d v w s := rfl
@[simp] theorem exec_atomMaxN64 (x0 : BitVec 1) (l : BitVec 4) (d : BitVec 7) (v : BitVec 7) (w : BitVec 4) (s : State) : exec (.atomMaxN64 x0 l d v w) s = execAtomMaxN64 l d v w s := rfl
@[simp] theorem exec_atomAnd32 (x0 : BitVec 1) (l : BitVec 4) (d : BitVec 7) (v : BitVec 7) (w : BitVec 4) (s : State) : exec (.atomAnd32 x0 l d v w) s = execAtomAnd32 l d v w s := rfl
@[simp] theorem exec_atomAnd64 (x0 : BitVec 1) (l : BitVec 4) (d : BitVec 7) (v : BitVec 7) (w : BitVec 4) (s : State) : exec (.atomAnd64 x0 l d v w) s = execAtomAnd64 l d v w s := rfl
@[simp] theorem exec_atomOr32 (x0 : BitVec 1) (l : BitVec 4) (d : BitVec 7) (v : BitVec 7) (w : BitVec 4) (s : State) : exec (.atomOr32 x0 l d v w) s = execAtomOr32 l d v w s := rfl
@[simp] theorem exec_atomOr64 (x0 : BitVec 1) (l : BitVec 4) (d : BitVec 7) (v : BitVec 7) (w : BitVec 4) (s : State) : exec (.atomOr64 x0 l d v w) s = execAtomOr64 l d v w s := rfl
@[simp] theorem exec_atomXor32 (x0 : BitVec 1) (l : BitVec 4) (d : BitVec 7) (v : BitVec 7) (w : BitVec 4) (s : State) : exec (.atomXor32 x0 l d v w) s = execAtomXor32 l d v w s := rfl
@[simp] theorem exec_atomXor64 (x0 : BitVec 1) (l : BitVec 4) (d : BitVec 7) (v : BitVec 7) (w : BitVec 4) (s : State) : exec (.atomXor64 x0 l d v w) s = execAtomXor64 l d v w s := rfl
@[simp] theorem exec_atomExch32 (x0 : BitVec 1) (l : BitVec 4) (d : BitVec 7) (v : BitVec 7) (w : BitVec 4) (s : State) : exec (.atomExch32 x0 l d v w) s = execAtomExch32 l d v w s := rfl
@[simp] theorem exec_atomExch64 (x0 : BitVec 1) (l : BitVec 4) (d : BitVec 7) (v : BitVec 7) (w : BitVec 4) (s : State) : exec (.atomExch64 x0 l d v w) s = execAtomExch64 l d v w s := rfl
@[simp] theorem exec_atomCas32 (x0 : BitVec 1) (l : BitVec 4) (d : BitVec 7) (v : BitVec 7) (w : BitVec 4) (s : State) : exec (.atomCas32 x0 l d v w) s = execAtomCas32 l d v w s := rfl
@[simp] theorem exec_atomCas64 (x0 : BitVec 1) (l : BitVec 4) (d : BitVec 7) (v : BitVec 7) (w : BitVec 4) (s : State) : exec (.atomCas64 x0 l d v w) s = execAtomCas64 l d v w s := rfl
@[simp] theorem exec_atomInc32 (x0 : BitVec 1) (l : BitVec 4) (d : BitVec 7) (v : BitVec 7) (w : BitVec 4) (s : State) : exec (.atomInc32 x0 l d v w) s = execAtomInc32 l d v w s := rfl
@[simp] theorem exec_atomInc64 (x0 : BitVec 1) (l : BitVec 4) (d : BitVec 7) (v : BitVec 7) (w : BitVec 4) (s : State) : exec (.atomInc64 x0 l d v w) s = execAtomInc64 l d v w s := rfl
@[simp] theorem exec_atomDec32 (x0 : BitVec 1) (l : BitVec 4) (d : BitVec 7) (v : BitVec 7) (w : BitVec 4) (s : State) : exec (.atomDec32 x0 l d v w) s = execAtomDec32 l d v w s := rfl
@[simp] theorem exec_atomDec64 (x0 : BitVec 1) (l : BitVec 4) (d : BitVec 7) (v : BitVec 7) (w : BitVec 4) (s : State) : exec (.atomDec64 x0 l d v w) s = execAtomDec64 l d v w s := rfl
@[simp] theorem exec_atomFaddF32 (x0 : BitVec 1) (l : BitVec 4) (d : BitVec 7) (v : BitVec 7) (w : BitVec 4) (s : State) : exec (.atomFaddF32 x0 l d v w) s = execAtomFaddF32 l d v w s := rfl
@[simp] theorem exec_atomFadd2Bf16 (x0 : BitVec 1) (l : BitVec 4) (d : BitVec 7) (v : BitVec 7) (w : BitVec 4) (s : State) : exec (.atomFadd2Bf16 x0 l d v w) s = execAtomFadd2Bf16 l d v w s := rfl
@[simp] theorem exec_mma (x0 : BitVec 1) (x1 : BitVec 4) (sh : BitVec 3) (g : BitVec 5) (x : BitVec 5) (y : BitVec 6) (s : State) : exec (.mma x0 x1 sh g x y) s = execMma sh g x y s := rfl
@[simp] theorem exec_mman (x0 : BitVec 1) (x1 : BitVec 4) (sh : BitVec 3) (g : BitVec 5) (x : BitVec 5) (y : BitVec 6) (s : State) : exec (.mman x0 x1 sh g x y) s = execMman sh g x y s := rfl
@[simp] theorem exec_mmas (x0 : BitVec 1) (x1 : BitVec 4) (g : BitVec 5) (x : BitVec 5) (y : BitVec 6) (s : State) : exec (.mmas x0 x1 g x y) s = execMmas g x y s := rfl
@[simp] theorem exec_mmaz (x0 : BitVec 1) (x1 : BitVec 4) (sh : BitVec 3) (g : BitVec 5) (x : BitVec 5) (y : BitVec 6) (s : State) : exec (.mmaz x0 x1 sh g x y) s = execMmaz sh g x y s := rfl
@[simp] theorem exec_aclr (x0 : BitVec 1) (x1 : BitVec 4) (sh : BitVec 1) (g : BitVec 5) (s : State) : exec (.aclr x0 x1 sh g) s = execAclr sh g s := rfl
@[simp] theorem exec_aanc (x0 : BitVec 1) (x1 : BitVec 4) (sh : BitVec 1) (g : BitVec 5) (x : BitVec 11) (s : State) : exec (.aanc x0 x1 sh g x) s = execAanc sh g x s := rfl
@[simp] theorem exec_ares (x0 : BitVec 1) (x1 : BitVec 4) (sh : BitVec 1) (g : BitVec 5) (f : BitVec 4) (y : BitVec 6) (s : State) : exec (.ares x0 x1 sh g f y) s = execAres sh g f y s := rfl
@[simp] theorem exec_acmp (x0 : BitVec 1) (x1 : BitVec 4) (k : BitVec 2) (sh : BitVec 1) (g : BitVec 5) (x : BitVec 5) (y : BitVec 6) (s : State) : exec (.acmp x0 x1 k sh g x y) s = execAcmp k sh g x y s := rfl
@[simp] theorem exec_adrainRaw (x0 : BitVec 1) (l : BitVec 4) (sh : BitVec 1) (g : BitVec 5) (x : BitVec 5) (s : State) : exec (.adrainRaw x0 l sh g x) s = execAdrainRaw l sh g x s := rfl
@[simp] theorem exec_adrainValue (x0 : BitVec 1) (l : BitVec 4) (sh : BitVec 1) (g : BitVec 5) (x : BitVec 5) (f : BitVec 4) (s : State) : exec (.adrainValue x0 l sh g x f) s = execAdrainValue l sh g x f s := rfl
@[simp] theorem exec_adrainAdd (x0 : BitVec 1) (l : BitVec 4) (sh : BitVec 1) (g : BitVec 5) (x : BitVec 5) (s : State) : exec (.adrainAdd x0 l sh g x) s = execAdrainAdd l sh g x s := rfl
@[simp] theorem exec_adrainValueAdd (x0 : BitVec 1) (l : BitVec 4) (sh : BitVec 1) (g : BitVec 5) (x : BitVec 5) (f : BitVec 4) (s : State) : exec (.adrainValueAdd x0 l sh g x f) s = execAdrainValueAdd l sh g x f s := rfl
@[simp] theorem exec_aloadRaw (x0 : BitVec 1) (x1 : BitVec 4) (sh : BitVec 1) (g : BitVec 5) (x : BitVec 5) (s : State) : exec (.aloadRaw x0 x1 sh g x) s = execAloadRaw sh g x s := rfl
@[simp] theorem exec_aloadValue (x0 : BitVec 1) (x1 : BitVec 4) (sh : BitVec 1) (g : BitVec 5) (x : BitVec 5) (f : BitVec 4) (s : State) : exec (.aloadValue x0 x1 sh g x f) s = execAloadValue sh g x f s := rfl
@[simp] theorem exec_scld (x0 : BitVec 1) (x1 : BitVec 4) (sh : BitVec 3) (e : BitVec 10) (y : BitVec 6) (s : State) : exec (.scld x0 x1 sh e y) s = execScld sh e y s := rfl
@[simp] theorem exec_mfmt (x0 : BitVec 1) (x1 : BitVec 4) (im : BitVec 10) (s : State) : exec (.mfmt x0 x1 im) s = execMfmt im s := rfl
@[simp] theorem exec_tmma (x0 : BitVec 1) (x1 : BitVec 4) (t : BitVec 2) (y : BitVec 6) (s : State) : exec (.tmma x0 x1 t y) s = execTmma t y s := rfl
@[simp] theorem exec_twait (x0 : BitVec 1) (x1 : BitVec 4) (t : BitVec 2) (s : State) : exec (.twait x0 x1 t) s = execTwait t s := rfl
@[simp] theorem exec_twaitOc (x0 : BitVec 1) (x1 : BitVec 4) (t : BitVec 2) (s : State) : exec (.twaitOc x0 x1 t) s = execTwaitOc t s := rfl
@[simp] theorem exec_acanon (x0 : BitVec 1) (x1 : BitVec 4) (sh : BitVec 1) (g : BitVec 5) (s : State) : exec (.acanon x0 x1 sh g) s = execAcanon sh g s := rfl
@[simp] theorem exec_amov (x0 : BitVec 1) (x1 : BitVec 4) (sh : BitVec 2) (g : BitVec 5) (x : BitVec 5) (s : State) : exec (.amov x0 x1 sh g x) s = execAmov sh g x s := rfl
@[simp] theorem exec_edge (x0 : BitVec 1) (l : BitVec 4) (g : BitVec 5) (x : BitVec 5) (y : BitVec 6) (s : State) : exec (.edge x0 l g x y) s = execEdge l g x y s := rfl
@[simp] theorem exec_bary (x0 : BitVec 1) (l : BitVec 4) (x : BitVec 5) (y : BitVec 6) (s : State) : exec (.bary x0 l x y) s = execBary l x y s := rfl
@[simp] theorem exec_covpk (x0 : BitVec 1) (l : BitVec 4) (g : BitVec 5) (x : BitVec 5) (y : BitVec 6) (s : State) : exec (.covpk x0 l g x y) s = execCovpk l g x y s := rfl
@[simp] theorem exec_texg (x0 : BitVec 1) (l : BitVec 4) (g : BitVec 4) (x : BitVec 5) (y : BitVec 6) (s : State) : exec (.texg x0 l g x y) s = execTexg l g x y s := rfl
@[simp] theorem exec_filt (x0 : BitVec 1) (l : BitVec 4) (sh : BitVec 3) (g : BitVec 5) (x : BitVec 5) (y : BitVec 6) (s : State) : exec (.filt x0 l sh g x y) s = execFilt l sh g x y s := rfl
@[simp] theorem exec_blnd (x0 : BitVec 1) (l : BitVec 4) (g : BitVec 5) (x : BitVec 5) (y : BitVec 6) (s : State) : exec (.blnd x0 l g x y) s = execBlnd l g x y s := rfl
@[simp] theorem exec_cpack (x0 : BitVec 1) (l : BitVec 4) (g : BitVec 5) (x : BitVec 5) (y : BitVec 4) (s : State) : exec (.cpack x0 l g x y) s = execCpack l g x y s := rfl
@[simp] theorem exec_cunpk (x0 : BitVec 1) (l : BitVec 4) (x : BitVec 5) (y : BitVec 4) (s : State) : exec (.cunpk x0 l x y) s = execCunpk l x y s := rfl
@[simp] theorem exec_meshemit (x0 : BitVec 1) (l : BitVec 4) (sh : BitVec 1) (g : BitVec 5) (s : State) : exec (.meshemit x0 l sh g) s = execMeshemit l sh g s := rfl
@[simp] theorem exec_binnext (x0 : BitVec 1) (l : BitVec 4) (g : BitVec 5) (y : BitVec 6) (s : State) : exec (.binnext x0 l g y) s = execBinnext l g y s := rfl
@[simp] theorem exec_bararr (x0 : BitVec 1) (e : BitVec 3) (b : BitVec 7) (z : BitVec 5) (s : State) : exec (.bararr x0 e b z) s = execBararr e b z s := rfl
@[simp] theorem exec_barwait (x0 : BitVec 1) (e : BitVec 3) (b : BitVec 7) (z : BitVec 5) (s : State) : exec (.barwait x0 e b z) s = execBarwait e b z s := rfl
@[simp] theorem exec_barsync (x0 : BitVec 1) (e : BitVec 3) (b : BitVec 7) (z : BitVec 5) (s : State) : exec (.barsync x0 e b z) s = execBarsync e b z s := rfl
@[simp] theorem exec_barexp (x0 : BitVec 1) (e : BitVec 3) (a : BitVec 7) (b : BitVec 7) (z : BitVec 5) (s : State) : exec (.barexp x0 e a b z) s = execBarexp e a b z s := rfl
@[simp] theorem exec_ordenter (x0 : BitVec 1) (a : BitVec 7) (b : BitVec 7) (z : BitVec 5) (s : State) : exec (.ordenter x0 a b z) s = execOrdenter a b z s := rfl
@[simp] theorem exec_ordleave (x0 : BitVec 1) (a : BitVec 7) (z : BitVec 5) (s : State) : exec (.ordleave x0 a z) s = execOrdleave a z s := rfl
@[simp] theorem exec_ordskip (x0 : BitVec 1) (a : BitVec 7) (b : BitVec 7) (z : BitVec 5) (s : State) : exec (.ordskip x0 a b z) s = execOrdskip a b z s := rfl
@[simp] theorem exec_ordtest (x0 : BitVec 1) (a : BitVec 7) (b : BitVec 7) (z : BitVec 5) (s : State) : exec (.ordtest x0 a b z) s = execOrdtest a b z s := rfl
@[simp] theorem exec_seqnext (x0 : BitVec 1) (a : BitVec 7) (z : BitVec 5) (s : State) : exec (.seqnext x0 a z) s = execSeqnext a z s := rfl
@[simp] theorem exec_put (x0 : BitVec 1) (e : BitVec 3) (a : BitVec 7) (z : BitVec 5) (s : State) : exec (.put x0 e a z) s = execPut e a z s := rfl
@[simp] theorem exec_putw (x0 : BitVec 1) (e : BitVec 3) (a : BitVec 7) (b : BitVec 7) (z : BitVec 5) (s : State) : exec (.putw x0 e a b z) s = execPutw e a b z s := rfl
@[simp] theorem exec_cwait (x0 : BitVec 1) (e : BitVec 3) (a : BitVec 7) (z : BitVec 5) (s : State) : exec (.cwait x0 e a z) s = execCwait e a z s := rfl
@[simp] theorem exec_fenceAcq (x0 : BitVec 1) (e : BitVec 3) (s : State) : exec (.fenceAcq x0 e) s = execFenceAcq e s := rfl
@[simp] theorem exec_fenceRel (x0 : BitVec 1) (e : BitVec 3) (s : State) : exec (.fenceRel x0 e) s = execFenceRel e s := rfl
@[simp] theorem exec_fenceAr (x0 : BitVec 1) (e : BitVec 3) (s : State) : exec (.fenceAr x0 e) s = execFenceAr e s := rfl
@[simp] theorem exec_fenceSc (x0 : BitVec 1) (e : BitVec 3) (s : State) : exec (.fenceSc x0 e) s = execFenceSc e s := rfl
@[simp] theorem exec_scwait (x0 : BitVec 1) (s : State) : exec (.scwait x0) s = execScwait s := rfl
@[simp] theorem exec_qacq (x0 : BitVec 1) (x1 : BitVec 4) (d : BitVec 4) (q : BitVec 3) (s : State) : exec (.qacq x0 x1 d q) s = execQacq d q s := rfl
@[simp] theorem exec_qrel (x0 : BitVec 1) (x1 : BitVec 4) (a : BitVec 4) (q : BitVec 3) (s : State) : exec (.qrel x0 x1 a q) s = execQrel a q s := rfl
@[simp] theorem exec_qpacq (x0 : BitVec 1) (x1 : BitVec 4) (d : BitVec 4) (q : BitVec 3) (s : State) : exec (.qpacq x0 x1 d q) s = execQpacq d q s := rfl
@[simp] theorem exec_qpcommit (x0 : BitVec 1) (x1 : BitVec 4) (a : BitVec 4) (q : BitVec 3) (s : State) : exec (.qpcommit x0 x1 a q) s = execQpcommit a q s := rfl
@[simp] theorem exec_tcopy (x0 : BitVec 1) (x1 : BitVec 4) (d : BitVec 4) (s : State) : exec (.tcopy x0 x1 d) s = execTcopy d s := rfl
@[simp] theorem exec_tstore (x0 : BitVec 1) (x1 : BitVec 4) (d : BitVec 4) (s : State) : exec (.tstore x0 x1 d) s = execTstore d s := rfl
@[simp] theorem exec_apstart (x0 : BitVec 1) (x1 : BitVec 4) (p : BitVec 2) (a : BitVec 4) (s : State) : exec (.apstart x0 x1 p a) s = execApstart p a s := rfl
@[simp] theorem exec_apstop (x0 : BitVec 1) (x1 : BitVec 4) (p : BitVec 2) (s : State) : exec (.apstop x0 x1 p) s = execApstop p s := rfl
@[simp] theorem exec_xli (x0 : BitVec 1) (d : BitVec 4) (im : BitVec 10) (s : State) : exec (.xli x0 d im) s = execXli d im s := rfl
@[simp] theorem exec_xlih (x0 : BitVec 1) (d : BitVec 4) (im : BitVec 10) (s : State) : exec (.xlih x0 d im) s = execXlih d im s := rfl
@[simp] theorem exec_xadd (x0 : BitVec 1) (d : BitVec 4) (a : BitVec 4) (im : BitVec 10) (s : State) : exec (.xadd x0 d a im) s = execXadd d a im s := rfl
@[simp] theorem exec_xmad (x0 : BitVec 1) (d : BitVec 4) (a : BitVec 4) (im : BitVec 10) (s : State) : exec (.xmad x0 d a im) s = execXmad d a im s := rfl
@[simp] theorem exec_xloop (x0 : BitVec 1) (k : BitVec 2) (o : BitVec 10) (s : State) : exec (.xloop x0 k o) s = execXloop k o s := rfl
@[simp] theorem exec_xloopSet (x0 : BitVec 1) (k : BitVec 2) (a : BitVec 4) (s : State) : exec (.xloopSet x0 k a) s = execXloopSet k a s := rfl
@[simp] theorem exec_xfetch (x0 : BitVec 1) (a : BitVec 4) (g : BitVec 7) (q : BitVec 3) (s : State) : exec (.xfetch x0 a g q) s = execXfetch a g q s := rfl
@[simp] theorem exec_xstore (x0 : BitVec 1) (a : BitVec 4) (g : BitVec 7) (q : BitVec 3) (s : State) : exec (.xstore x0 a g q) s = execXstore a g q s := rfl
@[simp] theorem exec_xsigFill (x0 : BitVec 1) (q : BitVec 3) (s : State) : exec (.xsigFill x0 q) s = execXsigFill q s := rfl
@[simp] theorem exec_xsigFree (x0 : BitVec 1) (q : BitVec 3) (s : State) : exec (.xsigFree x0 q) s = execXsigFree q s := rfl
@[simp] theorem exec_xend (x0 : BitVec 1) (s : State) : exec (.xend x0) s = execXend s := rfl
@[simp] theorem exec_nop (x0 : BitVec 1) (s : State) : exec (.nop x0) s = execNop s := rfl
@[simp] theorem exec_sysrd (x0 : BitVec 1) (p : BitVec 8) (m : BitVec 14) (s : State) : exec (.sysrd x0 p m) s = execSysrd p m s := rfl
@[simp] theorem exec_syswr (x0 : BitVec 1) (p : BitVec 8) (m : BitVec 14) (s : State) : exec (.syswr x0 p m) s = execSyswr p m s := rfl
@[simp] theorem exec_trap (x0 : BitVec 1) (m : BitVec 14) (s : State) : exec (.trap x0 m) s = execTrap m s := rfl
@[simp] theorem exec_trapret (x0 : BitVec 1) (p : BitVec 2) (s : State) : exec (.trapret x0 p) s = execTrapret p s := rfl
@[simp] theorem exec_frsave (x0 : BitVec 1) (p : BitVec 4) (s : State) : exec (.frsave x0 p) s = execFrsave p s := rfl
@[simp] theorem exec_frload (x0 : BitVec 1) (p : BitVec 4) (s : State) : exec (.frload x0 p) s = execFrload p s := rfl
@[simp] theorem exec_region (x0 : BitVec 1) (p : BitVec 8) (m : BitVec 9) (s : State) : exec (.region x0 p m) s = execRegion p m s := rfl
@[simp] theorem exec_reggrowTry (x0 : BitVec 1) (m : BitVec 14) (s : State) : exec (.reggrowTry x0 m) s = execReggrowTry m s := rfl
@[simp] theorem exec_reggrowWait (x0 : BitVec 1) (m : BitVec 14) (s : State) : exec (.reggrowWait x0 m) s = execReggrowWait m s := rfl
@[simp] theorem exec_regshrink (x0 : BitVec 1) (m : BitVec 14) (s : State) : exec (.regshrink x0 m) s = execRegshrink m s := rfl
@[simp] theorem exec_vfree (x0 : BitVec 1) (p : BitVec 7) (m : BitVec 7) (s : State) : exec (.vfree x0 p m) s = execVfree p m s := rfl
@[simp] theorem exec_query (x0 : BitVec 1) (p : BitVec 8) (m : BitVec 14) (s : State) : exec (.query x0 p m) s = execQuery p m s := rfl
@[simp] theorem exec_launch (x0 : BitVec 1) (p : BitVec 8) (m : BitVec 14) (s : State) : exec (.launch x0 p m) s = execLaunch p m s := rfl
@[simp] theorem exec_bkpt (x0 : BitVec 1) (x1 : BitVec 14) (s : State) : exec (.bkpt x0 x1) s = execBkpt s := rfl
@[simp] theorem exec_waitev (x0 : BitVec 1) (m : BitVec 6) (s : State) : exec (.waitev x0 m) s = execWaitev m s := rfl
@[simp] theorem exec_perfrd (x0 : BitVec 1) (p : BitVec 8) (m : BitVec 14) (s : State) : exec (.perfrd x0 p m) s = execPerfrd p m s := rfl
@[simp] theorem exec_rngseed (x0 : BitVec 1) (p : BitVec 7) (s : State) : exec (.rngseed x0 p) s = execRngseed p s := rfl
@[simp] theorem exec_modesetWrite (x0 : BitVec 1) (m : BitVec 14) (s : State) : exec (.modesetWrite x0 m) s = execModesetWrite m s := rfl
@[simp] theorem exec_modesetOr (x0 : BitVec 1) (m : BitVec 14) (s : State) : exec (.modesetOr x0 m) s = execModesetOr m s := rfl
@[simp] theorem exec_modesetAndn (x0 : BitVec 1) (m : BitVec 14) (s : State) : exec (.modesetAndn x0 m) s = execModesetAndn m s := rfl
@[simp] theorem exec_modesetTen (x0 : BitVec 1) (m : BitVec 6) (s : State) : exec (.modesetTen x0 m) s = execModesetTen m s := rfl
@[simp] theorem exec_tinfo (x0 : BitVec 1) (p : BitVec 7) (m : BitVec 4) (s : State) : exec (.tinfo x0 p m) s = execTinfo p m s := rfl
@[simp] theorem exec_cvtf (x0 : BitVec 1) (x1 : BitVec 4) (sh : BitVec 4) (d : BitVec 7) (a : BitVec 7) (s : State) : exec (.cvtf x0 x1 sh d a) s = execCvtf sh d a s := rfl
@[simp] theorem exec_cvtfi (x0 : BitVec 1) (x1 : BitVec 4) (sh : BitVec 4) (d : BitVec 7) (a : BitVec 7) (s : State) : exec (.cvtfi x0 x1 sh d a) s = execCvtfi sh d a s := rfl
@[simp] theorem exec_cvtif (x0 : BitVec 1) (x1 : BitVec 4) (sh : BitVec 4) (d : BitVec 7) (a : BitVec 7) (s : State) : exec (.cvtif x0 x1 sh d a) s = execCvtif sh d a s := rfl
@[simp] theorem exec_pack2 (x0 : BitVec 1) (x1 : BitVec 4) (sh : BitVec 4) (d : BitVec 7) (a : BitVec 7) (s : State) : exec (.pack2 x0 x1 sh d a) s = execPack2 sh d a s := rfl
@[simp] theorem exec_pack4 (x0 : BitVec 1) (x1 : BitVec 4) (sh : BitVec 4) (d : BitVec 7) (a : BitVec 7) (s : State) : exec (.pack4 x0 x1 sh d a) s = execPack4 sh d a s := rfl
@[simp] theorem exec_unpk (x0 : BitVec 1) (x1 : BitVec 4) (sh : BitVec 4) (d : BitVec 7) (a : BitVec 7) (s : State) : exec (.unpk x0 x1 sh d a) s = execUnpk sh d a s := rfl
@[simp] theorem exec_rcp (x0 : BitVec 1) (x1 : BitVec 4) (sh : BitVec 4) (d : BitVec 7) (a : BitVec 7) (s : State) : exec (.rcp x0 x1 sh d a) s = execRcp sh d a s := rfl
@[simp] theorem exec_rsq (x0 : BitVec 1) (x1 : BitVec 4) (sh : BitVec 4) (d : BitVec 7) (a : BitVec 7) (s : State) : exec (.rsq x0 x1 sh d a) s = execRsq sh d a s := rfl
@[simp] theorem exec_sqrt (x0 : BitVec 1) (x1 : BitVec 4) (sh : BitVec 4) (d : BitVec 7) (a : BitVec 7) (s : State) : exec (.sqrt x0 x1 sh d a) s = execSqrt sh d a s := rfl
@[simp] theorem exec_exp2 (x0 : BitVec 1) (x1 : BitVec 4) (sh : BitVec 4) (d : BitVec 7) (a : BitVec 7) (s : State) : exec (.exp2 x0 x1 sh d a) s = execExp2 sh d a s := rfl
@[simp] theorem exec_log2 (x0 : BitVec 1) (x1 : BitVec 4) (sh : BitVec 4) (d : BitVec 7) (a : BitVec 7) (s : State) : exec (.log2 x0 x1 sh d a) s = execLog2 sh d a s := rfl
@[simp] theorem exec_sinp (x0 : BitVec 1) (x1 : BitVec 4) (sh : BitVec 4) (d : BitVec 7) (a : BitVec 7) (s : State) : exec (.sinp x0 x1 sh d a) s = execSinp sh d a s := rfl
@[simp] theorem exec_cosp (x0 : BitVec 1) (x1 : BitVec 4) (sh : BitVec 4) (d : BitVec 7) (a : BitVec 7) (s : State) : exec (.cosp x0 x1 sh d a) s = execCosp sh d a s := rfl
@[simp] theorem exec_tanh (x0 : BitVec 1) (x1 : BitVec 4) (sh : BitVec 4) (d : BitVec 7) (a : BitVec 7) (s : State) : exec (.tanh x0 x1 sh d a) s = execTanh sh d a s := rfl
@[simp] theorem exec_rng (x0 : BitVec 1) (x1 : BitVec 4) (sh : BitVec 4) (d : BitVec 7) (s : State) : exec (.rng x0 x1 sh d) s = execRng sh d s := rfl
@[simp] theorem exec_pfx (m : BitVec 1) (k : BitVec 3) (r : BitVec 3) (z : BitVec 1) (q : BitVec 7) (w : BitVec 1) (x : BitVec 11) (s : State) : exec (.pfx m k r z q w x) s = execPfx m k r z q w x s := rfl
@[simp] theorem exec_illegalInstruction (s : State) : exec (.illegalInstruction) s = execIllegalInstruction s := rfl
@[simp] theorem exec_instructionFetchFault (s : State) : exec (.instructionFetchFault) s = execInstructionFetchFault s := rfl
@[simp] theorem exec_rejoinRelease (w : Nat) (k : Nat) (s : State) : exec (.rejoinRelease w k) s = execRejoinRelease w k s := rfl
@[simp] theorem exec_longLatencyCompletion (f : Nat) (s : State) : exec (.longLatencyCompletion f) s = execLongLatencyCompletion f s := rfl
@[simp] theorem exec_storeAcknowledgement (f : Nat) (s : State) : exec (.storeAcknowledgement f) s = execStoreAcknowledgement f s := rfl
@[simp] theorem exec_homeAtomic (f : Nat) (s : State) : exec (.homeAtomic f) s = execHomeAtomic f s := rfl
@[simp] theorem exec_homeRawMerge (f : Nat) (s : State) : exec (.homeRawMerge f) s = execHomeRawMerge f s := rfl
@[simp] theorem exec_homeValueAdd (f : Nat) (s : State) : exec (.homeValueAdd f) s = execHomeValueAdd f s := rfl
@[simp] theorem exec_trapEntry (w : Nat) (s : State) : exec (.trapEntry w) s = execTrapEntry w s := rfl
@[simp] theorem exec_reggrowWaitGrant (w : Nat) (s : State) : exec (.reggrowWaitGrant w) s = execReggrowWaitGrant w s := rfl
@[simp] theorem exec_reggrowEviction (core : Nat) (s : State) : exec (.reggrowEviction core) s = execReggrowEviction core s := rfl
@[simp] theorem exec_evictedWarpReadmission (w : Nat) (s : State) : exec (.evictedWarpReadmission w) s = execEvictedWarpReadmission w s := rfl
@[simp] theorem exec_warpEnd (w : Nat) (s : State) : exec (.warpEnd w) s = execWarpEnd w s := rfl
@[simp] theorem exec_barrierRelease (kind : Nat) (owner : Nat) (bar : Nat) (s : State) : exec (.barrierRelease kind owner bar) s = execBarrierRelease kind owner bar s := rfl
@[simp] theorem exec_peerBarrierMessage (port : Nat) (bar : Nat) (phase : Nat) (s : State) : exec (.peerBarrierMessage port bar phase) s = execPeerBarrierMessage port bar phase s := rfl
@[simp] theorem exec_ordRequestAtHome (f : Nat) (s : State) : exec (.ordRequestAtHome f) s = execOrdRequestAtHome f s := rfl
@[simp] theorem exec_ordLeaveAtHome (f : Nat) (s : State) : exec (.ordLeaveAtHome f) s = execOrdLeaveAtHome f s := rfl
@[simp] theorem exec_ordGrant (f : Nat) (s : State) : exec (.ordGrant f) s = execOrdGrant f s := rfl
@[simp] theorem exec_quietIntervalEnd (slice : Nat) (s : State) : exec (.quietIntervalEnd slice) s = execQuietIntervalEnd slice s := rfl
@[simp] theorem exec_putArrival (f : Nat) (s : State) : exec (.putArrival f) s = execPutArrival f s := rfl
@[simp] theorem exec_ringReconfigure (wg : Nat) (ring : Nat) (s : State) : exec (.ringReconfigure wg ring) s = execRingReconfigure wg ring s := rfl
@[simp] theorem exec_copySlotAcquire (f : Nat) (s : State) : exec (.copySlotAcquire f) s = execCopySlotAcquire f s := rfl
@[simp] theorem exec_copyBytesLand (f : Nat) (s : State) : exec (.copyBytesLand f) s = execCopyBytesLand f s := rfl
@[simp] theorem exec_flintRequestResume (core : Nat) (slot : Nat) (s : State) : exec (.flintRequestResume core slot) s = execFlintRequestResume core slot s := rfl
@[simp] theorem exec_tmmaKstep (wg : Nat) (tag : Nat) (s : State) : exec (.tmmaKstep wg tag) s = execTmmaKstep wg tag s := rfl
@[simp] theorem exec_classifyMeshlet (launch : Nat) (s : State) : exec (.classifyMeshlet launch) s = execClassifyMeshlet launch s := rfl
@[simp] theorem exec_shaleBatchHandout (w : Nat) (s : State) : exec (.shaleBatchHandout w) s = execShaleBatchHandout w s := rfl
@[simp] theorem exec_stageStart (launch : Nat) (stage : Nat) (s : State) : exec (.stageStart launch stage) s = execStageStart launch stage s := rfl
@[simp] theorem exec_stageCompletion (launch : Nat) (stage : Nat) (s : State) : exec (.stageCompletion launch stage) s = execStageCompletion launch stage s := rfl
@[simp] theorem exec_queueDoorbell (q : Nat) (v : BitVec 32) (s : State) : exec (.queueDoorbell q v) s = execQueueDoorbell q v s := rfl
@[simp] theorem exec_run (q : Nat) (s : State) : exec (.run q) s = execRun q s := rfl
@[simp] theorem exec_event (q : Nat) (s : State) : exec (.event q) s = execEvent q s := rfl
@[simp] theorem exec_domalloc (q : Nat) (s : State) : exec (.domalloc q) s = execDomalloc q s := rfl
@[simp] theorem exec_domfree (q : Nat) (s : State) : exec (.domfree q) s = execDomfree q s := rfl
@[simp] theorem exec_abort (q : Nat) (s : State) : exec (.abort q) s = execAbort q s := rfl
@[simp] theorem exec_qctlWrite (q : Nat) (v : BitVec 32) (s : State) : exec (.qctlWrite q v) s = execQctlWrite q v s := rfl
@[simp] theorem exec_residencyWalk (launch : Nat) (s : State) : exec (.residencyWalk launch) s = execResidencyWalk launch s := rfl
@[simp] theorem exec_gangPlacement (launch : Nat) (s : State) : exec (.gangPlacement launch) s = execGangPlacement launch s := rfl
@[simp] theorem exec_preemption (launch : Nat) (s : State) : exec (.preemption launch) s = execPreemption launch s := rfl
@[simp] theorem exec_drainApproachExpiry (w : Nat) (s : State) : exec (.drainApproachExpiry w) s = execDrainApproachExpiry w s := rfl
@[simp] theorem exec_saveBlockStore (launch : Nat) (gang : Nat) (s : State) : exec (.saveBlockStore launch gang) s = execSaveBlockStore launch gang s := rfl
@[simp] theorem exec_sliceExpiry (launch : Nat) (gang : Nat) (s : State) : exec (.sliceExpiry launch gang) s = execSliceExpiry launch gang s := rfl
@[simp] theorem exec_fenceWaitPoll (launch : Nat) (s : State) : exec (.fenceWaitPoll launch) s = execFenceWaitPoll launch s := rfl
@[simp] theorem exec_launchCompletion (launch : Nat) (s : State) : exec (.launchCompletion launch) s = execLaunchCompletion launch s := rfl
@[simp] theorem exec_gangIndexMirror (launch : Nat) (s : State) : exec (.gangIndexMirror launch) s = execGangIndexMirror launch s := rfl
@[simp] theorem exec_launchNodeCopyDone (f : Nat) (s : State) : exec (.launchNodeCopyDone f) s = execLaunchNodeCopyDone f s := rfl
@[simp] theorem exec_dieFailure (die : Nat) (s : State) : exec (.dieFailure die) s = execDieFailure die s := rfl
@[simp] theorem exec_dieFailureGraceEnd (launch : Nat) (s : State) : exec (.dieFailureGraceEnd launch) s = execDieFailureGraceEnd launch s := rfl
@[simp] theorem exec_iqDoorbell (v : BitVec 32) (s : State) : exec (.iqDoorbell v) s = execIqDoorbell v s := rfl
@[simp] theorem exec_inval (s : State) : exec (.inval) s = execInval s := rfl
@[simp] theorem exec_retry (s : State) : exec (.retry) s = execRetry s := rfl
@[simp] theorem exec_refuse (s : State) : exec (.refuse) s = execRefuse s := rfl
@[simp] theorem exec_sync (s : State) : exec (.sync) s = execSync s := rfl
@[simp] theorem exec_invalCompletion (s : State) : exec (.invalCompletion) s = execInvalCompletion s := rfl
@[simp] theorem exec_iqctlWrite (v : BitVec 32) (s : State) : exec (.iqctlWrite v) s = execIqctlWrite v s := rfl
@[simp] theorem exec_atctlWrite (v : BitVec 32) (s : State) : exec (.atctlWrite v) s = execAtctlWrite v s := rfl
@[simp] theorem exec_ordovfctlWrite (v : BitVec 32) (s : State) : exec (.ordovfctlWrite v) s = execOrdovfctlWrite v s := rfl
@[simp] theorem exec_pwrcapWrite (v : BitVec 32) (s : State) : exec (.pwrcapWrite v) s = execPwrcapWrite v s := rfl
@[simp] theorem exec_cxlClearIsolation (port : Nat) (s : State) : exec (.cxlClearIsolation port) s = execCxlClearIsolation port s := rfl
@[simp] theorem exec_registerWrite (off : Nat) (v : BitVec 32) (s : State) : exec (.registerWrite off v) s = execRegisterWrite off v s := rfl
@[simp] theorem exec_systemAgentAccess (agent : Nat) (addr : Nat) (data : List (BitVec 8)) (s : State) : exec (.systemAgentAccess agent addr data) s = execSystemAgentAccess agent addr data s := rfl
@[simp] theorem exec_flitReceive (unit : Nat) (outcome : Nat) (s : State) : exec (.flitReceive unit outcome) s = execFlitReceive unit outcome s := rfl
@[simp] theorem exec_storageError (unit : Nat) (place : Nat) (grade : Nat) (s : State) : exec (.storageError unit place grade) s = execStorageError unit place grade s := rfl
@[simp] theorem exec_errorWindowEnd (unit : Nat) (s : State) : exec (.errorWindowEnd unit) s = execErrorWindowEnd unit s := rfl
@[simp] theorem exec_accessTimeout (f : Nat) (s : State) : exec (.accessTimeout f) s = execAccessTimeout f s := rfl
@[simp] theorem exec_cxlReadTimeout (port : Nat) (s : State) : exec (.cxlReadTimeout port) s = execCxlReadTimeout port s := rfl
@[simp] theorem exec_peerPortDown (port : Nat) (s : State) : exec (.peerPortDown port) s = execPeerPortDown port s := rfl
@[simp] theorem exec_linkUp (port : Nat) (caps : Nat) (s : State) : exec (.linkUp port caps) s = execLinkUp port caps s := rfl
@[simp] theorem exec_coldReset (s : State) : exec (.coldReset) s = execColdReset s := rfl
@[simp] theorem exec_gneissImageLoad (img : List (BitVec 8)) (s : State) : exec (.gneissImageLoad img) s = execGneissImageLoad img s := rfl
@[simp] theorem exec_serviceFirmwareLoad (img : List (BitVec 8)) (s : State) : exec (.serviceFirmwareLoad img) s = execServiceFirmwareLoad img s := rfl
@[simp] theorem exec_attestationRequest (nonce : List (BitVec 8)) (s : State) : exec (.attestationRequest nonce) s = execAttestationRequest nonce s := rfl
@[simp] theorem exec_thermalTrip (s : State) : exec (.thermalTrip) s = execThermalTrip s := rfl
@[simp] theorem exec_debugResume (w : Nat) (s : State) : exec (.debugResume w) s = execDebugResume w s := rfl
@[simp] theorem exec_flintIllegalInstruction (core : Nat) (slot : Nat) (s : State) : exec (.flintIllegalInstruction core slot) s = execFlintIllegalInstruction core slot s := rfl
@[simp] theorem exec_flintCodeFetchFault (core : Nat) (slot : Nat) (s : State) : exec (.flintCodeFetchFault core slot) s = execFlintCodeFetchFault core slot s := rfl
@[simp] theorem exec_rqctlWrite (v : BitVec 32) (s : State) : exec (.rqctlWrite v) s = execRqctlWrite v s := rfl
@[simp] theorem exec_elctlWrite (v : BitVec 32) (s : State) : exec (.elctlWrite v) s = execElctlWrite v s := rfl

end Sys2Proof.Machine
end

