-- ==== Sys2Proof/Laws/Maps.lean ====
section
/-! SUPPORT. Maps read back what was written, and every memory operation keeps the one form of memory. -/

namespace Sys2Proof.Machine

/-! ## Maps -/

theorem mapGet?_mapSet {α : Type} (m : AMap α) (k j : Nat) (x : α) :
    mapGet? (mapSet m k x) j = if j = k then some x else mapGet? m j := by
  induction m with
  | nil => by_cases h : k = j <;> simp [mapSet, mapGet?, h, eq_comm]
  | cons e r ih =>
    obtain ⟨i, y⟩ := e
    unfold mapSet
    by_cases h1 : i = k
    · subst h1
      by_cases h : i = j
      · simp [mapGet?, h]
      · simp [mapGet?, h, Ne.symm h]
    rw [if_neg h1]
    by_cases h2 : k < i
    · rw [if_pos h2]
      by_cases h : k = j
      · simp [mapGet?, h]
      · simp [mapGet?, h, Ne.symm h]
    · rw [if_neg h2]
      by_cases h : i = j
      · subst h; simp [mapGet?, h1]
      · simp [mapGet?, h, ih]

@[simp] theorem mapGet_mapSet_self {α : Type} (m : AMap α) (k : Nat) (x d : α) : mapGet (mapSet m k x) k d = x := by
  simp [mapGet, mapGet?_mapSet]
theorem mapGet_mapSet_ne {α : Type} (m : AMap α) {k j : Nat} (x d : α) (h : j ≠ k) :
    mapGet (mapSet m k x) j d = mapGet m j d := by simp [mapGet, mapGet?_mapSet, h]
theorem mapGet_mapSet {α : Type} (m : AMap α) (k j : Nat) (x d : α) :
    mapGet (mapSet m k x) j d = if j = k then x else mapGet m j d := by
  split
  · subst_vars; simp
  · exact mapGet_mapSet_ne m x d ‹_›
@[simp] theorem mapGet_nil {α : Type} (k : Nat) (d : α) : mapGet ([] : AMap α) k d = d := rfl

/-- A table of a function on a range reads back the function. -/
theorem mapGet?_table {α : Type} (f : Nat → α) (l : List Nat) (k : Nat) :
    mapGet? (l.map fun i => (i, f i)) k = if k ∈ l then some (f k) else none := by
  induction l with
  | nil => rfl
  | cons i r ih =>
    by_cases h : i = k
    · subst h; simp [mapGet?]
    · simp [mapGet?, h, ih, Ne.symm h]
theorem mapGet_range {α : Type} (f : Nat → α) (n k : Nat) (d : α) (h : k < n) :
    mapGet ((List.range n).map fun i => (i, f i)) k d = f k := by
  simp [mapGet, mapGet?_table, h]
theorem mapGet_range_high {α : Type} (f : Nat → α) (n k : Nat) (d : α) (h : n ≤ k) :
    mapGet ((List.range n).map fun i => (i, f i)) k d = d := by
  simp [mapGet, mapGet?_table, Nat.not_lt.mpr h]

/-! ## Memory -/

theorem memWfFrom_mono {lo hi : Nat} {m : List Host.Cell} (h : memWfFrom hi m = true) (hl : lo ≤ hi) : memWfFrom lo m = true := by
  cases m with
  | nil => rfl
  | cons e r =>
    obtain ⟨a, b⟩ := e
    simp only [memWfFrom, Bool.and_eq_true, decide_eq_true_eq] at h ⊢
    exact ⟨⟨by omega, h.1.2⟩, h.2⟩

/-- An address below the form's lower end reads as an unlisted one. -/
theorem memRead_low {lo : Nat} {m : List Host.Cell} (h : memWfFrom lo m = true) {k : Nat} (hk : k < lo) : memRead m k = memDefault := by
  induction m generalizing lo with
  | nil => rfl
  | cons e r ih =>
    obtain ⟨a, b⟩ := e
    simp only [memWfFrom, Bool.and_eq_true, decide_eq_true_eq] at h
    have : a ≠ k := by omega
    simp only [memRead, this, if_false]
    exact ih h.2 (by omega)

theorem memWrite_wfFrom {lo : Nat} {m : List Host.Cell} (h : memWfFrom lo m = true) {k : Nat} (hk : lo ≤ k) (b : Byte) :
    memWfFrom lo (memWrite m k b) = true := by
  induction m generalizing lo with
  | nil => by_cases hb : b = memDefault <;> simp [memWrite, memWfFrom, hb, hk]
  | cons e r ih =>
    obtain ⟨a, c⟩ := e
    have h' := h
    simp only [memWfFrom, Bool.and_eq_true, decide_eq_true_eq] at h
    unfold memWrite
    by_cases h1 : a = k
    · rw [if_pos h1]
      by_cases h2 : b = memDefault
      · rw [if_pos h2]; exact memWfFrom_mono h.2 (by omega)
      · rw [if_neg h2]; subst h1; simp [memWfFrom, h2, h.2, hk]
    rw [if_neg h1]
    by_cases h3 : k < a
    · rw [if_pos h3]
      by_cases h4 : b = memDefault
      · rw [if_pos h4]; exact h'
      · rw [if_neg h4]
        have : k + 1 ≤ a := h3
        have hc := h.1.2
        simp only [bne_iff_ne, ne_eq] at hc
        simp [memWfFrom, h4, hk, hc, h.2, this]
    · rw [if_neg h3]
      have := ih (lo := a + 1) h.2 (by omega)
      simp only [memWfFrom, Bool.and_eq_true, decide_eq_true_eq]
      exact ⟨h.1, this⟩

/-- A write keeps the one form. -/
theorem memWrite_wf {m : List Host.Cell} (h : Memory.wf m = true) (k : Nat) (b : Byte) : Memory.wf (memWrite m k b) = true :=
  memWrite_wfFrom h (Nat.zero_le k) b

theorem memRead_memWrite_from {lo : Nat} {m : List Host.Cell} (h : memWfFrom lo m = true) (k j : Nat) (b : Byte) :
    memRead (memWrite m k b) j = if j = k then b else memRead m j := by
  induction m generalizing lo with
  | nil =>
    by_cases hb : b = memDefault
    · simp [memWrite, memRead, hb]
    · by_cases hj : k = j
      · simp [memWrite, memRead, hb, hj]
      · simp [memWrite, memRead, hb, hj, Ne.symm hj]
  | cons e r ih =>
    obtain ⟨a, c⟩ := e
    simp only [memWfFrom, Bool.and_eq_true, decide_eq_true_eq] at h
    unfold memWrite
    by_cases h1 : a = k
    · subst h1
      rw [if_pos rfl]
      by_cases h2 : b = memDefault
      · rw [if_pos h2]
        by_cases hj : a = j
        · subst hj; simp [memRead_low h.2 (Nat.lt_succ_self _), h2]
        · simp [memRead, hj, Ne.symm hj]
      · rw [if_neg h2]
        by_cases hj : a = j
        · simp [memRead, hj]
        · simp [memRead, hj, Ne.symm hj]
    rw [if_neg h1]
    by_cases h3 : k < a
    · rw [if_pos h3]
      by_cases h4 : b = memDefault
      · rw [if_pos h4]
        by_cases hj : j = k
        · subst hj
          have := memRead_low (lo := a + 1) h.2 (k := j) (by omega)
          simp [memRead, h1, this, h4]
        · simp [hj]
      · rw [if_neg h4]
        by_cases hj : j = k
        · simp [memRead, hj]
        · simp [memRead, hj, Ne.symm hj]
    · rw [if_neg h3]
      by_cases hj : a = j
      · subst hj; simp [memRead, h1]
      · simp [memRead, hj, ih h.2]

/-- A byte reads back as it was written, and every other byte as before. -/
theorem memRead_memWrite {m : List Host.Cell} (h : Memory.wf m = true) (k j : Nat) (b : Byte) :
    memRead (memWrite m k b) j = if j = k then b else memRead m j := memRead_memWrite_from h k j b

theorem memWriteN_wf {m : List Host.Cell} (h : Memory.wf m = true) (k : Nat) (bs : List Byte) :
    Memory.wf (memWriteN m k bs) = true := by
  induction bs generalizing m k with
  | nil => exact h
  | cons b r ih => exact ih (memWrite_wf h k b) (k + 1)
/-- Bytes written one by one keep the form. -/
theorem foldl_memWrite_wf {α : Type} {m : List Host.Cell} (h : Memory.wf m = true) (l : List α) (at_ : α → Nat) (val : α → Byte) :
    Memory.wf (l.foldl (fun m c => memWrite m (at_ c) (val c)) m) = true := by
  induction l generalizing m with
  | nil => exact h
  | cons c r ih => exact ih (memWrite_wf h _ _)
/-- R287: one access's bytes of physical memory keep the form. -/
theorem State.physWrite_wf (s : State) (cells : List (Nat × Byte)) (marked : Bool) (h : Memory.wf s.mem = true) :
    Memory.wf (s.physWrite cells marked).mem = true := foldl_memWrite_wf h _ _ _
theorem State.physPut_wf (s : State) (pa n x : Nat) (h : Memory.wf s.mem = true) : Memory.wf (s.physPut pa n x).mem = true :=
  s.physWrite_wf _ _ h
/-- A record of the error log keeps the form. -/
theorem State.logError_wf (s : State) (cls ev unit addr tag count : Nat) (h : Memory.wf s.mem = true) :
    Memory.wf (s.logError cls ev unit addr tag count).mem = true := by
  unfold State.logError
  dsimp only
  split
  · exact State.physWrite_wf _ _ _ h
  · exact h
theorem State.logNowhere_wf (s : State) (asid : Nat) (as : List Nat) (h : Memory.wf s.mem = true) :
    Memory.wf (s.logNowhere asid as).mem = true := by
  unfold State.logNowhere
  split
  · exact s.logError_wf _ _ _ _ _ _ h
  · exact h
theorem State.countPoison_mem (s : State) (as : List Nat) : (s.countPoison as).mem = s.mem := by
  unfold State.countPoison; split <;> rfl
theorem State.noteRead_wf (s : State) (asid : Nat) (as : List Nat) (h : Memory.wf s.mem = true) :
    Memory.wf (s.noteRead asid as).mem = true := by
  unfold State.noteRead; rw [State.countPoison_mem]; exact s.logNowhere_wf asid as h
/-- R393: keeping the values before a write changes no byte of memory. -/
@[simp] theorem State.keepPast_mem (s : State) (via : Nat → Nat) (as : List Nat) : (s.keepPast via as).mem = s.mem := rfl
theorem State.sendWrite_wf (s : State) (asid : Nat) (cells : List (Nat × Byte)) (marked : Bool) (via : Nat → Nat)
    (h : Memory.wf s.mem = true) : Memory.wf (s.sendWrite asid cells marked via).mem = true :=
  State.logNowhere_wf _ _ _ (State.physWrite_wf _ cells marked h)
theorem State.reset_wf : Memory.wf State.reset.mem = true := rfl

end Sys2Proof.Machine
end

