-- ==== Sys2Proof/Laws/State.lean ====
section
/-! SUPPORT. What each update of the state leaves alone: one lemma per field, true by definition. -/

namespace Sys2Proof.Machine

@[simp] theorem State.setWarp_tick (s : State) (w : Nat) (x : Warp) : (s.setWarp w x).tick = s.tick := rfl
@[simp] theorem State.setWarp_nextId (s : State) (w : Nat) (x : Warp) : (s.setWarp w x).nextId = s.nextId := rfl
@[simp] theorem State.setWarp_inputs (s : State) (w : Nat) (x : Warp) : (s.setWarp w x).inputs = s.inputs := rfl
@[simp] theorem State.setWarp_issue (s : State) (w : Nat) (x : Warp) : (s.setWarp w x).issue = s.issue := rfl
@[simp] theorem State.setWarp_wgs (s : State) (w : Nat) (x : Warp) : (s.setWarp w x).wgs = s.wgs := rfl
@[simp] theorem State.setWarp_cores (s : State) (w : Nat) (x : Warp) : (s.setWarp w x).cores = s.cores := rfl
@[simp] theorem State.setWarp_launches (s : State) (w : Nat) (x : Warp) : (s.setWarp w x).launches = s.launches := rfl
@[simp] theorem State.setWarp_flights (s : State) (w : Nat) (x : Warp) : (s.setWarp w x).flights = s.flights := rfl
@[simp] theorem State.setWarp_pins (s : State) (w : Nat) (x : Warp) : (s.setWarp w x).pins = s.pins := rfl
@[simp] theorem State.setWarp_keys (s : State) (w : Nat) (x : Warp) : (s.setWarp w x).keys = s.keys := rfl
@[simp] theorem State.setWarp_seqNext (s : State) (w : Nat) (x : Warp) : (s.setWarp w x).seqNext = s.seqNext := rfl
@[simp] theorem State.setWarp_quiets (s : State) (w : Nat) (x : Warp) : (s.setWarp w x).quiets = s.quiets := rfl
@[simp] theorem State.setWarp_shared (s : State) (w : Nat) (x : Warp) : (s.setWarp w x).shared = s.shared := rfl
@[simp] theorem State.setWarp_trees (s : State) (w : Nat) (x : Warp) : (s.setWarp w x).trees = s.trees := rfl
@[simp] theorem State.setWarp_mem (s : State) (w : Nat) (x : Warp) : (s.setWarp w x).mem = s.mem := rfl
@[simp] theorem State.setWarp_poison (s : State) (w : Nat) (x : Warp) : (s.setWarp w x).poison = s.poison := rfl
@[simp] theorem State.setWarp_hist (s : State) (w : Nat) (x : Warp) : (s.setWarp w x).hist = s.hist := rfl
@[simp] theorem State.setWarp_tlb (s : State) (w : Nat) (x : Warp) : (s.setWarp w x).tlb = s.tlb := rfl
@[simp] theorem State.setWarp_lines (s : State) (w : Nat) (x : Warp) : (s.setWarp w x).lines = s.lines := rfl
@[simp] theorem State.setWarp_armed (s : State) (w : Nat) (x : Warp) : (s.setWarp w x).armed = s.armed := rfl
@[simp] theorem State.setWarp_dev (s : State) (w : Nat) (x : Warp) : (s.setWarp w x).dev = s.dev := rfl

@[simp] theorem State.modWarp_tick (s : State) (w : Nat) (f : Warp → Warp) : (s.modWarp w f).tick = s.tick := rfl
@[simp] theorem State.modWarp_nextId (s : State) (w : Nat) (f : Warp → Warp) : (s.modWarp w f).nextId = s.nextId := rfl
@[simp] theorem State.modWarp_inputs (s : State) (w : Nat) (f : Warp → Warp) : (s.modWarp w f).inputs = s.inputs := rfl
@[simp] theorem State.modWarp_issue (s : State) (w : Nat) (f : Warp → Warp) : (s.modWarp w f).issue = s.issue := rfl
@[simp] theorem State.modWarp_wgs (s : State) (w : Nat) (f : Warp → Warp) : (s.modWarp w f).wgs = s.wgs := rfl
@[simp] theorem State.modWarp_cores (s : State) (w : Nat) (f : Warp → Warp) : (s.modWarp w f).cores = s.cores := rfl
@[simp] theorem State.modWarp_launches (s : State) (w : Nat) (f : Warp → Warp) : (s.modWarp w f).launches = s.launches := rfl
@[simp] theorem State.modWarp_flights (s : State) (w : Nat) (f : Warp → Warp) : (s.modWarp w f).flights = s.flights := rfl
@[simp] theorem State.modWarp_pins (s : State) (w : Nat) (f : Warp → Warp) : (s.modWarp w f).pins = s.pins := rfl
@[simp] theorem State.modWarp_keys (s : State) (w : Nat) (f : Warp → Warp) : (s.modWarp w f).keys = s.keys := rfl
@[simp] theorem State.modWarp_seqNext (s : State) (w : Nat) (f : Warp → Warp) : (s.modWarp w f).seqNext = s.seqNext := rfl
@[simp] theorem State.modWarp_quiets (s : State) (w : Nat) (f : Warp → Warp) : (s.modWarp w f).quiets = s.quiets := rfl
@[simp] theorem State.modWarp_shared (s : State) (w : Nat) (f : Warp → Warp) : (s.modWarp w f).shared = s.shared := rfl
@[simp] theorem State.modWarp_trees (s : State) (w : Nat) (f : Warp → Warp) : (s.modWarp w f).trees = s.trees := rfl
@[simp] theorem State.modWarp_mem (s : State) (w : Nat) (f : Warp → Warp) : (s.modWarp w f).mem = s.mem := rfl
@[simp] theorem State.modWarp_poison (s : State) (w : Nat) (f : Warp → Warp) : (s.modWarp w f).poison = s.poison := rfl
@[simp] theorem State.modWarp_hist (s : State) (w : Nat) (f : Warp → Warp) : (s.modWarp w f).hist = s.hist := rfl
@[simp] theorem State.modWarp_tlb (s : State) (w : Nat) (f : Warp → Warp) : (s.modWarp w f).tlb = s.tlb := rfl
@[simp] theorem State.modWarp_lines (s : State) (w : Nat) (f : Warp → Warp) : (s.modWarp w f).lines = s.lines := rfl
@[simp] theorem State.modWarp_armed (s : State) (w : Nat) (f : Warp → Warp) : (s.modWarp w f).armed = s.armed := rfl
@[simp] theorem State.modWarp_dev (s : State) (w : Nat) (f : Warp → Warp) : (s.modWarp w f).dev = s.dev := rfl

@[simp] theorem State.modCur_tick (s : State) (f : Warp → Warp) : (s.modCur f).tick = s.tick := rfl
@[simp] theorem State.modCur_nextId (s : State) (f : Warp → Warp) : (s.modCur f).nextId = s.nextId := rfl
@[simp] theorem State.modCur_inputs (s : State) (f : Warp → Warp) : (s.modCur f).inputs = s.inputs := rfl
@[simp] theorem State.modCur_issue (s : State) (f : Warp → Warp) : (s.modCur f).issue = s.issue := rfl
@[simp] theorem State.modCur_wgs (s : State) (f : Warp → Warp) : (s.modCur f).wgs = s.wgs := rfl
@[simp] theorem State.modCur_cores (s : State) (f : Warp → Warp) : (s.modCur f).cores = s.cores := rfl
@[simp] theorem State.modCur_launches (s : State) (f : Warp → Warp) : (s.modCur f).launches = s.launches := rfl
@[simp] theorem State.modCur_flights (s : State) (f : Warp → Warp) : (s.modCur f).flights = s.flights := rfl
@[simp] theorem State.modCur_pins (s : State) (f : Warp → Warp) : (s.modCur f).pins = s.pins := rfl
@[simp] theorem State.modCur_keys (s : State) (f : Warp → Warp) : (s.modCur f).keys = s.keys := rfl
@[simp] theorem State.modCur_seqNext (s : State) (f : Warp → Warp) : (s.modCur f).seqNext = s.seqNext := rfl
@[simp] theorem State.modCur_quiets (s : State) (f : Warp → Warp) : (s.modCur f).quiets = s.quiets := rfl
@[simp] theorem State.modCur_shared (s : State) (f : Warp → Warp) : (s.modCur f).shared = s.shared := rfl
@[simp] theorem State.modCur_trees (s : State) (f : Warp → Warp) : (s.modCur f).trees = s.trees := rfl
@[simp] theorem State.modCur_mem (s : State) (f : Warp → Warp) : (s.modCur f).mem = s.mem := rfl
@[simp] theorem State.modCur_poison (s : State) (f : Warp → Warp) : (s.modCur f).poison = s.poison := rfl
@[simp] theorem State.modCur_hist (s : State) (f : Warp → Warp) : (s.modCur f).hist = s.hist := rfl
@[simp] theorem State.modCur_tlb (s : State) (f : Warp → Warp) : (s.modCur f).tlb = s.tlb := rfl
@[simp] theorem State.modCur_lines (s : State) (f : Warp → Warp) : (s.modCur f).lines = s.lines := rfl
@[simp] theorem State.modCur_armed (s : State) (f : Warp → Warp) : (s.modCur f).armed = s.armed := rfl
@[simp] theorem State.modCur_dev (s : State) (f : Warp → Warp) : (s.modCur f).dev = s.dev := rfl

@[simp] theorem State.finish_tick (s : State) (f : Nat → LaneEnd) : (s.finish f).tick = s.tick := rfl
@[simp] theorem State.finish_nextId (s : State) (f : Nat → LaneEnd) : (s.finish f).nextId = s.nextId := rfl
@[simp] theorem State.finish_inputs (s : State) (f : Nat → LaneEnd) : (s.finish f).inputs = s.inputs := rfl
@[simp] theorem State.finish_issue (s : State) (f : Nat → LaneEnd) : (s.finish f).issue = s.issue := rfl
@[simp] theorem State.finish_wgs (s : State) (f : Nat → LaneEnd) : (s.finish f).wgs = s.wgs := rfl
@[simp] theorem State.finish_cores (s : State) (f : Nat → LaneEnd) : (s.finish f).cores = s.cores := rfl
@[simp] theorem State.finish_launches (s : State) (f : Nat → LaneEnd) : (s.finish f).launches = s.launches := rfl
@[simp] theorem State.finish_flights (s : State) (f : Nat → LaneEnd) : (s.finish f).flights = s.flights := rfl
@[simp] theorem State.finish_pins (s : State) (f : Nat → LaneEnd) : (s.finish f).pins = s.pins := rfl
@[simp] theorem State.finish_keys (s : State) (f : Nat → LaneEnd) : (s.finish f).keys = s.keys := rfl
@[simp] theorem State.finish_seqNext (s : State) (f : Nat → LaneEnd) : (s.finish f).seqNext = s.seqNext := rfl
@[simp] theorem State.finish_quiets (s : State) (f : Nat → LaneEnd) : (s.finish f).quiets = s.quiets := rfl
@[simp] theorem State.finish_shared (s : State) (f : Nat → LaneEnd) : (s.finish f).shared = s.shared := rfl
@[simp] theorem State.finish_trees (s : State) (f : Nat → LaneEnd) : (s.finish f).trees = s.trees := rfl
@[simp] theorem State.finish_mem (s : State) (f : Nat → LaneEnd) : (s.finish f).mem = s.mem := rfl
@[simp] theorem State.finish_poison (s : State) (f : Nat → LaneEnd) : (s.finish f).poison = s.poison := rfl
@[simp] theorem State.finish_hist (s : State) (f : Nat → LaneEnd) : (s.finish f).hist = s.hist := rfl
@[simp] theorem State.finish_tlb (s : State) (f : Nat → LaneEnd) : (s.finish f).tlb = s.tlb := rfl
@[simp] theorem State.finish_lines (s : State) (f : Nat → LaneEnd) : (s.finish f).lines = s.lines := rfl
@[simp] theorem State.finish_armed (s : State) (f : Nat → LaneEnd) : (s.finish f).armed = s.armed := rfl
@[simp] theorem State.finish_dev (s : State) (f : Nat → LaneEnd) : (s.finish f).dev = s.dev := rfl

@[simp] theorem State.advance_tick (s : State)  : (s.advance).tick = s.tick := rfl
@[simp] theorem State.advance_nextId (s : State)  : (s.advance).nextId = s.nextId := rfl
@[simp] theorem State.advance_inputs (s : State)  : (s.advance).inputs = s.inputs := rfl
@[simp] theorem State.advance_issue (s : State)  : (s.advance).issue = s.issue := rfl
@[simp] theorem State.advance_wgs (s : State)  : (s.advance).wgs = s.wgs := rfl
@[simp] theorem State.advance_cores (s : State)  : (s.advance).cores = s.cores := rfl
@[simp] theorem State.advance_launches (s : State)  : (s.advance).launches = s.launches := rfl
@[simp] theorem State.advance_flights (s : State)  : (s.advance).flights = s.flights := rfl
@[simp] theorem State.advance_pins (s : State)  : (s.advance).pins = s.pins := rfl
@[simp] theorem State.advance_keys (s : State)  : (s.advance).keys = s.keys := rfl
@[simp] theorem State.advance_seqNext (s : State)  : (s.advance).seqNext = s.seqNext := rfl
@[simp] theorem State.advance_quiets (s : State)  : (s.advance).quiets = s.quiets := rfl
@[simp] theorem State.advance_shared (s : State)  : (s.advance).shared = s.shared := rfl
@[simp] theorem State.advance_trees (s : State)  : (s.advance).trees = s.trees := rfl
@[simp] theorem State.advance_mem (s : State)  : (s.advance).mem = s.mem := rfl
@[simp] theorem State.advance_poison (s : State)  : (s.advance).poison = s.poison := rfl
@[simp] theorem State.advance_hist (s : State)  : (s.advance).hist = s.hist := rfl
@[simp] theorem State.advance_tlb (s : State)  : (s.advance).tlb = s.tlb := rfl
@[simp] theorem State.advance_lines (s : State)  : (s.advance).lines = s.lines := rfl
@[simp] theorem State.advance_armed (s : State)  : (s.advance).armed = s.armed := rfl
@[simp] theorem State.advance_dev (s : State)  : (s.advance).dev = s.dev := rfl

@[simp] theorem State.trapAll_tick (s : State) (r : TrapRec) : (s.trapAll r).tick = s.tick := rfl
@[simp] theorem State.trapAll_nextId (s : State) (r : TrapRec) : (s.trapAll r).nextId = s.nextId := rfl
@[simp] theorem State.trapAll_inputs (s : State) (r : TrapRec) : (s.trapAll r).inputs = s.inputs := rfl
@[simp] theorem State.trapAll_issue (s : State) (r : TrapRec) : (s.trapAll r).issue = s.issue := rfl
@[simp] theorem State.trapAll_wgs (s : State) (r : TrapRec) : (s.trapAll r).wgs = s.wgs := rfl
@[simp] theorem State.trapAll_cores (s : State) (r : TrapRec) : (s.trapAll r).cores = s.cores := rfl
@[simp] theorem State.trapAll_launches (s : State) (r : TrapRec) : (s.trapAll r).launches = s.launches := rfl
@[simp] theorem State.trapAll_flights (s : State) (r : TrapRec) : (s.trapAll r).flights = s.flights := rfl
@[simp] theorem State.trapAll_pins (s : State) (r : TrapRec) : (s.trapAll r).pins = s.pins := rfl
@[simp] theorem State.trapAll_keys (s : State) (r : TrapRec) : (s.trapAll r).keys = s.keys := rfl
@[simp] theorem State.trapAll_seqNext (s : State) (r : TrapRec) : (s.trapAll r).seqNext = s.seqNext := rfl
@[simp] theorem State.trapAll_quiets (s : State) (r : TrapRec) : (s.trapAll r).quiets = s.quiets := rfl
@[simp] theorem State.trapAll_shared (s : State) (r : TrapRec) : (s.trapAll r).shared = s.shared := rfl
@[simp] theorem State.trapAll_trees (s : State) (r : TrapRec) : (s.trapAll r).trees = s.trees := rfl
@[simp] theorem State.trapAll_mem (s : State) (r : TrapRec) : (s.trapAll r).mem = s.mem := rfl
@[simp] theorem State.trapAll_poison (s : State) (r : TrapRec) : (s.trapAll r).poison = s.poison := rfl
@[simp] theorem State.trapAll_hist (s : State) (r : TrapRec) : (s.trapAll r).hist = s.hist := rfl
@[simp] theorem State.trapAll_tlb (s : State) (r : TrapRec) : (s.trapAll r).tlb = s.tlb := rfl
@[simp] theorem State.trapAll_lines (s : State) (r : TrapRec) : (s.trapAll r).lines = s.lines := rfl
@[simp] theorem State.trapAll_armed (s : State) (r : TrapRec) : (s.trapAll r).armed = s.armed := rfl
@[simp] theorem State.trapAll_dev (s : State) (r : TrapRec) : (s.trapAll r).dev = s.dev := rfl

@[simp] theorem State.trapE_tick (s : State) (r : TrapRec) : (s.trapE r).tick = s.tick := rfl
@[simp] theorem State.trapE_nextId (s : State) (r : TrapRec) : (s.trapE r).nextId = s.nextId := rfl
@[simp] theorem State.trapE_inputs (s : State) (r : TrapRec) : (s.trapE r).inputs = s.inputs := rfl
@[simp] theorem State.trapE_issue (s : State) (r : TrapRec) : (s.trapE r).issue = s.issue := rfl
@[simp] theorem State.trapE_wgs (s : State) (r : TrapRec) : (s.trapE r).wgs = s.wgs := rfl
@[simp] theorem State.trapE_cores (s : State) (r : TrapRec) : (s.trapE r).cores = s.cores := rfl
@[simp] theorem State.trapE_launches (s : State) (r : TrapRec) : (s.trapE r).launches = s.launches := rfl
@[simp] theorem State.trapE_flights (s : State) (r : TrapRec) : (s.trapE r).flights = s.flights := rfl
@[simp] theorem State.trapE_pins (s : State) (r : TrapRec) : (s.trapE r).pins = s.pins := rfl
@[simp] theorem State.trapE_keys (s : State) (r : TrapRec) : (s.trapE r).keys = s.keys := rfl
@[simp] theorem State.trapE_seqNext (s : State) (r : TrapRec) : (s.trapE r).seqNext = s.seqNext := rfl
@[simp] theorem State.trapE_quiets (s : State) (r : TrapRec) : (s.trapE r).quiets = s.quiets := rfl
@[simp] theorem State.trapE_shared (s : State) (r : TrapRec) : (s.trapE r).shared = s.shared := rfl
@[simp] theorem State.trapE_trees (s : State) (r : TrapRec) : (s.trapE r).trees = s.trees := rfl
@[simp] theorem State.trapE_mem (s : State) (r : TrapRec) : (s.trapE r).mem = s.mem := rfl
@[simp] theorem State.trapE_poison (s : State) (r : TrapRec) : (s.trapE r).poison = s.poison := rfl
@[simp] theorem State.trapE_hist (s : State) (r : TrapRec) : (s.trapE r).hist = s.hist := rfl
@[simp] theorem State.trapE_tlb (s : State) (r : TrapRec) : (s.trapE r).tlb = s.tlb := rfl
@[simp] theorem State.trapE_lines (s : State) (r : TrapRec) : (s.trapE r).lines = s.lines := rfl
@[simp] theorem State.trapE_armed (s : State) (r : TrapRec) : (s.trapE r).armed = s.armed := rfl
@[simp] theorem State.trapE_dev (s : State) (r : TrapRec) : (s.trapE r).dev = s.dev := rfl

@[simp] theorem State.markOut_tick (s : State)  : (s.markOut).tick = s.tick := rfl
@[simp] theorem State.markOut_nextId (s : State)  : (s.markOut).nextId = s.nextId := rfl
@[simp] theorem State.markOut_inputs (s : State)  : (s.markOut).inputs = s.inputs := rfl
@[simp] theorem State.markOut_issue (s : State)  : (s.markOut).issue = s.issue := rfl
@[simp] theorem State.markOut_wgs (s : State)  : (s.markOut).wgs = s.wgs := rfl
@[simp] theorem State.markOut_cores (s : State)  : (s.markOut).cores = s.cores := rfl
@[simp] theorem State.markOut_launches (s : State)  : (s.markOut).launches = s.launches := rfl
@[simp] theorem State.markOut_flights (s : State)  : (s.markOut).flights = s.flights := rfl
@[simp] theorem State.markOut_pins (s : State)  : (s.markOut).pins = s.pins := rfl
@[simp] theorem State.markOut_keys (s : State)  : (s.markOut).keys = s.keys := rfl
@[simp] theorem State.markOut_seqNext (s : State)  : (s.markOut).seqNext = s.seqNext := rfl
@[simp] theorem State.markOut_quiets (s : State)  : (s.markOut).quiets = s.quiets := rfl
@[simp] theorem State.markOut_shared (s : State)  : (s.markOut).shared = s.shared := rfl
@[simp] theorem State.markOut_trees (s : State)  : (s.markOut).trees = s.trees := rfl
@[simp] theorem State.markOut_mem (s : State)  : (s.markOut).mem = s.mem := rfl
@[simp] theorem State.markOut_poison (s : State)  : (s.markOut).poison = s.poison := rfl
@[simp] theorem State.markOut_hist (s : State)  : (s.markOut).hist = s.hist := rfl
@[simp] theorem State.markOut_tlb (s : State)  : (s.markOut).tlb = s.tlb := rfl
@[simp] theorem State.markOut_lines (s : State)  : (s.markOut).lines = s.lines := rfl
@[simp] theorem State.markOut_armed (s : State)  : (s.markOut).armed = s.armed := rfl
@[simp] theorem State.markOut_dev (s : State)  : (s.markOut).dev = s.dev := rfl

@[simp] theorem State.holdLanes_tick (s : State) (p : Nat → Bool) (wt : Wait) : (s.holdLanes p wt).tick = s.tick := rfl
@[simp] theorem State.holdLanes_nextId (s : State) (p : Nat → Bool) (wt : Wait) : (s.holdLanes p wt).nextId = s.nextId := rfl
@[simp] theorem State.holdLanes_inputs (s : State) (p : Nat → Bool) (wt : Wait) : (s.holdLanes p wt).inputs = s.inputs := rfl
@[simp] theorem State.holdLanes_issue (s : State) (p : Nat → Bool) (wt : Wait) : (s.holdLanes p wt).issue = s.issue := rfl
@[simp] theorem State.holdLanes_wgs (s : State) (p : Nat → Bool) (wt : Wait) : (s.holdLanes p wt).wgs = s.wgs := rfl
@[simp] theorem State.holdLanes_cores (s : State) (p : Nat → Bool) (wt : Wait) : (s.holdLanes p wt).cores = s.cores := rfl
@[simp] theorem State.holdLanes_launches (s : State) (p : Nat → Bool) (wt : Wait) : (s.holdLanes p wt).launches = s.launches := rfl
@[simp] theorem State.holdLanes_flights (s : State) (p : Nat → Bool) (wt : Wait) : (s.holdLanes p wt).flights = s.flights := rfl
@[simp] theorem State.holdLanes_pins (s : State) (p : Nat → Bool) (wt : Wait) : (s.holdLanes p wt).pins = s.pins := rfl
@[simp] theorem State.holdLanes_keys (s : State) (p : Nat → Bool) (wt : Wait) : (s.holdLanes p wt).keys = s.keys := rfl
@[simp] theorem State.holdLanes_seqNext (s : State) (p : Nat → Bool) (wt : Wait) : (s.holdLanes p wt).seqNext = s.seqNext := rfl
@[simp] theorem State.holdLanes_quiets (s : State) (p : Nat → Bool) (wt : Wait) : (s.holdLanes p wt).quiets = s.quiets := rfl
@[simp] theorem State.holdLanes_shared (s : State) (p : Nat → Bool) (wt : Wait) : (s.holdLanes p wt).shared = s.shared := rfl
@[simp] theorem State.holdLanes_trees (s : State) (p : Nat → Bool) (wt : Wait) : (s.holdLanes p wt).trees = s.trees := rfl
@[simp] theorem State.holdLanes_mem (s : State) (p : Nat → Bool) (wt : Wait) : (s.holdLanes p wt).mem = s.mem := rfl
@[simp] theorem State.holdLanes_poison (s : State) (p : Nat → Bool) (wt : Wait) : (s.holdLanes p wt).poison = s.poison := rfl
@[simp] theorem State.holdLanes_hist (s : State) (p : Nat → Bool) (wt : Wait) : (s.holdLanes p wt).hist = s.hist := rfl
@[simp] theorem State.holdLanes_tlb (s : State) (p : Nat → Bool) (wt : Wait) : (s.holdLanes p wt).tlb = s.tlb := rfl
@[simp] theorem State.holdLanes_lines (s : State) (p : Nat → Bool) (wt : Wait) : (s.holdLanes p wt).lines = s.lines := rfl
@[simp] theorem State.holdLanes_armed (s : State) (p : Nat → Bool) (wt : Wait) : (s.holdLanes p wt).armed = s.armed := rfl
@[simp] theorem State.holdLanes_dev (s : State) (p : Nat → Bool) (wt : Wait) : (s.holdLanes p wt).dev = s.dev := rfl

@[simp] theorem State.holdRetry_tick (s : State) (rs : List Nat) : (s.holdRetry rs).tick = s.tick := rfl
@[simp] theorem State.holdRetry_inputs (s : State) (rs : List Nat) : (s.holdRetry rs).inputs = s.inputs := rfl
@[simp] theorem State.holdRetry_issue (s : State) (rs : List Nat) : (s.holdRetry rs).issue = s.issue := rfl
@[simp] theorem State.holdRetry_wgs (s : State) (rs : List Nat) : (s.holdRetry rs).wgs = s.wgs := rfl
@[simp] theorem State.holdRetry_cores (s : State) (rs : List Nat) : (s.holdRetry rs).cores = s.cores := rfl
@[simp] theorem State.holdRetry_launches (s : State) (rs : List Nat) : (s.holdRetry rs).launches = s.launches := rfl
@[simp] theorem State.holdRetry_flights (s : State) (rs : List Nat) : (s.holdRetry rs).flights = s.flights := rfl
@[simp] theorem State.holdRetry_pins (s : State) (rs : List Nat) : (s.holdRetry rs).pins = s.pins := rfl
@[simp] theorem State.holdRetry_keys (s : State) (rs : List Nat) : (s.holdRetry rs).keys = s.keys := rfl
@[simp] theorem State.holdRetry_seqNext (s : State) (rs : List Nat) : (s.holdRetry rs).seqNext = s.seqNext := rfl
@[simp] theorem State.holdRetry_quiets (s : State) (rs : List Nat) : (s.holdRetry rs).quiets = s.quiets := rfl
@[simp] theorem State.holdRetry_shared (s : State) (rs : List Nat) : (s.holdRetry rs).shared = s.shared := rfl
@[simp] theorem State.holdRetry_trees (s : State) (rs : List Nat) : (s.holdRetry rs).trees = s.trees := rfl
@[simp] theorem State.holdRetry_mem (s : State) (rs : List Nat) : (s.holdRetry rs).mem = s.mem := rfl
@[simp] theorem State.holdRetry_poison (s : State) (rs : List Nat) : (s.holdRetry rs).poison = s.poison := rfl
@[simp] theorem State.holdRetry_hist (s : State) (rs : List Nat) : (s.holdRetry rs).hist = s.hist := rfl
@[simp] theorem State.holdRetry_tlb (s : State) (rs : List Nat) : (s.holdRetry rs).tlb = s.tlb := rfl
@[simp] theorem State.holdRetry_lines (s : State) (rs : List Nat) : (s.holdRetry rs).lines = s.lines := rfl
@[simp] theorem State.holdRetry_armed (s : State) (rs : List Nat) : (s.holdRetry rs).armed = s.armed := rfl
@[simp] theorem State.holdRetry_dev (s : State) (rs : List Nat) : (s.holdRetry rs).dev = s.dev := rfl

@[simp] theorem State.setWg_tick (s : State) (g : Nat) (x : Workgroup) : (s.setWg g x).tick = s.tick := rfl
@[simp] theorem State.setWg_nextId (s : State) (g : Nat) (x : Workgroup) : (s.setWg g x).nextId = s.nextId := rfl
@[simp] theorem State.setWg_inputs (s : State) (g : Nat) (x : Workgroup) : (s.setWg g x).inputs = s.inputs := rfl
@[simp] theorem State.setWg_issue (s : State) (g : Nat) (x : Workgroup) : (s.setWg g x).issue = s.issue := rfl
@[simp] theorem State.setWg_warps (s : State) (g : Nat) (x : Workgroup) : (s.setWg g x).warps = s.warps := rfl
@[simp] theorem State.setWg_cores (s : State) (g : Nat) (x : Workgroup) : (s.setWg g x).cores = s.cores := rfl
@[simp] theorem State.setWg_launches (s : State) (g : Nat) (x : Workgroup) : (s.setWg g x).launches = s.launches := rfl
@[simp] theorem State.setWg_flights (s : State) (g : Nat) (x : Workgroup) : (s.setWg g x).flights = s.flights := rfl
@[simp] theorem State.setWg_pins (s : State) (g : Nat) (x : Workgroup) : (s.setWg g x).pins = s.pins := rfl
@[simp] theorem State.setWg_keys (s : State) (g : Nat) (x : Workgroup) : (s.setWg g x).keys = s.keys := rfl
@[simp] theorem State.setWg_seqNext (s : State) (g : Nat) (x : Workgroup) : (s.setWg g x).seqNext = s.seqNext := rfl
@[simp] theorem State.setWg_quiets (s : State) (g : Nat) (x : Workgroup) : (s.setWg g x).quiets = s.quiets := rfl
@[simp] theorem State.setWg_shared (s : State) (g : Nat) (x : Workgroup) : (s.setWg g x).shared = s.shared := rfl
@[simp] theorem State.setWg_trees (s : State) (g : Nat) (x : Workgroup) : (s.setWg g x).trees = s.trees := rfl
@[simp] theorem State.setWg_mem (s : State) (g : Nat) (x : Workgroup) : (s.setWg g x).mem = s.mem := rfl
@[simp] theorem State.setWg_poison (s : State) (g : Nat) (x : Workgroup) : (s.setWg g x).poison = s.poison := rfl
@[simp] theorem State.setWg_hist (s : State) (g : Nat) (x : Workgroup) : (s.setWg g x).hist = s.hist := rfl
@[simp] theorem State.setWg_tlb (s : State) (g : Nat) (x : Workgroup) : (s.setWg g x).tlb = s.tlb := rfl
@[simp] theorem State.setWg_lines (s : State) (g : Nat) (x : Workgroup) : (s.setWg g x).lines = s.lines := rfl
@[simp] theorem State.setWg_armed (s : State) (g : Nat) (x : Workgroup) : (s.setWg g x).armed = s.armed := rfl
@[simp] theorem State.setWg_dev (s : State) (g : Nat) (x : Workgroup) : (s.setWg g x).dev = s.dev := rfl

@[simp] theorem State.modWg_tick (s : State) (g : Nat) (f : Workgroup → Workgroup) : (s.modWg g f).tick = s.tick := rfl
@[simp] theorem State.modWg_nextId (s : State) (g : Nat) (f : Workgroup → Workgroup) : (s.modWg g f).nextId = s.nextId := rfl
@[simp] theorem State.modWg_inputs (s : State) (g : Nat) (f : Workgroup → Workgroup) : (s.modWg g f).inputs = s.inputs := rfl
@[simp] theorem State.modWg_issue (s : State) (g : Nat) (f : Workgroup → Workgroup) : (s.modWg g f).issue = s.issue := rfl
@[simp] theorem State.modWg_warps (s : State) (g : Nat) (f : Workgroup → Workgroup) : (s.modWg g f).warps = s.warps := rfl
@[simp] theorem State.modWg_cores (s : State) (g : Nat) (f : Workgroup → Workgroup) : (s.modWg g f).cores = s.cores := rfl
@[simp] theorem State.modWg_launches (s : State) (g : Nat) (f : Workgroup → Workgroup) : (s.modWg g f).launches = s.launches := rfl
@[simp] theorem State.modWg_flights (s : State) (g : Nat) (f : Workgroup → Workgroup) : (s.modWg g f).flights = s.flights := rfl
@[simp] theorem State.modWg_pins (s : State) (g : Nat) (f : Workgroup → Workgroup) : (s.modWg g f).pins = s.pins := rfl
@[simp] theorem State.modWg_keys (s : State) (g : Nat) (f : Workgroup → Workgroup) : (s.modWg g f).keys = s.keys := rfl
@[simp] theorem State.modWg_seqNext (s : State) (g : Nat) (f : Workgroup → Workgroup) : (s.modWg g f).seqNext = s.seqNext := rfl
@[simp] theorem State.modWg_quiets (s : State) (g : Nat) (f : Workgroup → Workgroup) : (s.modWg g f).quiets = s.quiets := rfl
@[simp] theorem State.modWg_shared (s : State) (g : Nat) (f : Workgroup → Workgroup) : (s.modWg g f).shared = s.shared := rfl
@[simp] theorem State.modWg_trees (s : State) (g : Nat) (f : Workgroup → Workgroup) : (s.modWg g f).trees = s.trees := rfl
@[simp] theorem State.modWg_mem (s : State) (g : Nat) (f : Workgroup → Workgroup) : (s.modWg g f).mem = s.mem := rfl
@[simp] theorem State.modWg_poison (s : State) (g : Nat) (f : Workgroup → Workgroup) : (s.modWg g f).poison = s.poison := rfl
@[simp] theorem State.modWg_hist (s : State) (g : Nat) (f : Workgroup → Workgroup) : (s.modWg g f).hist = s.hist := rfl
@[simp] theorem State.modWg_tlb (s : State) (g : Nat) (f : Workgroup → Workgroup) : (s.modWg g f).tlb = s.tlb := rfl
@[simp] theorem State.modWg_lines (s : State) (g : Nat) (f : Workgroup → Workgroup) : (s.modWg g f).lines = s.lines := rfl
@[simp] theorem State.modWg_armed (s : State) (g : Nat) (f : Workgroup → Workgroup) : (s.modWg g f).armed = s.armed := rfl
@[simp] theorem State.modWg_dev (s : State) (g : Nat) (f : Workgroup → Workgroup) : (s.modWg g f).dev = s.dev := rfl

@[simp] theorem State.setCore_tick (s : State) (c : Nat) (x : Core) : (s.setCore c x).tick = s.tick := rfl
@[simp] theorem State.setCore_nextId (s : State) (c : Nat) (x : Core) : (s.setCore c x).nextId = s.nextId := rfl
@[simp] theorem State.setCore_inputs (s : State) (c : Nat) (x : Core) : (s.setCore c x).inputs = s.inputs := rfl
@[simp] theorem State.setCore_issue (s : State) (c : Nat) (x : Core) : (s.setCore c x).issue = s.issue := rfl
@[simp] theorem State.setCore_warps (s : State) (c : Nat) (x : Core) : (s.setCore c x).warps = s.warps := rfl
@[simp] theorem State.setCore_wgs (s : State) (c : Nat) (x : Core) : (s.setCore c x).wgs = s.wgs := rfl
@[simp] theorem State.setCore_launches (s : State) (c : Nat) (x : Core) : (s.setCore c x).launches = s.launches := rfl
@[simp] theorem State.setCore_flights (s : State) (c : Nat) (x : Core) : (s.setCore c x).flights = s.flights := rfl
@[simp] theorem State.setCore_pins (s : State) (c : Nat) (x : Core) : (s.setCore c x).pins = s.pins := rfl
@[simp] theorem State.setCore_keys (s : State) (c : Nat) (x : Core) : (s.setCore c x).keys = s.keys := rfl
@[simp] theorem State.setCore_seqNext (s : State) (c : Nat) (x : Core) : (s.setCore c x).seqNext = s.seqNext := rfl
@[simp] theorem State.setCore_quiets (s : State) (c : Nat) (x : Core) : (s.setCore c x).quiets = s.quiets := rfl
@[simp] theorem State.setCore_shared (s : State) (c : Nat) (x : Core) : (s.setCore c x).shared = s.shared := rfl
@[simp] theorem State.setCore_trees (s : State) (c : Nat) (x : Core) : (s.setCore c x).trees = s.trees := rfl
@[simp] theorem State.setCore_mem (s : State) (c : Nat) (x : Core) : (s.setCore c x).mem = s.mem := rfl
@[simp] theorem State.setCore_poison (s : State) (c : Nat) (x : Core) : (s.setCore c x).poison = s.poison := rfl
@[simp] theorem State.setCore_hist (s : State) (c : Nat) (x : Core) : (s.setCore c x).hist = s.hist := rfl
@[simp] theorem State.setCore_tlb (s : State) (c : Nat) (x : Core) : (s.setCore c x).tlb = s.tlb := rfl
@[simp] theorem State.setCore_lines (s : State) (c : Nat) (x : Core) : (s.setCore c x).lines = s.lines := rfl
@[simp] theorem State.setCore_armed (s : State) (c : Nat) (x : Core) : (s.setCore c x).armed = s.armed := rfl
@[simp] theorem State.setCore_dev (s : State) (c : Nat) (x : Core) : (s.setCore c x).dev = s.dev := rfl

@[simp] theorem State.modCore_tick (s : State) (c : Nat) (f : Core → Core) : (s.modCore c f).tick = s.tick := rfl
@[simp] theorem State.modCore_nextId (s : State) (c : Nat) (f : Core → Core) : (s.modCore c f).nextId = s.nextId := rfl
@[simp] theorem State.modCore_inputs (s : State) (c : Nat) (f : Core → Core) : (s.modCore c f).inputs = s.inputs := rfl
@[simp] theorem State.modCore_issue (s : State) (c : Nat) (f : Core → Core) : (s.modCore c f).issue = s.issue := rfl
@[simp] theorem State.modCore_warps (s : State) (c : Nat) (f : Core → Core) : (s.modCore c f).warps = s.warps := rfl
@[simp] theorem State.modCore_wgs (s : State) (c : Nat) (f : Core → Core) : (s.modCore c f).wgs = s.wgs := rfl
@[simp] theorem State.modCore_launches (s : State) (c : Nat) (f : Core → Core) : (s.modCore c f).launches = s.launches := rfl
@[simp] theorem State.modCore_flights (s : State) (c : Nat) (f : Core → Core) : (s.modCore c f).flights = s.flights := rfl
@[simp] theorem State.modCore_pins (s : State) (c : Nat) (f : Core → Core) : (s.modCore c f).pins = s.pins := rfl
@[simp] theorem State.modCore_keys (s : State) (c : Nat) (f : Core → Core) : (s.modCore c f).keys = s.keys := rfl
@[simp] theorem State.modCore_seqNext (s : State) (c : Nat) (f : Core → Core) : (s.modCore c f).seqNext = s.seqNext := rfl
@[simp] theorem State.modCore_quiets (s : State) (c : Nat) (f : Core → Core) : (s.modCore c f).quiets = s.quiets := rfl
@[simp] theorem State.modCore_shared (s : State) (c : Nat) (f : Core → Core) : (s.modCore c f).shared = s.shared := rfl
@[simp] theorem State.modCore_trees (s : State) (c : Nat) (f : Core → Core) : (s.modCore c f).trees = s.trees := rfl
@[simp] theorem State.modCore_mem (s : State) (c : Nat) (f : Core → Core) : (s.modCore c f).mem = s.mem := rfl
@[simp] theorem State.modCore_poison (s : State) (c : Nat) (f : Core → Core) : (s.modCore c f).poison = s.poison := rfl
@[simp] theorem State.modCore_hist (s : State) (c : Nat) (f : Core → Core) : (s.modCore c f).hist = s.hist := rfl
@[simp] theorem State.modCore_tlb (s : State) (c : Nat) (f : Core → Core) : (s.modCore c f).tlb = s.tlb := rfl
@[simp] theorem State.modCore_lines (s : State) (c : Nat) (f : Core → Core) : (s.modCore c f).lines = s.lines := rfl
@[simp] theorem State.modCore_armed (s : State) (c : Nat) (f : Core → Core) : (s.modCore c f).armed = s.armed := rfl
@[simp] theorem State.modCore_dev (s : State) (c : Nat) (f : Core → Core) : (s.modCore c f).dev = s.dev := rfl

@[simp] theorem State.setLaunch_tick (s : State) (i : Nat) (x : Launch) : (s.setLaunch i x).tick = s.tick := rfl
@[simp] theorem State.setLaunch_nextId (s : State) (i : Nat) (x : Launch) : (s.setLaunch i x).nextId = s.nextId := rfl
@[simp] theorem State.setLaunch_inputs (s : State) (i : Nat) (x : Launch) : (s.setLaunch i x).inputs = s.inputs := rfl
@[simp] theorem State.setLaunch_issue (s : State) (i : Nat) (x : Launch) : (s.setLaunch i x).issue = s.issue := rfl
@[simp] theorem State.setLaunch_warps (s : State) (i : Nat) (x : Launch) : (s.setLaunch i x).warps = s.warps := rfl
@[simp] theorem State.setLaunch_wgs (s : State) (i : Nat) (x : Launch) : (s.setLaunch i x).wgs = s.wgs := rfl
@[simp] theorem State.setLaunch_cores (s : State) (i : Nat) (x : Launch) : (s.setLaunch i x).cores = s.cores := rfl
@[simp] theorem State.setLaunch_flights (s : State) (i : Nat) (x : Launch) : (s.setLaunch i x).flights = s.flights := rfl
@[simp] theorem State.setLaunch_pins (s : State) (i : Nat) (x : Launch) : (s.setLaunch i x).pins = s.pins := rfl
@[simp] theorem State.setLaunch_keys (s : State) (i : Nat) (x : Launch) : (s.setLaunch i x).keys = s.keys := rfl
@[simp] theorem State.setLaunch_seqNext (s : State) (i : Nat) (x : Launch) : (s.setLaunch i x).seqNext = s.seqNext := rfl
@[simp] theorem State.setLaunch_quiets (s : State) (i : Nat) (x : Launch) : (s.setLaunch i x).quiets = s.quiets := rfl
@[simp] theorem State.setLaunch_shared (s : State) (i : Nat) (x : Launch) : (s.setLaunch i x).shared = s.shared := rfl
@[simp] theorem State.setLaunch_trees (s : State) (i : Nat) (x : Launch) : (s.setLaunch i x).trees = s.trees := rfl
@[simp] theorem State.setLaunch_mem (s : State) (i : Nat) (x : Launch) : (s.setLaunch i x).mem = s.mem := rfl
@[simp] theorem State.setLaunch_poison (s : State) (i : Nat) (x : Launch) : (s.setLaunch i x).poison = s.poison := rfl
@[simp] theorem State.setLaunch_hist (s : State) (i : Nat) (x : Launch) : (s.setLaunch i x).hist = s.hist := rfl
@[simp] theorem State.setLaunch_tlb (s : State) (i : Nat) (x : Launch) : (s.setLaunch i x).tlb = s.tlb := rfl
@[simp] theorem State.setLaunch_lines (s : State) (i : Nat) (x : Launch) : (s.setLaunch i x).lines = s.lines := rfl
@[simp] theorem State.setLaunch_armed (s : State) (i : Nat) (x : Launch) : (s.setLaunch i x).armed = s.armed := rfl
@[simp] theorem State.setLaunch_dev (s : State) (i : Nat) (x : Launch) : (s.setLaunch i x).dev = s.dev := rfl

@[simp] theorem State.modLaunch_tick (s : State) (i : Nat) (f : Launch → Launch) : (s.modLaunch i f).tick = s.tick := rfl
@[simp] theorem State.modLaunch_nextId (s : State) (i : Nat) (f : Launch → Launch) : (s.modLaunch i f).nextId = s.nextId := rfl
@[simp] theorem State.modLaunch_inputs (s : State) (i : Nat) (f : Launch → Launch) : (s.modLaunch i f).inputs = s.inputs := rfl
@[simp] theorem State.modLaunch_issue (s : State) (i : Nat) (f : Launch → Launch) : (s.modLaunch i f).issue = s.issue := rfl
@[simp] theorem State.modLaunch_warps (s : State) (i : Nat) (f : Launch → Launch) : (s.modLaunch i f).warps = s.warps := rfl
@[simp] theorem State.modLaunch_wgs (s : State) (i : Nat) (f : Launch → Launch) : (s.modLaunch i f).wgs = s.wgs := rfl
@[simp] theorem State.modLaunch_cores (s : State) (i : Nat) (f : Launch → Launch) : (s.modLaunch i f).cores = s.cores := rfl
@[simp] theorem State.modLaunch_flights (s : State) (i : Nat) (f : Launch → Launch) : (s.modLaunch i f).flights = s.flights := rfl
@[simp] theorem State.modLaunch_pins (s : State) (i : Nat) (f : Launch → Launch) : (s.modLaunch i f).pins = s.pins := rfl
@[simp] theorem State.modLaunch_keys (s : State) (i : Nat) (f : Launch → Launch) : (s.modLaunch i f).keys = s.keys := rfl
@[simp] theorem State.modLaunch_seqNext (s : State) (i : Nat) (f : Launch → Launch) : (s.modLaunch i f).seqNext = s.seqNext := rfl
@[simp] theorem State.modLaunch_quiets (s : State) (i : Nat) (f : Launch → Launch) : (s.modLaunch i f).quiets = s.quiets := rfl
@[simp] theorem State.modLaunch_shared (s : State) (i : Nat) (f : Launch → Launch) : (s.modLaunch i f).shared = s.shared := rfl
@[simp] theorem State.modLaunch_trees (s : State) (i : Nat) (f : Launch → Launch) : (s.modLaunch i f).trees = s.trees := rfl
@[simp] theorem State.modLaunch_mem (s : State) (i : Nat) (f : Launch → Launch) : (s.modLaunch i f).mem = s.mem := rfl
@[simp] theorem State.modLaunch_poison (s : State) (i : Nat) (f : Launch → Launch) : (s.modLaunch i f).poison = s.poison := rfl
@[simp] theorem State.modLaunch_hist (s : State) (i : Nat) (f : Launch → Launch) : (s.modLaunch i f).hist = s.hist := rfl
@[simp] theorem State.modLaunch_tlb (s : State) (i : Nat) (f : Launch → Launch) : (s.modLaunch i f).tlb = s.tlb := rfl
@[simp] theorem State.modLaunch_lines (s : State) (i : Nat) (f : Launch → Launch) : (s.modLaunch i f).lines = s.lines := rfl
@[simp] theorem State.modLaunch_armed (s : State) (i : Nat) (f : Launch → Launch) : (s.modLaunch i f).armed = s.armed := rfl
@[simp] theorem State.modLaunch_dev (s : State) (i : Nat) (f : Launch → Launch) : (s.modLaunch i f).dev = s.dev := rfl

@[simp] theorem State.addFlight_tick (s : State) (f : Flight) : (s.addFlight f).tick = s.tick := rfl
@[simp] theorem State.addFlight_inputs (s : State) (f : Flight) : (s.addFlight f).inputs = s.inputs := rfl
@[simp] theorem State.addFlight_issue (s : State) (f : Flight) : (s.addFlight f).issue = s.issue := rfl
@[simp] theorem State.addFlight_warps (s : State) (f : Flight) : (s.addFlight f).warps = s.warps := rfl
@[simp] theorem State.addFlight_wgs (s : State) (f : Flight) : (s.addFlight f).wgs = s.wgs := rfl
@[simp] theorem State.addFlight_cores (s : State) (f : Flight) : (s.addFlight f).cores = s.cores := rfl
@[simp] theorem State.addFlight_launches (s : State) (f : Flight) : (s.addFlight f).launches = s.launches := rfl
@[simp] theorem State.addFlight_pins (s : State) (f : Flight) : (s.addFlight f).pins = s.pins := rfl
@[simp] theorem State.addFlight_keys (s : State) (f : Flight) : (s.addFlight f).keys = s.keys := rfl
@[simp] theorem State.addFlight_seqNext (s : State) (f : Flight) : (s.addFlight f).seqNext = s.seqNext := rfl
@[simp] theorem State.addFlight_quiets (s : State) (f : Flight) : (s.addFlight f).quiets = s.quiets := rfl
@[simp] theorem State.addFlight_shared (s : State) (f : Flight) : (s.addFlight f).shared = s.shared := rfl
@[simp] theorem State.addFlight_trees (s : State) (f : Flight) : (s.addFlight f).trees = s.trees := rfl
@[simp] theorem State.addFlight_mem (s : State) (f : Flight) : (s.addFlight f).mem = s.mem := rfl
@[simp] theorem State.addFlight_poison (s : State) (f : Flight) : (s.addFlight f).poison = s.poison := rfl
@[simp] theorem State.addFlight_hist (s : State) (f : Flight) : (s.addFlight f).hist = s.hist := rfl
@[simp] theorem State.addFlight_tlb (s : State) (f : Flight) : (s.addFlight f).tlb = s.tlb := rfl
@[simp] theorem State.addFlight_lines (s : State) (f : Flight) : (s.addFlight f).lines = s.lines := rfl
@[simp] theorem State.addFlight_armed (s : State) (f : Flight) : (s.addFlight f).armed = s.armed := rfl
@[simp] theorem State.addFlight_dev (s : State) (f : Flight) : (s.addFlight f).dev = s.dev := rfl

@[simp] theorem State.dropFlight_tick (s : State) (f : Nat) : (s.dropFlight f).tick = s.tick := rfl
@[simp] theorem State.dropFlight_nextId (s : State) (f : Nat) : (s.dropFlight f).nextId = s.nextId := rfl
@[simp] theorem State.dropFlight_inputs (s : State) (f : Nat) : (s.dropFlight f).inputs = s.inputs := rfl
@[simp] theorem State.dropFlight_issue (s : State) (f : Nat) : (s.dropFlight f).issue = s.issue := rfl
@[simp] theorem State.dropFlight_warps (s : State) (f : Nat) : (s.dropFlight f).warps = s.warps := rfl
@[simp] theorem State.dropFlight_wgs (s : State) (f : Nat) : (s.dropFlight f).wgs = s.wgs := rfl
@[simp] theorem State.dropFlight_cores (s : State) (f : Nat) : (s.dropFlight f).cores = s.cores := rfl
@[simp] theorem State.dropFlight_launches (s : State) (f : Nat) : (s.dropFlight f).launches = s.launches := rfl
@[simp] theorem State.dropFlight_pins (s : State) (f : Nat) : (s.dropFlight f).pins = s.pins := rfl
@[simp] theorem State.dropFlight_keys (s : State) (f : Nat) : (s.dropFlight f).keys = s.keys := rfl
@[simp] theorem State.dropFlight_seqNext (s : State) (f : Nat) : (s.dropFlight f).seqNext = s.seqNext := rfl
@[simp] theorem State.dropFlight_quiets (s : State) (f : Nat) : (s.dropFlight f).quiets = s.quiets := rfl
@[simp] theorem State.dropFlight_shared (s : State) (f : Nat) : (s.dropFlight f).shared = s.shared := rfl
@[simp] theorem State.dropFlight_trees (s : State) (f : Nat) : (s.dropFlight f).trees = s.trees := rfl
@[simp] theorem State.dropFlight_mem (s : State) (f : Nat) : (s.dropFlight f).mem = s.mem := rfl
@[simp] theorem State.dropFlight_poison (s : State) (f : Nat) : (s.dropFlight f).poison = s.poison := rfl
@[simp] theorem State.dropFlight_hist (s : State) (f : Nat) : (s.dropFlight f).hist = s.hist := rfl
@[simp] theorem State.dropFlight_tlb (s : State) (f : Nat) : (s.dropFlight f).tlb = s.tlb := rfl
@[simp] theorem State.dropFlight_lines (s : State) (f : Nat) : (s.dropFlight f).lines = s.lines := rfl
@[simp] theorem State.dropFlight_armed (s : State) (f : Nat) : (s.dropFlight f).armed = s.armed := rfl
@[simp] theorem State.dropFlight_dev (s : State) (f : Nat) : (s.dropFlight f).dev = s.dev := rfl

@[simp] theorem State.setFlight_tick (s : State) (f : Flight) : (s.setFlight f).tick = s.tick := rfl
@[simp] theorem State.setFlight_nextId (s : State) (f : Flight) : (s.setFlight f).nextId = s.nextId := rfl
@[simp] theorem State.setFlight_inputs (s : State) (f : Flight) : (s.setFlight f).inputs = s.inputs := rfl
@[simp] theorem State.setFlight_issue (s : State) (f : Flight) : (s.setFlight f).issue = s.issue := rfl
@[simp] theorem State.setFlight_warps (s : State) (f : Flight) : (s.setFlight f).warps = s.warps := rfl
@[simp] theorem State.setFlight_wgs (s : State) (f : Flight) : (s.setFlight f).wgs = s.wgs := rfl
@[simp] theorem State.setFlight_cores (s : State) (f : Flight) : (s.setFlight f).cores = s.cores := rfl
@[simp] theorem State.setFlight_launches (s : State) (f : Flight) : (s.setFlight f).launches = s.launches := rfl
@[simp] theorem State.setFlight_pins (s : State) (f : Flight) : (s.setFlight f).pins = s.pins := rfl
@[simp] theorem State.setFlight_keys (s : State) (f : Flight) : (s.setFlight f).keys = s.keys := rfl
@[simp] theorem State.setFlight_seqNext (s : State) (f : Flight) : (s.setFlight f).seqNext = s.seqNext := rfl
@[simp] theorem State.setFlight_quiets (s : State) (f : Flight) : (s.setFlight f).quiets = s.quiets := rfl
@[simp] theorem State.setFlight_shared (s : State) (f : Flight) : (s.setFlight f).shared = s.shared := rfl
@[simp] theorem State.setFlight_trees (s : State) (f : Flight) : (s.setFlight f).trees = s.trees := rfl
@[simp] theorem State.setFlight_mem (s : State) (f : Flight) : (s.setFlight f).mem = s.mem := rfl
@[simp] theorem State.setFlight_poison (s : State) (f : Flight) : (s.setFlight f).poison = s.poison := rfl
@[simp] theorem State.setFlight_hist (s : State) (f : Flight) : (s.setFlight f).hist = s.hist := rfl
@[simp] theorem State.setFlight_tlb (s : State) (f : Flight) : (s.setFlight f).tlb = s.tlb := rfl
@[simp] theorem State.setFlight_lines (s : State) (f : Flight) : (s.setFlight f).lines = s.lines := rfl
@[simp] theorem State.setFlight_armed (s : State) (f : Flight) : (s.setFlight f).armed = s.armed := rfl
@[simp] theorem State.setFlight_dev (s : State) (f : Flight) : (s.setFlight f).dev = s.dev := rfl

@[simp] theorem Warp.setLane_launch (w : Warp) (l : Nat) (x : Lane) : (w.setLane l x).launch = w.launch := rfl
@[simp] theorem Warp.setLane_gang (w : Warp) (l : Nat) (x : Lane) : (w.setLane l x).gang = w.gang := rfl
@[simp] theorem Warp.setLane_wg (w : Warp) (l : Nat) (x : Lane) : (w.setLane l x).wg = w.wg := rfl
@[simp] theorem Warp.setLane_index (w : Warp) (l : Nat) (x : Lane) : (w.setLane l x).index = w.index := rfl
@[simp] theorem Warp.setLane_core (w : Warp) (l : Nat) (x : Lane) : (w.setLane l x).core = w.core := rfl
@[simp] theorem Warp.setLane_slot (w : Warp) (l : Nat) (x : Lane) : (w.setLane l x).slot = w.slot := rfl
@[simp] theorem Warp.setLane_age (w : Warp) (l : Nat) (x : Lane) : (w.setLane l x).age = w.age := rfl
@[simp] theorem Warp.setLane_passCount (w : Warp) (l : Nat) (x : Lane) : (w.setLane l x).passCount = w.passCount := rfl
@[simp] theorem Warp.setLane_vregs (w : Warp) (l : Nat) (x : Lane) : (w.setLane l x).vregs = w.vregs := rfl
@[simp] theorem Warp.setLane_wregs (w : Warp) (l : Nat) (x : Lane) : (w.setLane l x).wregs = w.wregs := rfl
@[simp] theorem Warp.setLane_masks (w : Warp) (l : Nat) (x : Lane) : (w.setLane l x).masks = w.masks := rfl
@[simp] theorem Warp.setLane_joins (w : Warp) (l : Nat) (x : Lane) : (w.setLane l x).joins = w.joins := rfl
@[simp] theorem Warp.setLane_mode (w : Warp) (l : Nat) (x : Lane) : (w.setLane l x).mode = w.mode := rfl
@[simp] theorem Warp.setLane_wc (w : Warp) (l : Nat) (x : Lane) : (w.setLane l x).wc = w.wc := rfl
@[simp] theorem Warp.setLane_mfmt (w : Warp) (l : Nat) (x : Lane) : (w.setLane l x).mfmt = w.mfmt := rfl
@[simp] theorem Warp.setLane_tba (w : Warp) (l : Nat) (x : Lane) : (w.setLane l x).tba = w.tba := rfl
@[simp] theorem Warp.setLane_budget (w : Warp) (l : Nat) (x : Lane) : (w.setLane l x).budget = w.budget := rfl
@[simp] theorem Warp.setLane_handlerMode (w : Warp) (l : Nat) (x : Lane) : (w.setLane l x).handlerMode = w.handlerMode := rfl
@[simp] theorem Warp.setLane_halted (w : Warp) (l : Nat) (x : Lane) : (w.setLane l x).halted = w.halted := rfl
@[simp] theorem Warp.setLane_haltSet (w : Warp) (l : Nat) (x : Lane) : (w.setLane l x).haltSet = w.haltSet := rfl
@[simp] theorem Warp.setLane_refused (w : Warp) (l : Nat) (x : Lane) : (w.setLane l x).refused = w.refused := rfl
@[simp] theorem Warp.setLane_evicted (w : Warp) (l : Nat) (x : Lane) : (w.setLane l x).evicted = w.evicted := rfl
@[simp] theorem Warp.setLane_ended (w : Warp) (l : Nat) (x : Lane) : (w.setLane l x).ended = w.ended := rfl
@[simp] theorem Warp.setLane_resident (w : Warp) (l : Nat) (x : Lane) : (w.setLane l x).resident = w.resident := rfl
@[simp] theorem Warp.setLane_drain (w : Warp) (l : Nat) (x : Lane) : (w.setLane l x).drain = w.drain := rfl
@[simp] theorem Warp.setLane_latch (w : Warp) (l : Nat) (x : Lane) : (w.setLane l x).latch = w.latch := rfl
@[simp] theorem Warp.setLane_rowNums (w : Warp) (l : Nat) (x : Lane) : (w.setLane l x).rowNums = w.rowNums := rfl
@[simp] theorem Warp.setLane_chain (w : Warp) (l : Nat) (x : Lane) : (w.setLane l x).chain = w.chain := rfl
@[simp] theorem Warp.setLane_issued (w : Warp) (l : Nat) (x : Lane) : (w.setLane l x).issued = w.issued := rfl
@[simp] theorem Warp.setLane_cuts (w : Warp) (l : Nat) (x : Lane) : (w.setLane l x).cuts = w.cuts := rfl
@[simp] theorem Warp.setLane_violations (w : Warp) (l : Nat) (x : Lane) : (w.setLane l x).violations = w.violations := rfl
@[simp] theorem Warp.setLane_refusals (w : Warp) (l : Nat) (x : Lane) : (w.setLane l x).refusals = w.refusals := rfl
@[simp] theorem Warp.setLane_bad (w : Warp) (l : Nat) (x : Lane) : (w.setLane l x).bad = w.bad := rfl

@[simp] theorem Warp.mapLanes_launch (w : Warp) (f : Nat → Lane → Lane) : (w.mapLanes f).launch = w.launch := rfl
@[simp] theorem Warp.mapLanes_gang (w : Warp) (f : Nat → Lane → Lane) : (w.mapLanes f).gang = w.gang := rfl
@[simp] theorem Warp.mapLanes_wg (w : Warp) (f : Nat → Lane → Lane) : (w.mapLanes f).wg = w.wg := rfl
@[simp] theorem Warp.mapLanes_index (w : Warp) (f : Nat → Lane → Lane) : (w.mapLanes f).index = w.index := rfl
@[simp] theorem Warp.mapLanes_core (w : Warp) (f : Nat → Lane → Lane) : (w.mapLanes f).core = w.core := rfl
@[simp] theorem Warp.mapLanes_slot (w : Warp) (f : Nat → Lane → Lane) : (w.mapLanes f).slot = w.slot := rfl
@[simp] theorem Warp.mapLanes_age (w : Warp) (f : Nat → Lane → Lane) : (w.mapLanes f).age = w.age := rfl
@[simp] theorem Warp.mapLanes_passCount (w : Warp) (f : Nat → Lane → Lane) : (w.mapLanes f).passCount = w.passCount := rfl
@[simp] theorem Warp.mapLanes_vregs (w : Warp) (f : Nat → Lane → Lane) : (w.mapLanes f).vregs = w.vregs := rfl
@[simp] theorem Warp.mapLanes_wregs (w : Warp) (f : Nat → Lane → Lane) : (w.mapLanes f).wregs = w.wregs := rfl
@[simp] theorem Warp.mapLanes_masks (w : Warp) (f : Nat → Lane → Lane) : (w.mapLanes f).masks = w.masks := rfl
@[simp] theorem Warp.mapLanes_joins (w : Warp) (f : Nat → Lane → Lane) : (w.mapLanes f).joins = w.joins := rfl
@[simp] theorem Warp.mapLanes_mode (w : Warp) (f : Nat → Lane → Lane) : (w.mapLanes f).mode = w.mode := rfl
@[simp] theorem Warp.mapLanes_wc (w : Warp) (f : Nat → Lane → Lane) : (w.mapLanes f).wc = w.wc := rfl
@[simp] theorem Warp.mapLanes_mfmt (w : Warp) (f : Nat → Lane → Lane) : (w.mapLanes f).mfmt = w.mfmt := rfl
@[simp] theorem Warp.mapLanes_tba (w : Warp) (f : Nat → Lane → Lane) : (w.mapLanes f).tba = w.tba := rfl
@[simp] theorem Warp.mapLanes_budget (w : Warp) (f : Nat → Lane → Lane) : (w.mapLanes f).budget = w.budget := rfl
@[simp] theorem Warp.mapLanes_handlerMode (w : Warp) (f : Nat → Lane → Lane) : (w.mapLanes f).handlerMode = w.handlerMode := rfl
@[simp] theorem Warp.mapLanes_halted (w : Warp) (f : Nat → Lane → Lane) : (w.mapLanes f).halted = w.halted := rfl
@[simp] theorem Warp.mapLanes_haltSet (w : Warp) (f : Nat → Lane → Lane) : (w.mapLanes f).haltSet = w.haltSet := rfl
@[simp] theorem Warp.mapLanes_refused (w : Warp) (f : Nat → Lane → Lane) : (w.mapLanes f).refused = w.refused := rfl
@[simp] theorem Warp.mapLanes_evicted (w : Warp) (f : Nat → Lane → Lane) : (w.mapLanes f).evicted = w.evicted := rfl
@[simp] theorem Warp.mapLanes_ended (w : Warp) (f : Nat → Lane → Lane) : (w.mapLanes f).ended = w.ended := rfl
@[simp] theorem Warp.mapLanes_resident (w : Warp) (f : Nat → Lane → Lane) : (w.mapLanes f).resident = w.resident := rfl
@[simp] theorem Warp.mapLanes_drain (w : Warp) (f : Nat → Lane → Lane) : (w.mapLanes f).drain = w.drain := rfl
@[simp] theorem Warp.mapLanes_latch (w : Warp) (f : Nat → Lane → Lane) : (w.mapLanes f).latch = w.latch := rfl
@[simp] theorem Warp.mapLanes_rowNums (w : Warp) (f : Nat → Lane → Lane) : (w.mapLanes f).rowNums = w.rowNums := rfl
@[simp] theorem Warp.mapLanes_chain (w : Warp) (f : Nat → Lane → Lane) : (w.mapLanes f).chain = w.chain := rfl
@[simp] theorem Warp.mapLanes_issued (w : Warp) (f : Nat → Lane → Lane) : (w.mapLanes f).issued = w.issued := rfl
@[simp] theorem Warp.mapLanes_cuts (w : Warp) (f : Nat → Lane → Lane) : (w.mapLanes f).cuts = w.cuts := rfl
@[simp] theorem Warp.mapLanes_violations (w : Warp) (f : Nat → Lane → Lane) : (w.mapLanes f).violations = w.violations := rfl
@[simp] theorem Warp.mapLanes_refusals (w : Warp) (f : Nat → Lane → Lane) : (w.mapLanes f).refusals = w.refusals := rfl
@[simp] theorem Warp.mapLanes_bad (w : Warp) (f : Nat → Lane → Lane) : (w.mapLanes f).bad = w.bad := rfl

@[simp] theorem Warp.setVreg_launch (w : Warp) (r : Nat) (x : VReg) : (w.setVreg r x).launch = w.launch := rfl
@[simp] theorem Warp.setVreg_gang (w : Warp) (r : Nat) (x : VReg) : (w.setVreg r x).gang = w.gang := rfl
@[simp] theorem Warp.setVreg_wg (w : Warp) (r : Nat) (x : VReg) : (w.setVreg r x).wg = w.wg := rfl
@[simp] theorem Warp.setVreg_index (w : Warp) (r : Nat) (x : VReg) : (w.setVreg r x).index = w.index := rfl
@[simp] theorem Warp.setVreg_core (w : Warp) (r : Nat) (x : VReg) : (w.setVreg r x).core = w.core := rfl
@[simp] theorem Warp.setVreg_slot (w : Warp) (r : Nat) (x : VReg) : (w.setVreg r x).slot = w.slot := rfl
@[simp] theorem Warp.setVreg_age (w : Warp) (r : Nat) (x : VReg) : (w.setVreg r x).age = w.age := rfl
@[simp] theorem Warp.setVreg_passCount (w : Warp) (r : Nat) (x : VReg) : (w.setVreg r x).passCount = w.passCount := rfl
@[simp] theorem Warp.setVreg_lanes (w : Warp) (r : Nat) (x : VReg) : (w.setVreg r x).lanes = w.lanes := rfl
@[simp] theorem Warp.setVreg_wregs (w : Warp) (r : Nat) (x : VReg) : (w.setVreg r x).wregs = w.wregs := rfl
@[simp] theorem Warp.setVreg_masks (w : Warp) (r : Nat) (x : VReg) : (w.setVreg r x).masks = w.masks := rfl
@[simp] theorem Warp.setVreg_joins (w : Warp) (r : Nat) (x : VReg) : (w.setVreg r x).joins = w.joins := rfl
@[simp] theorem Warp.setVreg_mode (w : Warp) (r : Nat) (x : VReg) : (w.setVreg r x).mode = w.mode := rfl
@[simp] theorem Warp.setVreg_wc (w : Warp) (r : Nat) (x : VReg) : (w.setVreg r x).wc = w.wc := rfl
@[simp] theorem Warp.setVreg_mfmt (w : Warp) (r : Nat) (x : VReg) : (w.setVreg r x).mfmt = w.mfmt := rfl
@[simp] theorem Warp.setVreg_tba (w : Warp) (r : Nat) (x : VReg) : (w.setVreg r x).tba = w.tba := rfl
@[simp] theorem Warp.setVreg_budget (w : Warp) (r : Nat) (x : VReg) : (w.setVreg r x).budget = w.budget := rfl
@[simp] theorem Warp.setVreg_handlerMode (w : Warp) (r : Nat) (x : VReg) : (w.setVreg r x).handlerMode = w.handlerMode := rfl
@[simp] theorem Warp.setVreg_halted (w : Warp) (r : Nat) (x : VReg) : (w.setVreg r x).halted = w.halted := rfl
@[simp] theorem Warp.setVreg_haltSet (w : Warp) (r : Nat) (x : VReg) : (w.setVreg r x).haltSet = w.haltSet := rfl
@[simp] theorem Warp.setVreg_refused (w : Warp) (r : Nat) (x : VReg) : (w.setVreg r x).refused = w.refused := rfl
@[simp] theorem Warp.setVreg_evicted (w : Warp) (r : Nat) (x : VReg) : (w.setVreg r x).evicted = w.evicted := rfl
@[simp] theorem Warp.setVreg_ended (w : Warp) (r : Nat) (x : VReg) : (w.setVreg r x).ended = w.ended := rfl
@[simp] theorem Warp.setVreg_resident (w : Warp) (r : Nat) (x : VReg) : (w.setVreg r x).resident = w.resident := rfl
@[simp] theorem Warp.setVreg_drain (w : Warp) (r : Nat) (x : VReg) : (w.setVreg r x).drain = w.drain := rfl
@[simp] theorem Warp.setVreg_latch (w : Warp) (r : Nat) (x : VReg) : (w.setVreg r x).latch = w.latch := rfl
@[simp] theorem Warp.setVreg_rowNums (w : Warp) (r : Nat) (x : VReg) : (w.setVreg r x).rowNums = w.rowNums := rfl
@[simp] theorem Warp.setVreg_chain (w : Warp) (r : Nat) (x : VReg) : (w.setVreg r x).chain = w.chain := rfl
@[simp] theorem Warp.setVreg_issued (w : Warp) (r : Nat) (x : VReg) : (w.setVreg r x).issued = w.issued := rfl
@[simp] theorem Warp.setVreg_cuts (w : Warp) (r : Nat) (x : VReg) : (w.setVreg r x).cuts = w.cuts := rfl
@[simp] theorem Warp.setVreg_violations (w : Warp) (r : Nat) (x : VReg) : (w.setVreg r x).violations = w.violations := rfl
@[simp] theorem Warp.setVreg_refusals (w : Warp) (r : Nat) (x : VReg) : (w.setVreg r x).refusals = w.refusals := rfl
@[simp] theorem Warp.setVreg_bad (w : Warp) (r : Nat) (x : VReg) : (w.setVreg r x).bad = w.bad := rfl

@[simp] theorem Warp.setWreg_launch (w : Warp) (r : Nat) (x : Word) : (w.setWreg r x).launch = w.launch := rfl
@[simp] theorem Warp.setWreg_gang (w : Warp) (r : Nat) (x : Word) : (w.setWreg r x).gang = w.gang := rfl
@[simp] theorem Warp.setWreg_wg (w : Warp) (r : Nat) (x : Word) : (w.setWreg r x).wg = w.wg := rfl
@[simp] theorem Warp.setWreg_index (w : Warp) (r : Nat) (x : Word) : (w.setWreg r x).index = w.index := rfl
@[simp] theorem Warp.setWreg_core (w : Warp) (r : Nat) (x : Word) : (w.setWreg r x).core = w.core := rfl
@[simp] theorem Warp.setWreg_slot (w : Warp) (r : Nat) (x : Word) : (w.setWreg r x).slot = w.slot := rfl
@[simp] theorem Warp.setWreg_age (w : Warp) (r : Nat) (x : Word) : (w.setWreg r x).age = w.age := rfl
@[simp] theorem Warp.setWreg_passCount (w : Warp) (r : Nat) (x : Word) : (w.setWreg r x).passCount = w.passCount := rfl
@[simp] theorem Warp.setWreg_lanes (w : Warp) (r : Nat) (x : Word) : (w.setWreg r x).lanes = w.lanes := rfl
@[simp] theorem Warp.setWreg_vregs (w : Warp) (r : Nat) (x : Word) : (w.setWreg r x).vregs = w.vregs := rfl
@[simp] theorem Warp.setWreg_masks (w : Warp) (r : Nat) (x : Word) : (w.setWreg r x).masks = w.masks := rfl
@[simp] theorem Warp.setWreg_joins (w : Warp) (r : Nat) (x : Word) : (w.setWreg r x).joins = w.joins := rfl
@[simp] theorem Warp.setWreg_mode (w : Warp) (r : Nat) (x : Word) : (w.setWreg r x).mode = w.mode := rfl
@[simp] theorem Warp.setWreg_wc (w : Warp) (r : Nat) (x : Word) : (w.setWreg r x).wc = w.wc := rfl
@[simp] theorem Warp.setWreg_mfmt (w : Warp) (r : Nat) (x : Word) : (w.setWreg r x).mfmt = w.mfmt := rfl
@[simp] theorem Warp.setWreg_tba (w : Warp) (r : Nat) (x : Word) : (w.setWreg r x).tba = w.tba := rfl
@[simp] theorem Warp.setWreg_budget (w : Warp) (r : Nat) (x : Word) : (w.setWreg r x).budget = w.budget := rfl
@[simp] theorem Warp.setWreg_handlerMode (w : Warp) (r : Nat) (x : Word) : (w.setWreg r x).handlerMode = w.handlerMode := rfl
@[simp] theorem Warp.setWreg_halted (w : Warp) (r : Nat) (x : Word) : (w.setWreg r x).halted = w.halted := rfl
@[simp] theorem Warp.setWreg_haltSet (w : Warp) (r : Nat) (x : Word) : (w.setWreg r x).haltSet = w.haltSet := rfl
@[simp] theorem Warp.setWreg_refused (w : Warp) (r : Nat) (x : Word) : (w.setWreg r x).refused = w.refused := rfl
@[simp] theorem Warp.setWreg_evicted (w : Warp) (r : Nat) (x : Word) : (w.setWreg r x).evicted = w.evicted := rfl
@[simp] theorem Warp.setWreg_ended (w : Warp) (r : Nat) (x : Word) : (w.setWreg r x).ended = w.ended := rfl
@[simp] theorem Warp.setWreg_resident (w : Warp) (r : Nat) (x : Word) : (w.setWreg r x).resident = w.resident := rfl
@[simp] theorem Warp.setWreg_drain (w : Warp) (r : Nat) (x : Word) : (w.setWreg r x).drain = w.drain := rfl
@[simp] theorem Warp.setWreg_latch (w : Warp) (r : Nat) (x : Word) : (w.setWreg r x).latch = w.latch := rfl
@[simp] theorem Warp.setWreg_rowNums (w : Warp) (r : Nat) (x : Word) : (w.setWreg r x).rowNums = w.rowNums := rfl
@[simp] theorem Warp.setWreg_chain (w : Warp) (r : Nat) (x : Word) : (w.setWreg r x).chain = w.chain := rfl
@[simp] theorem Warp.setWreg_issued (w : Warp) (r : Nat) (x : Word) : (w.setWreg r x).issued = w.issued := rfl
@[simp] theorem Warp.setWreg_cuts (w : Warp) (r : Nat) (x : Word) : (w.setWreg r x).cuts = w.cuts := rfl
@[simp] theorem Warp.setWreg_violations (w : Warp) (r : Nat) (x : Word) : (w.setWreg r x).violations = w.violations := rfl
@[simp] theorem Warp.setWreg_refusals (w : Warp) (r : Nat) (x : Word) : (w.setWreg r x).refusals = w.refusals := rfl
@[simp] theorem Warp.setWreg_bad (w : Warp) (r : Nat) (x : Word) : (w.setWreg r x).bad = w.bad := rfl

@[simp] theorem Warp.setWpair_launch (w : Warp) (r : Nat) (x : DWord) : (w.setWpair r x).launch = w.launch := rfl
@[simp] theorem Warp.setWpair_gang (w : Warp) (r : Nat) (x : DWord) : (w.setWpair r x).gang = w.gang := rfl
@[simp] theorem Warp.setWpair_wg (w : Warp) (r : Nat) (x : DWord) : (w.setWpair r x).wg = w.wg := rfl
@[simp] theorem Warp.setWpair_index (w : Warp) (r : Nat) (x : DWord) : (w.setWpair r x).index = w.index := rfl
@[simp] theorem Warp.setWpair_core (w : Warp) (r : Nat) (x : DWord) : (w.setWpair r x).core = w.core := rfl
@[simp] theorem Warp.setWpair_slot (w : Warp) (r : Nat) (x : DWord) : (w.setWpair r x).slot = w.slot := rfl
@[simp] theorem Warp.setWpair_age (w : Warp) (r : Nat) (x : DWord) : (w.setWpair r x).age = w.age := rfl
@[simp] theorem Warp.setWpair_passCount (w : Warp) (r : Nat) (x : DWord) : (w.setWpair r x).passCount = w.passCount := rfl
@[simp] theorem Warp.setWpair_lanes (w : Warp) (r : Nat) (x : DWord) : (w.setWpair r x).lanes = w.lanes := rfl
@[simp] theorem Warp.setWpair_vregs (w : Warp) (r : Nat) (x : DWord) : (w.setWpair r x).vregs = w.vregs := rfl
@[simp] theorem Warp.setWpair_masks (w : Warp) (r : Nat) (x : DWord) : (w.setWpair r x).masks = w.masks := rfl
@[simp] theorem Warp.setWpair_joins (w : Warp) (r : Nat) (x : DWord) : (w.setWpair r x).joins = w.joins := rfl
@[simp] theorem Warp.setWpair_mode (w : Warp) (r : Nat) (x : DWord) : (w.setWpair r x).mode = w.mode := rfl
@[simp] theorem Warp.setWpair_wc (w : Warp) (r : Nat) (x : DWord) : (w.setWpair r x).wc = w.wc := rfl
@[simp] theorem Warp.setWpair_mfmt (w : Warp) (r : Nat) (x : DWord) : (w.setWpair r x).mfmt = w.mfmt := rfl
@[simp] theorem Warp.setWpair_tba (w : Warp) (r : Nat) (x : DWord) : (w.setWpair r x).tba = w.tba := rfl
@[simp] theorem Warp.setWpair_budget (w : Warp) (r : Nat) (x : DWord) : (w.setWpair r x).budget = w.budget := rfl
@[simp] theorem Warp.setWpair_handlerMode (w : Warp) (r : Nat) (x : DWord) : (w.setWpair r x).handlerMode = w.handlerMode := rfl
@[simp] theorem Warp.setWpair_halted (w : Warp) (r : Nat) (x : DWord) : (w.setWpair r x).halted = w.halted := rfl
@[simp] theorem Warp.setWpair_haltSet (w : Warp) (r : Nat) (x : DWord) : (w.setWpair r x).haltSet = w.haltSet := rfl
@[simp] theorem Warp.setWpair_refused (w : Warp) (r : Nat) (x : DWord) : (w.setWpair r x).refused = w.refused := rfl
@[simp] theorem Warp.setWpair_evicted (w : Warp) (r : Nat) (x : DWord) : (w.setWpair r x).evicted = w.evicted := rfl
@[simp] theorem Warp.setWpair_ended (w : Warp) (r : Nat) (x : DWord) : (w.setWpair r x).ended = w.ended := rfl
@[simp] theorem Warp.setWpair_resident (w : Warp) (r : Nat) (x : DWord) : (w.setWpair r x).resident = w.resident := rfl
@[simp] theorem Warp.setWpair_drain (w : Warp) (r : Nat) (x : DWord) : (w.setWpair r x).drain = w.drain := rfl
@[simp] theorem Warp.setWpair_latch (w : Warp) (r : Nat) (x : DWord) : (w.setWpair r x).latch = w.latch := rfl
@[simp] theorem Warp.setWpair_rowNums (w : Warp) (r : Nat) (x : DWord) : (w.setWpair r x).rowNums = w.rowNums := rfl
@[simp] theorem Warp.setWpair_chain (w : Warp) (r : Nat) (x : DWord) : (w.setWpair r x).chain = w.chain := rfl
@[simp] theorem Warp.setWpair_issued (w : Warp) (r : Nat) (x : DWord) : (w.setWpair r x).issued = w.issued := rfl
@[simp] theorem Warp.setWpair_cuts (w : Warp) (r : Nat) (x : DWord) : (w.setWpair r x).cuts = w.cuts := rfl
@[simp] theorem Warp.setWpair_violations (w : Warp) (r : Nat) (x : DWord) : (w.setWpair r x).violations = w.violations := rfl
@[simp] theorem Warp.setWpair_refusals (w : Warp) (r : Nat) (x : DWord) : (w.setWpair r x).refusals = w.refusals := rfl
@[simp] theorem Warp.setWpair_bad (w : Warp) (r : Nat) (x : DWord) : (w.setWpair r x).bad = w.bad := rfl

@[simp] theorem Warp.setMask_launch (w : Warp) (k : Nat) (x : Mask) : (w.setMask k x).launch = w.launch := rfl
@[simp] theorem Warp.setMask_gang (w : Warp) (k : Nat) (x : Mask) : (w.setMask k x).gang = w.gang := rfl
@[simp] theorem Warp.setMask_wg (w : Warp) (k : Nat) (x : Mask) : (w.setMask k x).wg = w.wg := rfl
@[simp] theorem Warp.setMask_index (w : Warp) (k : Nat) (x : Mask) : (w.setMask k x).index = w.index := rfl
@[simp] theorem Warp.setMask_core (w : Warp) (k : Nat) (x : Mask) : (w.setMask k x).core = w.core := rfl
@[simp] theorem Warp.setMask_slot (w : Warp) (k : Nat) (x : Mask) : (w.setMask k x).slot = w.slot := rfl
@[simp] theorem Warp.setMask_age (w : Warp) (k : Nat) (x : Mask) : (w.setMask k x).age = w.age := rfl
@[simp] theorem Warp.setMask_passCount (w : Warp) (k : Nat) (x : Mask) : (w.setMask k x).passCount = w.passCount := rfl
@[simp] theorem Warp.setMask_lanes (w : Warp) (k : Nat) (x : Mask) : (w.setMask k x).lanes = w.lanes := rfl
@[simp] theorem Warp.setMask_vregs (w : Warp) (k : Nat) (x : Mask) : (w.setMask k x).vregs = w.vregs := rfl
@[simp] theorem Warp.setMask_wregs (w : Warp) (k : Nat) (x : Mask) : (w.setMask k x).wregs = w.wregs := rfl
@[simp] theorem Warp.setMask_joins (w : Warp) (k : Nat) (x : Mask) : (w.setMask k x).joins = w.joins := rfl
@[simp] theorem Warp.setMask_mode (w : Warp) (k : Nat) (x : Mask) : (w.setMask k x).mode = w.mode := rfl
@[simp] theorem Warp.setMask_wc (w : Warp) (k : Nat) (x : Mask) : (w.setMask k x).wc = w.wc := rfl
@[simp] theorem Warp.setMask_mfmt (w : Warp) (k : Nat) (x : Mask) : (w.setMask k x).mfmt = w.mfmt := rfl
@[simp] theorem Warp.setMask_tba (w : Warp) (k : Nat) (x : Mask) : (w.setMask k x).tba = w.tba := rfl
@[simp] theorem Warp.setMask_budget (w : Warp) (k : Nat) (x : Mask) : (w.setMask k x).budget = w.budget := rfl
@[simp] theorem Warp.setMask_handlerMode (w : Warp) (k : Nat) (x : Mask) : (w.setMask k x).handlerMode = w.handlerMode := rfl
@[simp] theorem Warp.setMask_halted (w : Warp) (k : Nat) (x : Mask) : (w.setMask k x).halted = w.halted := rfl
@[simp] theorem Warp.setMask_haltSet (w : Warp) (k : Nat) (x : Mask) : (w.setMask k x).haltSet = w.haltSet := rfl
@[simp] theorem Warp.setMask_refused (w : Warp) (k : Nat) (x : Mask) : (w.setMask k x).refused = w.refused := rfl
@[simp] theorem Warp.setMask_evicted (w : Warp) (k : Nat) (x : Mask) : (w.setMask k x).evicted = w.evicted := rfl
@[simp] theorem Warp.setMask_ended (w : Warp) (k : Nat) (x : Mask) : (w.setMask k x).ended = w.ended := rfl
@[simp] theorem Warp.setMask_resident (w : Warp) (k : Nat) (x : Mask) : (w.setMask k x).resident = w.resident := rfl
@[simp] theorem Warp.setMask_drain (w : Warp) (k : Nat) (x : Mask) : (w.setMask k x).drain = w.drain := rfl
@[simp] theorem Warp.setMask_latch (w : Warp) (k : Nat) (x : Mask) : (w.setMask k x).latch = w.latch := rfl
@[simp] theorem Warp.setMask_rowNums (w : Warp) (k : Nat) (x : Mask) : (w.setMask k x).rowNums = w.rowNums := rfl
@[simp] theorem Warp.setMask_chain (w : Warp) (k : Nat) (x : Mask) : (w.setMask k x).chain = w.chain := rfl
@[simp] theorem Warp.setMask_issued (w : Warp) (k : Nat) (x : Mask) : (w.setMask k x).issued = w.issued := rfl
@[simp] theorem Warp.setMask_cuts (w : Warp) (k : Nat) (x : Mask) : (w.setMask k x).cuts = w.cuts := rfl
@[simp] theorem Warp.setMask_violations (w : Warp) (k : Nat) (x : Mask) : (w.setMask k x).violations = w.violations := rfl
@[simp] theorem Warp.setMask_refusals (w : Warp) (k : Nat) (x : Mask) : (w.setMask k x).refusals = w.refusals := rfl
@[simp] theorem Warp.setMask_bad (w : Warp) (k : Nat) (x : Mask) : (w.setMask k x).bad = w.bad := rfl

@[simp] theorem Warp.setJoin_launch (w : Warp) (k : Nat) (x : Mask) : (w.setJoin k x).launch = w.launch := rfl
@[simp] theorem Warp.setJoin_gang (w : Warp) (k : Nat) (x : Mask) : (w.setJoin k x).gang = w.gang := rfl
@[simp] theorem Warp.setJoin_wg (w : Warp) (k : Nat) (x : Mask) : (w.setJoin k x).wg = w.wg := rfl
@[simp] theorem Warp.setJoin_index (w : Warp) (k : Nat) (x : Mask) : (w.setJoin k x).index = w.index := rfl
@[simp] theorem Warp.setJoin_core (w : Warp) (k : Nat) (x : Mask) : (w.setJoin k x).core = w.core := rfl
@[simp] theorem Warp.setJoin_slot (w : Warp) (k : Nat) (x : Mask) : (w.setJoin k x).slot = w.slot := rfl
@[simp] theorem Warp.setJoin_age (w : Warp) (k : Nat) (x : Mask) : (w.setJoin k x).age = w.age := rfl
@[simp] theorem Warp.setJoin_passCount (w : Warp) (k : Nat) (x : Mask) : (w.setJoin k x).passCount = w.passCount := rfl
@[simp] theorem Warp.setJoin_lanes (w : Warp) (k : Nat) (x : Mask) : (w.setJoin k x).lanes = w.lanes := rfl
@[simp] theorem Warp.setJoin_vregs (w : Warp) (k : Nat) (x : Mask) : (w.setJoin k x).vregs = w.vregs := rfl
@[simp] theorem Warp.setJoin_wregs (w : Warp) (k : Nat) (x : Mask) : (w.setJoin k x).wregs = w.wregs := rfl
@[simp] theorem Warp.setJoin_masks (w : Warp) (k : Nat) (x : Mask) : (w.setJoin k x).masks = w.masks := rfl
@[simp] theorem Warp.setJoin_mode (w : Warp) (k : Nat) (x : Mask) : (w.setJoin k x).mode = w.mode := rfl
@[simp] theorem Warp.setJoin_wc (w : Warp) (k : Nat) (x : Mask) : (w.setJoin k x).wc = w.wc := rfl
@[simp] theorem Warp.setJoin_mfmt (w : Warp) (k : Nat) (x : Mask) : (w.setJoin k x).mfmt = w.mfmt := rfl
@[simp] theorem Warp.setJoin_tba (w : Warp) (k : Nat) (x : Mask) : (w.setJoin k x).tba = w.tba := rfl
@[simp] theorem Warp.setJoin_budget (w : Warp) (k : Nat) (x : Mask) : (w.setJoin k x).budget = w.budget := rfl
@[simp] theorem Warp.setJoin_handlerMode (w : Warp) (k : Nat) (x : Mask) : (w.setJoin k x).handlerMode = w.handlerMode := rfl
@[simp] theorem Warp.setJoin_halted (w : Warp) (k : Nat) (x : Mask) : (w.setJoin k x).halted = w.halted := rfl
@[simp] theorem Warp.setJoin_haltSet (w : Warp) (k : Nat) (x : Mask) : (w.setJoin k x).haltSet = w.haltSet := rfl
@[simp] theorem Warp.setJoin_refused (w : Warp) (k : Nat) (x : Mask) : (w.setJoin k x).refused = w.refused := rfl
@[simp] theorem Warp.setJoin_evicted (w : Warp) (k : Nat) (x : Mask) : (w.setJoin k x).evicted = w.evicted := rfl
@[simp] theorem Warp.setJoin_ended (w : Warp) (k : Nat) (x : Mask) : (w.setJoin k x).ended = w.ended := rfl
@[simp] theorem Warp.setJoin_resident (w : Warp) (k : Nat) (x : Mask) : (w.setJoin k x).resident = w.resident := rfl
@[simp] theorem Warp.setJoin_drain (w : Warp) (k : Nat) (x : Mask) : (w.setJoin k x).drain = w.drain := rfl
@[simp] theorem Warp.setJoin_latch (w : Warp) (k : Nat) (x : Mask) : (w.setJoin k x).latch = w.latch := rfl
@[simp] theorem Warp.setJoin_rowNums (w : Warp) (k : Nat) (x : Mask) : (w.setJoin k x).rowNums = w.rowNums := rfl
@[simp] theorem Warp.setJoin_chain (w : Warp) (k : Nat) (x : Mask) : (w.setJoin k x).chain = w.chain := rfl
@[simp] theorem Warp.setJoin_issued (w : Warp) (k : Nat) (x : Mask) : (w.setJoin k x).issued = w.issued := rfl
@[simp] theorem Warp.setJoin_cuts (w : Warp) (k : Nat) (x : Mask) : (w.setJoin k x).cuts = w.cuts := rfl
@[simp] theorem Warp.setJoin_violations (w : Warp) (k : Nat) (x : Mask) : (w.setJoin k x).violations = w.violations := rfl
@[simp] theorem Warp.setJoin_refusals (w : Warp) (k : Nat) (x : Mask) : (w.setJoin k x).refusals = w.refusals := rfl
@[simp] theorem Warp.setJoin_bad (w : Warp) (k : Nat) (x : Mask) : (w.setJoin k x).bad = w.bad := rfl

end Sys2Proof.Machine
end

