-- ==== Sys2Proof/Laws/Ops.lean ====
section
/-! SUPPORT. What the shared operations do: the accessors read back what was written, how an instruction ends for each lane, what
an effect leaves, and what a write of a vector register gives. -/

namespace Sys2Proof.Machine

/-! ## Accessors -/

@[simp] theorem State.warp_setWarp (s : State) (w : Nat) (x : Warp) : (s.setWarp w x).warp w = x := by
  simp [State.warp, State.setWarp]
theorem State.warp_setWarp_ne (s : State) {w v : Nat} (x : Warp) (h : v ≠ w) : (s.setWarp w x).warp v = s.warp v := by
  simp [State.warp, State.setWarp, mapGet_mapSet_ne _ _ _ h]
@[simp] theorem State.warp_modWarp (s : State) (w : Nat) (f : Warp → Warp) : (s.modWarp w f).warp w = f (s.warp w) := by
  simp [State.modWarp]
theorem State.warp_modWarp_ne (s : State) {w v : Nat} (f : Warp → Warp) (h : v ≠ w) : (s.modWarp w f).warp v = s.warp v :=
  s.warp_setWarp_ne _ h
@[simp] theorem State.cur_modCur (s : State) (f : Warp → Warp) : (s.modCur f).cur = f s.cur := by
  simp [State.cur, State.modCur]
@[simp] theorem State.cur_setWarp_issue (s : State) (x : Warp) : (s.setWarp s.issue.warp x).cur = x := by
  simp [State.cur]
@[simp] theorem State.wg_setWg (s : State) (g : Nat) (x : Workgroup) : (s.setWg g x).wg g = x := by
  simp [State.wg, State.setWg]
theorem State.wg_setWg_ne (s : State) {g h : Nat} (x : Workgroup) (e : h ≠ g) : (s.setWg g x).wg h = s.wg h := by
  simp [State.wg, State.setWg, mapGet_mapSet_ne _ _ _ e]
@[simp] theorem State.wg_modWg (s : State) (g : Nat) (f : Workgroup → Workgroup) : (s.modWg g f).wg g = f (s.wg g) := by
  simp [State.modWg]
@[simp] theorem State.core_setCore (s : State) (c : Nat) (x : Core) : (s.setCore c x).core c = x := by
  simp [State.core, State.setCore]
@[simp] theorem State.launch_setLaunch (s : State) (i : Nat) (x : Launch) : (s.setLaunch i x).launch i = x := by
  simp [State.launch, State.setLaunch]
@[simp] theorem State.launch_modLaunch (s : State) (i : Nat) (f : Launch → Launch) : (s.modLaunch i f).launch i = f (s.launch i) := by
  simp [State.modLaunch]

@[simp] theorem Warp.lane_setLane (w : Warp) (l : Nat) (x : Lane) : (w.setLane l x).lane l = x := by
  simp [Warp.lane, Warp.setLane]
theorem Warp.lane_setLane_ne (w : Warp) {l k : Nat} (x : Lane) (h : k ≠ l) : (w.setLane l x).lane k = w.lane k := by
  simp [Warp.lane, Warp.setLane, mapGet_mapSet_ne _ _ _ h]
theorem Warp.lane_mapLanes (w : Warp) (f : Nat → Lane → Lane) {l : Nat} (h : l < 32) : (w.mapLanes f).lane l = f l (w.lane l) :=
  mapGet_range (fun l => f l (w.lane l)) 32 l {} h
@[simp] theorem Warp.vreg_setVreg (w : Warp) (r : Nat) (x : VReg) : (w.setVreg r x).vreg r = x := by
  simp [Warp.vreg, Warp.setVreg]
theorem Warp.vreg_setVreg_ne (w : Warp) {r k : Nat} (x : VReg) (h : k ≠ r) : (w.setVreg r x).vreg k = w.vreg k := by
  simp [Warp.vreg, Warp.setVreg, mapGet_mapSet_ne _ _ _ h]
@[simp] theorem Warp.wreg_setWreg (w : Warp) (r : Nat) (x : Word) : (w.setWreg r x).wreg r = x := by
  simp [Warp.wreg, Warp.setWreg]
theorem Warp.wreg_setWreg_ne (w : Warp) {r k : Nat} (x : Word) (h : k ≠ r) : (w.setWreg r x).wreg k = w.wreg k := by
  simp [Warp.wreg, Warp.setWreg, mapGet_mapSet_ne _ _ _ h]
@[simp] theorem Warp.mask_setMask (w : Warp) (k : Nat) (x : Mask) : (w.setMask k x).mask k = x := by
  simp [Warp.mask, Warp.setMask]
theorem Warp.mask_setMask_ne (w : Warp) {k j : Nat} (x : Mask) (h : j ≠ k) : (w.setMask k x).mask j = w.mask j := by
  simp [Warp.mask, Warp.setMask, mapGet_mapSet_ne _ _ _ h]
@[simp] theorem Warp.join_setJoin (w : Warp) (k : Nat) (x : Mask) : (w.setJoin k x).join k = x := by
  simp [Warp.join, Warp.setJoin]

/-! ## What an update of the warp leaves of the instruction being issued -/

@[simp] theorem State.prefix_setWarp (s : State) (w : Nat) (x : Warp) : (s.setWarp w x).prefix? = s.prefix? := rfl
@[simp] theorem State.len_setWarp (s : State) (w : Nat) (x : Warp) : (s.setWarp w x).len = s.len := rfl
@[simp] theorem State.inSet_setWarp (s : State) (w : Nat) (x : Warp) (l : Nat) : (s.setWarp w x).inSet l = s.inSet l := rfl
@[simp] theorem State.len_modCur (s : State) (f : Warp → Warp) : (s.modCur f).len = s.len := rfl
@[simp] theorem State.inSet_modCur (s : State) (f : Warp → Warp) (l : Nat) : (s.modCur f).inSet l = s.inSet l := rfl

/-! ## The end of an instruction (R50) -/

/-- Every lane of the issue set ends its own way, and no other lane changes. -/
theorem State.lane_finish (s : State) (f : Nat → LaneEnd) {l : Nat} (h : l < 32) :
    (s.finish f).cur.lane l = if s.inSet l then (s.cur.lane l).finish s.issue.pc s.len (f l) else s.cur.lane l := by
  unfold State.finish; rw [State.cur_modCur, Warp.lane_mapLanes _ _ h]; rfl
/-- The issue set goes on at the next word. -/
theorem State.lane_advance (s : State) {l : Nat} (h : l < 32) :
    s.advance.cur.lane l = if s.inSet l then { s.cur.lane l with pc := s.issue.pc + s.len } else s.cur.lane l :=
  s.lane_finish _ h
/-- The registers and everything else of the warp but its lanes are as they were. -/
theorem State.cur_finish (s : State) (f : Nat → LaneEnd) :
    (s.finish f).cur = { s.cur with lanes := (s.finish f).cur.lanes } := by
  unfold State.finish; rw [State.cur_modCur]; rfl
theorem State.vreg_finish (s : State) (f : Nat → LaneEnd) (r : Nat) : (s.finish f).cur.vreg r = s.cur.vreg r := by
  rw [State.cur_finish]; rfl
theorem State.wreg_finish (s : State) (f : Nat → LaneEnd) (r : Nat) : (s.finish f).cur.wreg r = s.cur.wreg r := by
  rw [State.cur_finish]; rfl
theorem State.mask_finish (s : State) (f : Nat → LaneEnd) (k : Nat) : (s.finish f).cur.mask k = s.cur.mask k := by
  rw [State.cur_finish]; rfl
/-- No other warp changes. -/
theorem State.warp_finish_ne (s : State) (f : Nat → LaneEnd) {v : Nat} (h : v ≠ s.issue.warp) : (s.finish f).warp v = s.warp v :=
  s.warp_modWarp_ne _ h

/-! ## Writes of vector registers (R98, R102) -/

/-- What a written register reads as, lane by lane, when its compact form reads as its values. -/
theorem VWrite.lane_result (x : VWrite) (old : VReg) (e set : Mask) (z : Bool) {l : Nat} (hl : l < 32) (he : e.getLsbD l = true)
    (hc : ∀ r, x.compact = some r → r.lane l = x.val l) : (x.result old e set z).lane l = x.val l := by
  have tidy : ∀ r : VReg, r.tidy.lane l = r.lane l := by
    intro r
    cases r with
    | a b st =>
      show (if st = 0 then VReg.u b else VReg.a b st).lane l = _
      by_cases h : st = 0
      · subst h; simp [VReg.lane]
      · rw [if_neg h]
    | _ => rfl
  unfold VWrite.result
  split
  · split
    · rename_i r hr; rw [tidy]; exact hc r hr
    · simp [VReg.lane, hl]
  · simp [VReg.lane, hl, he]
/-- R98: a lane outside E and outside what Z zeroes keeps its value. -/
theorem VWrite.lane_kept (x : VWrite) (old : VReg) (e set : Mask) (z : Bool) {l : Nat} (hl : l < 32) (he : e.getLsbD l = false)
    (hz : (z && set.getLsbD l) = false) : (x.result old e set z).lane l = old.lane l := by
  unfold VWrite.result
  split
  · rename_i h
    exfalso
    subst h
    have : ∀ k < 32, (allLanes : Mask).getLsbD k = true := by decide
    rw [this l hl] at he; exact Bool.noConfusion he
  · show ((List.range 32).map fun l => if e.getLsbD l then x.val l else if z && set.getLsbD l then 0 else old.lane l).getD l 0 = _
    rw [List.getD_eq_getElem?_getD, List.getElem?_map, List.getElem?_range hl]
    simp only [Option.map_some, Option.getD_some, he, hz, Bool.false_eq_true, if_false]

/-- One write changes one register. -/
theorem Warp.vreg_write_one (w : Warp) (e set : Mask) (z : Bool) (x : VWrite) (r : Nat) :
    (w.write e set z [x]).vreg r = if r = x.d then x.result (w.vreg x.d) e set z else w.vreg r := by
  unfold Warp.write
  simp only [List.foldl_cons, List.foldl_nil, Warp.vreg, Warp.setVreg, mapGet_mapSet]
/-- A list of writes changes nothing but vector registers, and of those only its destinations. -/
theorem Warp.write_vreg_ne (w : Warp) (e set : Mask) (z : Bool) (xs : List VWrite) {r : Nat} (h : ∀ x ∈ xs, x.d ≠ r) :
    (w.write e set z xs).vreg r = w.vreg r := by
  unfold Warp.write
  induction xs generalizing w with
  | nil => rfl
  | cons x t ih =>
    simp only [List.foldl_cons]
    rw [ih _ fun y hy => h y (List.mem_cons_of_mem _ hy)]
    exact Warp.vreg_setVreg_ne _ _ (Ne.symm (h x (List.mem_cons_self ..)))
theorem Warp.write_rest (w : Warp) (e set : Mask) (z : Bool) (xs : List VWrite) :
    w.write e set z xs = { w with vregs := (w.write e set z xs).vregs } := by
  unfold Warp.write
  induction xs generalizing w with
  | nil => rfl
  | cons x t ih => simp only [List.foldl_cons]; rw [ih]; rfl

/-! ## Effects (R49, R73, R103) -/

/-- R49: with an empty E nothing but the advance. -/
theorem State.effect_empty (s : State) (x : Effect) (h : s.eff = 0) : s.effect x = s.advance := by
  unfold State.effect; simp [h]
/-- R103: rows that do not fit end the instruction in every lane of the issue set. -/
theorem State.effect_overflow (s : State) (x : Effect) (h : s.eff ≠ 0) (hx : x.writes ≠ [])
    (hr : s.cur.budget < (s.cur.write s.eff s.issue.set s.pz x.writes).rows) :
    s.effect x = s.trapAll (s.overflowRec (rowsNeeded s.cur (s.cur.write s.eff s.issue.set s.pz x.writes))) := by
  unfold State.effect
  rw [if_neg h]
  have : x.writes.isEmpty = false := by cases hw : x.writes <;> simp_all
  simp only [this, hr, decide_true, Bool.not_false, Bool.and_self, if_true]

/-- The warp of an effect whose rows fit, before its lanes end. -/
def State.effectWarp (s : State) (x : Effect) : Warp :=
  let w := x.post (s.cur.write s.eff s.issue.set s.pz x.writes)
  let w := { w with mode := modeRaise w.mode ((lanesOf s.eff).foldl (fun a l => a ||| x.flags l) (0 : Flags)) }
  match x.gen with
  | none => w
  | some g => w.mapLanes fun l y => if s.eff.getLsbD l then { y with gen := g l } else y
/-- An effect whose rows fit: the warp it makes, and the end of each lane. -/
theorem State.effect_fits (s : State) (x : Effect) (h : s.eff ≠ 0)
    (hr : x.writes = [] ∨ (s.cur.write s.eff s.issue.set s.pz x.writes).rows ≤ s.cur.budget) :
    s.effect x = (s.setWarp s.issue.warp (s.effectWarp x)).finish fun l =>
      if s.eff.getLsbD l then s.arithEnd (x.flags l) (x.ends l) else .next := by
  unfold State.effect
  rw [if_neg h]
  have : (decide (s.cur.budget < (s.cur.write s.eff s.issue.set s.pz x.writes).rows) && !x.writes.isEmpty) = false := by
    rcases hr with hr | hr
    · simp [hr]
    · simp [Nat.not_lt.mpr hr]
  simp only [this]
  rfl
/-- What an effect leaves alone, whatever happens: everything but its warp. -/
theorem State.effect_rest (s : State) (x : Effect) : s.effect x = { s with warps := (s.effect x).warps } := by
  unfold State.effect
  dsimp only
  split
  · rfl
  · split <;> rfl
theorem State.effect_warp_ne (s : State) (x : Effect) {v : Nat} (h : v ≠ s.issue.warp) : (s.effect x).warp v = s.warp v := by
  unfold State.effect
  dsimp only
  split
  · exact s.warp_finish_ne _ h
  · split
    · exact s.warp_finish_ne _ h
    · rw [State.warp_finish_ne _ _ (by exact h)]; exact s.warp_setWarp_ne _ h

end Sys2Proof.Machine
end

