-- ==== Sys2Proof/Laws/PerInstr.lean ====
section
/-! SUPPORT. One lemma per instruction: its word decodes to it, with every field at every value (R21, R32). -/

set_option linter.unusedSimpArgs false

namespace Sys2Proof.Laws.RoundTrip

/-- The decoder gives back the instruction that a word encodes. -/
def Statement (i : Instr) : Prop := ∀ w, encode i = some w → decode w = .ok i

theorem fld_low {v w : Nat} (x : BitVec v) (y : BitVec w) (lo n : Nat) (h : lo + n ≤ w) :
    (x ++ y).extractLsb' lo n = y.extractLsb' lo n := BitVec.extractLsb'_append_eq_of_add_le h
theorem fld_high {v w : Nat} (x : BitVec v) (y : BitVec w) (lo n : Nat) (h : w ≤ lo) :
    (x ++ y).extractLsb' lo n = x.extractLsb' (lo - w) n := BitVec.extractLsb'_append_eq_of_le h
theorem fld_self {w : Nat} (x : BitVec w) : x.extractLsb' 0 w = x := by simp

theorem decode_0 {w : BitVec 32} (h : fld w 27 4 = 0) : decode w = decodeClass0 w := by unfold decode; rw [h]; rfl
theorem decode_1 {w : BitVec 32} (h : fld w 27 4 = 1) : decode w = decodeClass1 w := by unfold decode; rw [h]; rfl
theorem decode_2 {w : BitVec 32} (h : fld w 27 4 = 2) : decode w = decodeClass2 w := by unfold decode; rw [h]; rfl
theorem decode_3 {w : BitVec 32} (h : fld w 27 4 = 3) : decode w = decodeClass3 w := by unfold decode; rw [h]; rfl
theorem decode_4 {w : BitVec 32} (h : fld w 27 4 = 4) : decode w = decodeClass4 w := by unfold decode; rw [h]; rfl
theorem decode_5 {w : BitVec 32} (h : fld w 27 4 = 5) : decode w = decodeClass5 w := by unfold decode; rw [h]; rfl
theorem decode_6 {w : BitVec 32} (h : fld w 27 4 = 6) : decode w = decodeClass6 w := by unfold decode; rw [h]; rfl
theorem decode_7 {w : BitVec 32} (h : fld w 27 4 = 7) : decode w = decodeClass7 w := by unfold decode; rw [h]; rfl
theorem decode_8 {w : BitVec 32} (h : fld w 27 4 = 8) : decode w = decodeClass8 w := by unfold decode; rw [h]; rfl
theorem decode_9 {w : BitVec 32} (h : fld w 27 4 = 9) : decode w = decodeClass9 w := by unfold decode; rw [h]; rfl
theorem decode_A {w : BitVec 32} (h : fld w 27 4 = 10) : decode w = decodeClassA w := by unfold decode; rw [h]; rfl
theorem decode_B {w : BitVec 32} (h : fld w 27 4 = 11) : decode w = decodeClassB w := by unfold decode; rw [h]; rfl
theorem decode_C {w : BitVec 32} (h : fld w 27 4 = 12) : decode w = decodeClassC w := by unfold decode; rw [h]; rfl
theorem decode_D {w : BitVec 32} (h : fld w 27 4 = 13) : decode w = decodeClassD w := by unfold decode; rw [h]; rfl
theorem decode_E {w : BitVec 32} (h : fld w 27 4 = 14) : decode w = decodeClassE w := by unfold decode; rw [h]; rfl

theorem iadd (c : BitVec 1) (h : BitVec 1) (d : BitVec 7) (a : BitVec 7) (b : BitVec 7) : Statement (.iadd c h d a b) := by
  intro w0 he
  obtain rfl := Option.some.inj he
  refine (decode_0 (by simp (disch := decide) only [fld_low, fld_high]; rfl)).trans ?_
  unfold decodeClass0
  rw [show fld (c ++ 0#9 ++ h ++ d ++ a ++ b : BitVec 32) 22 5 = 0#5 from by simp (disch := decide) only [fld_low, fld_high]; rfl]
  show Except.ok _ = _
  simp (disch := decide) only [fld_low, fld_high, Nat.reduceSub, fld_self]
theorem isub (c : BitVec 1) (h : BitVec 1) (d : BitVec 7) (a : BitVec 7) (b : BitVec 7) : Statement (.isub c h d a b) := by
  intro w0 he
  obtain rfl := Option.some.inj he
  refine (decode_0 (by simp (disch := decide) only [fld_low, fld_high]; rfl)).trans ?_
  unfold decodeClass0
  rw [show fld (c ++ 1#9 ++ h ++ d ++ a ++ b : BitVec 32) 22 5 = 1#5 from by simp (disch := decide) only [fld_low, fld_high]; rfl]
  show Except.ok _ = _
  simp (disch := decide) only [fld_low, fld_high, Nat.reduceSub, fld_self]
theorem imul (c : BitVec 1) (h : BitVec 1) (d : BitVec 7) (a : BitVec 7) (b : BitVec 7) : Statement (.imul c h d a b) := by
  intro w0 he
  obtain rfl := Option.some.inj he
  refine (decode_0 (by simp (disch := decide) only [fld_low, fld_high]; rfl)).trans ?_
  unfold decodeClass0
  rw [show fld (c ++ 2#9 ++ h ++ d ++ a ++ b : BitVec 32) 22 5 = 2#5 from by simp (disch := decide) only [fld_low, fld_high]; rfl]
  show Except.ok _ = _
  simp (disch := decide) only [fld_low, fld_high, Nat.reduceSub, fld_self]
theorem imulhiS (c : BitVec 1) (h : BitVec 1) (d : BitVec 7) (a : BitVec 7) (b : BitVec 7) : Statement (.imulhiS c h d a b) := by
  intro w0 he
  obtain rfl := Option.some.inj he
  refine (decode_0 (by simp (disch := decide) only [fld_low, fld_high]; rfl)).trans ?_
  unfold decodeClass0
  rw [show fld (c ++ 3#9 ++ h ++ d ++ a ++ b : BitVec 32) 22 5 = 3#5 from by simp (disch := decide) only [fld_low, fld_high]; rfl]
  show Except.ok _ = _
  simp (disch := decide) only [fld_low, fld_high, Nat.reduceSub, fld_self]
theorem imulhiN (c : BitVec 1) (h : BitVec 1) (d : BitVec 7) (a : BitVec 7) (b : BitVec 7) : Statement (.imulhiN c h d a b) := by
  intro w0 he
  obtain rfl := Option.some.inj he
  refine (decode_0 (by simp (disch := decide) only [fld_low, fld_high]; rfl)).trans ?_
  unfold decodeClass0
  rw [show fld (c ++ 4#9 ++ h ++ d ++ a ++ b : BitVec 32) 22 5 = 4#5 from by simp (disch := decide) only [fld_low, fld_high]; rfl]
  show Except.ok _ = _
  simp (disch := decide) only [fld_low, fld_high, Nat.reduceSub, fld_self]
theorem imad (c : BitVec 1) (h : BitVec 1) (d : BitVec 7) (a : BitVec 7) (b : BitVec 7) : Statement (.imad c h d a b) := by
  intro w0 he
  obtain rfl := Option.some.inj he
  refine (decode_0 (by simp (disch := decide) only [fld_low, fld_high]; rfl)).trans ?_
  unfold decodeClass0
  rw [show fld (c ++ 5#9 ++ h ++ d ++ a ++ b : BitVec 32) 22 5 = 5#5 from by simp (disch := decide) only [fld_low, fld_high]; rfl]
  show Except.ok _ = _
  simp (disch := decide) only [fld_low, fld_high, Nat.reduceSub, fld_self]
theorem iaddsS (c : BitVec 1) (h : BitVec 1) (d : BitVec 7) (a : BitVec 7) (b : BitVec 7) : Statement (.iaddsS c h d a b) := by
  intro w0 he
  obtain rfl := Option.some.inj he
  refine (decode_0 (by simp (disch := decide) only [fld_low, fld_high]; rfl)).trans ?_
  unfold decodeClass0
  rw [show fld (c ++ 6#9 ++ h ++ d ++ a ++ b : BitVec 32) 22 5 = 6#5 from by simp (disch := decide) only [fld_low, fld_high]; rfl]
  show Except.ok _ = _
  simp (disch := decide) only [fld_low, fld_high, Nat.reduceSub, fld_self]
theorem iaddsN (c : BitVec 1) (h : BitVec 1) (d : BitVec 7) (a : BitVec 7) (b : BitVec 7) : Statement (.iaddsN c h d a b) := by
  intro w0 he
  obtain rfl := Option.some.inj he
  refine (decode_0 (by simp (disch := decide) only [fld_low, fld_high]; rfl)).trans ?_
  unfold decodeClass0
  rw [show fld (c ++ 7#9 ++ h ++ d ++ a ++ b : BitVec 32) 22 5 = 7#5 from by simp (disch := decide) only [fld_low, fld_high]; rfl]
  show Except.ok _ = _
  simp (disch := decide) only [fld_low, fld_high, Nat.reduceSub, fld_self]
theorem isubsS (c : BitVec 1) (h : BitVec 1) (d : BitVec 7) (a : BitVec 7) (b : BitVec 7) : Statement (.isubsS c h d a b) := by
  intro w0 he
  obtain rfl := Option.some.inj he
  refine (decode_0 (by simp (disch := decide) only [fld_low, fld_high]; rfl)).trans ?_
  unfold decodeClass0
  rw [show fld (c ++ 8#9 ++ h ++ d ++ a ++ b : BitVec 32) 22 5 = 8#5 from by simp (disch := decide) only [fld_low, fld_high]; rfl]
  show Except.ok _ = _
  simp (disch := decide) only [fld_low, fld_high, Nat.reduceSub, fld_self]
theorem isubsN (c : BitVec 1) (h : BitVec 1) (d : BitVec 7) (a : BitVec 7) (b : BitVec 7) : Statement (.isubsN c h d a b) := by
  intro w0 he
  obtain rfl := Option.some.inj he
  refine (decode_0 (by simp (disch := decide) only [fld_low, fld_high]; rfl)).trans ?_
  unfold decodeClass0
  rw [show fld (c ++ 9#9 ++ h ++ d ++ a ++ b : BitVec 32) 22 5 = 9#5 from by simp (disch := decide) only [fld_low, fld_high]; rfl]
  show Except.ok _ = _
  simp (disch := decide) only [fld_low, fld_high, Nat.reduceSub, fld_self]
theorem iminS (c : BitVec 1) (h : BitVec 1) (d : BitVec 7) (a : BitVec 7) (b : BitVec 7) : Statement (.iminS c h d a b) := by
  intro w0 he
  obtain rfl := Option.some.inj he
  refine (decode_0 (by simp (disch := decide) only [fld_low, fld_high]; rfl)).trans ?_
  unfold decodeClass0
  rw [show fld (c ++ 10#9 ++ h ++ d ++ a ++ b : BitVec 32) 22 5 = 10#5 from by simp (disch := decide) only [fld_low, fld_high]; rfl]
  show Except.ok _ = _
  simp (disch := decide) only [fld_low, fld_high, Nat.reduceSub, fld_self]
theorem iminN (c : BitVec 1) (h : BitVec 1) (d : BitVec 7) (a : BitVec 7) (b : BitVec 7) : Statement (.iminN c h d a b) := by
  intro w0 he
  obtain rfl := Option.some.inj he
  refine (decode_0 (by simp (disch := decide) only [fld_low, fld_high]; rfl)).trans ?_
  unfold decodeClass0
  rw [show fld (c ++ 11#9 ++ h ++ d ++ a ++ b : BitVec 32) 22 5 = 11#5 from by simp (disch := decide) only [fld_low, fld_high]; rfl]
  show Except.ok _ = _
  simp (disch := decide) only [fld_low, fld_high, Nat.reduceSub, fld_self]
theorem imaxS (c : BitVec 1) (h : BitVec 1) (d : BitVec 7) (a : BitVec 7) (b : BitVec 7) : Statement (.imaxS c h d a b) := by
  intro w0 he
  obtain rfl := Option.some.inj he
  refine (decode_0 (by simp (disch := decide) only [fld_low, fld_high]; rfl)).trans ?_
  unfold decodeClass0
  rw [show fld (c ++ 12#9 ++ h ++ d ++ a ++ b : BitVec 32) 22 5 = 12#5 from by simp (disch := decide) only [fld_low, fld_high]; rfl]
  show Except.ok _ = _
  simp (disch := decide) only [fld_low, fld_high, Nat.reduceSub, fld_self]
theorem imaxN (c : BitVec 1) (h : BitVec 1) (d : BitVec 7) (a : BitVec 7) (b : BitVec 7) : Statement (.imaxN c h d a b) := by
  intro w0 he
  obtain rfl := Option.some.inj he
  refine (decode_0 (by simp (disch := decide) only [fld_low, fld_high]; rfl)).trans ?_
  unfold decodeClass0
  rw [show fld (c ++ 13#9 ++ h ++ d ++ a ++ b : BitVec 32) 22 5 = 13#5 from by simp (disch := decide) only [fld_low, fld_high]; rfl]
  show Except.ok _ = _
  simp (disch := decide) only [fld_low, fld_high, Nat.reduceSub, fld_self]
theorem vand (c : BitVec 1) (h : BitVec 1) (d : BitVec 7) (a : BitVec 7) (b : BitVec 7) : Statement (.vand c h d a b) := by
  intro w0 he
  obtain rfl := Option.some.inj he
  refine (decode_0 (by simp (disch := decide) only [fld_low, fld_high]; rfl)).trans ?_
  unfold decodeClass0
  rw [show fld (c ++ 14#9 ++ h ++ d ++ a ++ b : BitVec 32) 22 5 = 14#5 from by simp (disch := decide) only [fld_low, fld_high]; rfl]
  show Except.ok _ = _
  simp (disch := decide) only [fld_low, fld_high, Nat.reduceSub, fld_self]
theorem vor (c : BitVec 1) (h : BitVec 1) (d : BitVec 7) (a : BitVec 7) (b : BitVec 7) : Statement (.vor c h d a b) := by
  intro w0 he
  obtain rfl := Option.some.inj he
  refine (decode_0 (by simp (disch := decide) only [fld_low, fld_high]; rfl)).trans ?_
  unfold decodeClass0
  rw [show fld (c ++ 15#9 ++ h ++ d ++ a ++ b : BitVec 32) 22 5 = 15#5 from by simp (disch := decide) only [fld_low, fld_high]; rfl]
  show Except.ok _ = _
  simp (disch := decide) only [fld_low, fld_high, Nat.reduceSub, fld_self]
theorem vxor (c : BitVec 1) (h : BitVec 1) (d : BitVec 7) (a : BitVec 7) (b : BitVec 7) : Statement (.vxor c h d a b) := by
  intro w0 he
  obtain rfl := Option.some.inj he
  refine (decode_0 (by simp (disch := decide) only [fld_low, fld_high]; rfl)).trans ?_
  unfold decodeClass0
  rw [show fld (c ++ 16#9 ++ h ++ d ++ a ++ b : BitVec 32) 22 5 = 16#5 from by simp (disch := decide) only [fld_low, fld_high]; rfl]
  show Except.ok _ = _
  simp (disch := decide) only [fld_low, fld_high, Nat.reduceSub, fld_self]
theorem andn (c : BitVec 1) (h : BitVec 1) (d : BitVec 7) (a : BitVec 7) (b : BitVec 7) : Statement (.andn c h d a b) := by
  intro w0 he
  obtain rfl := Option.some.inj he
  refine (decode_0 (by simp (disch := decide) only [fld_low, fld_high]; rfl)).trans ?_
  unfold decodeClass0
  rw [show fld (c ++ 17#9 ++ h ++ d ++ a ++ b : BitVec 32) 22 5 = 17#5 from by simp (disch := decide) only [fld_low, fld_high]; rfl]
  show Except.ok _ = _
  simp (disch := decide) only [fld_low, fld_high, Nat.reduceSub, fld_self]
theorem shl (c : BitVec 1) (h : BitVec 1) (d : BitVec 7) (a : BitVec 7) (b : BitVec 7) : Statement (.shl c h d a b) := by
  intro w0 he
  obtain rfl := Option.some.inj he
  refine (decode_0 (by simp (disch := decide) only [fld_low, fld_high]; rfl)).trans ?_
  unfold decodeClass0
  rw [show fld (c ++ 18#9 ++ h ++ d ++ a ++ b : BitVec 32) 22 5 = 18#5 from by simp (disch := decide) only [fld_low, fld_high]; rfl]
  show Except.ok _ = _
  simp (disch := decide) only [fld_low, fld_high, Nat.reduceSub, fld_self]
theorem shr (c : BitVec 1) (h : BitVec 1) (d : BitVec 7) (a : BitVec 7) (b : BitVec 7) : Statement (.shr c h d a b) := by
  intro w0 he
  obtain rfl := Option.some.inj he
  refine (decode_0 (by simp (disch := decide) only [fld_low, fld_high]; rfl)).trans ?_
  unfold decodeClass0
  rw [show fld (c ++ 19#9 ++ h ++ d ++ a ++ b : BitVec 32) 22 5 = 19#5 from by simp (disch := decide) only [fld_low, fld_high]; rfl]
  show Except.ok _ = _
  simp (disch := decide) only [fld_low, fld_high, Nat.reduceSub, fld_self]
theorem sar (c : BitVec 1) (h : BitVec 1) (d : BitVec 7) (a : BitVec 7) (b : BitVec 7) : Statement (.sar c h d a b) := by
  intro w0 he
  obtain rfl := Option.some.inj he
  refine (decode_0 (by simp (disch := decide) only [fld_low, fld_high]; rfl)).trans ?_
  unfold decodeClass0
  rw [show fld (c ++ 20#9 ++ h ++ d ++ a ++ b : BitVec 32) 22 5 = 20#5 from by simp (disch := decide) only [fld_low, fld_high]; rfl]
  show Except.ok _ = _
  simp (disch := decide) only [fld_low, fld_high, Nat.reduceSub, fld_self]
theorem rot (c : BitVec 1) (h : BitVec 1) (d : BitVec 7) (a : BitVec 7) (b : BitVec 7) : Statement (.rot c h d a b) := by
  intro w0 he
  obtain rfl := Option.some.inj he
  refine (decode_0 (by simp (disch := decide) only [fld_low, fld_high]; rfl)).trans ?_
  unfold decodeClass0
  rw [show fld (c ++ 21#9 ++ h ++ d ++ a ++ b : BitVec 32) 22 5 = 21#5 from by simp (disch := decide) only [fld_low, fld_high]; rfl]
  show Except.ok _ = _
  simp (disch := decide) only [fld_low, fld_high, Nat.reduceSub, fld_self]
theorem bfe (c : BitVec 1) (h : BitVec 1) (d : BitVec 7) (a : BitVec 7) (b : BitVec 7) : Statement (.bfe c h d a b) := by
  intro w0 he
  obtain rfl := Option.some.inj he
  refine (decode_0 (by simp (disch := decide) only [fld_low, fld_high]; rfl)).trans ?_
  unfold decodeClass0
  rw [show fld (c ++ 22#9 ++ h ++ d ++ a ++ b : BitVec 32) 22 5 = 22#5 from by simp (disch := decide) only [fld_low, fld_high]; rfl]
  show Except.ok _ = _
  simp (disch := decide) only [fld_low, fld_high, Nat.reduceSub, fld_self]
theorem bfi (c : BitVec 1) (h : BitVec 1) (d : BitVec 7) (a : BitVec 7) (b : BitVec 7) : Statement (.bfi c h d a b) := by
  intro w0 he
  obtain rfl := Option.some.inj he
  refine (decode_0 (by simp (disch := decide) only [fld_low, fld_high]; rfl)).trans ?_
  unfold decodeClass0
  rw [show fld (c ++ 23#9 ++ h ++ d ++ a ++ b : BitVec 32) 22 5 = 23#5 from by simp (disch := decide) only [fld_low, fld_high]; rfl]
  show Except.ok _ = _
  simp (disch := decide) only [fld_low, fld_high, Nat.reduceSub, fld_self]
theorem bitopPopc (c : BitVec 1) (h : BitVec 1) (d : BitVec 7) (a : BitVec 7) : Statement (.bitopPopc c h d a) := by
  intro w0 he
  obtain rfl := Option.some.inj he
  refine (decode_0 (by simp (disch := decide) only [fld_low, fld_high]; rfl)).trans ?_
  unfold decodeClass0
  rw [show fld (c ++ 24#9 ++ h ++ d ++ a ++ 0#7 : BitVec 32) 22 5 = 24#5 from by simp (disch := decide) only [fld_low, fld_high]; rfl]
  show (if _ then _ else _) = _
  rw [if_pos ((show fld (c ++ 24#9 ++ h ++ d ++ a ++ 0#7 : BitVec 32) 0 7 = 0 from by simp (disch := decide) only [fld_low, fld_high]; rfl))]
  simp (disch := decide) only [fld_low, fld_high, Nat.reduceSub, fld_self]
theorem bitopClz (c : BitVec 1) (h : BitVec 1) (d : BitVec 7) (a : BitVec 7) : Statement (.bitopClz c h d a) := by
  intro w0 he
  obtain rfl := Option.some.inj he
  refine (decode_0 (by simp (disch := decide) only [fld_low, fld_high]; rfl)).trans ?_
  unfold decodeClass0
  rw [show fld (c ++ 24#9 ++ h ++ d ++ a ++ 1#7 : BitVec 32) 22 5 = 24#5 from by simp (disch := decide) only [fld_low, fld_high]; rfl]
  show (if _ then _ else _) = _
  rw [if_neg (by rw [show fld (c ++ 24#9 ++ h ++ d ++ a ++ 1#7 : BitVec 32) 0 7 = 1#7 from by simp (disch := decide) only [fld_low, fld_high]; rfl]; decide)]
  rw [if_pos ((show fld (c ++ 24#9 ++ h ++ d ++ a ++ 1#7 : BitVec 32) 0 7 = 1 from by simp (disch := decide) only [fld_low, fld_high]; rfl))]
  simp (disch := decide) only [fld_low, fld_high, Nat.reduceSub, fld_self]
theorem bitopCtz (c : BitVec 1) (h : BitVec 1) (d : BitVec 7) (a : BitVec 7) : Statement (.bitopCtz c h d a) := by
  intro w0 he
  obtain rfl := Option.some.inj he
  refine (decode_0 (by simp (disch := decide) only [fld_low, fld_high]; rfl)).trans ?_
  unfold decodeClass0
  rw [show fld (c ++ 24#9 ++ h ++ d ++ a ++ 2#7 : BitVec 32) 22 5 = 24#5 from by simp (disch := decide) only [fld_low, fld_high]; rfl]
  show (if _ then _ else _) = _
  rw [if_neg (by rw [show fld (c ++ 24#9 ++ h ++ d ++ a ++ 2#7 : BitVec 32) 0 7 = 2#7 from by simp (disch := decide) only [fld_low, fld_high]; rfl]; decide)]
  rw [if_neg (by rw [show fld (c ++ 24#9 ++ h ++ d ++ a ++ 2#7 : BitVec 32) 0 7 = 2#7 from by simp (disch := decide) only [fld_low, fld_high]; rfl]; decide)]
  rw [if_pos ((show fld (c ++ 24#9 ++ h ++ d ++ a ++ 2#7 : BitVec 32) 0 7 = 2 from by simp (disch := decide) only [fld_low, fld_high]; rfl))]
  simp (disch := decide) only [fld_low, fld_high, Nat.reduceSub, fld_self]
theorem bitopBrev (c : BitVec 1) (h : BitVec 1) (d : BitVec 7) (a : BitVec 7) : Statement (.bitopBrev c h d a) := by
  intro w0 he
  obtain rfl := Option.some.inj he
  refine (decode_0 (by simp (disch := decide) only [fld_low, fld_high]; rfl)).trans ?_
  unfold decodeClass0
  rw [show fld (c ++ 24#9 ++ h ++ d ++ a ++ 3#7 : BitVec 32) 22 5 = 24#5 from by simp (disch := decide) only [fld_low, fld_high]; rfl]
  show (if _ then _ else _) = _
  rw [if_neg (by rw [show fld (c ++ 24#9 ++ h ++ d ++ a ++ 3#7 : BitVec 32) 0 7 = 3#7 from by simp (disch := decide) only [fld_low, fld_high]; rfl]; decide)]
  rw [if_neg (by rw [show fld (c ++ 24#9 ++ h ++ d ++ a ++ 3#7 : BitVec 32) 0 7 = 3#7 from by simp (disch := decide) only [fld_low, fld_high]; rfl]; decide)]
  rw [if_neg (by rw [show fld (c ++ 24#9 ++ h ++ d ++ a ++ 3#7 : BitVec 32) 0 7 = 3#7 from by simp (disch := decide) only [fld_low, fld_high]; rfl]; decide)]
  rw [if_pos ((show fld (c ++ 24#9 ++ h ++ d ++ a ++ 3#7 : BitVec 32) 0 7 = 3 from by simp (disch := decide) only [fld_low, fld_high]; rfl))]
  simp (disch := decide) only [fld_low, fld_high, Nat.reduceSub, fld_self]
theorem bitopNot (c : BitVec 1) (h : BitVec 1) (d : BitVec 7) (a : BitVec 7) : Statement (.bitopNot c h d a) := by
  intro w0 he
  obtain rfl := Option.some.inj he
  refine (decode_0 (by simp (disch := decide) only [fld_low, fld_high]; rfl)).trans ?_
  unfold decodeClass0
  rw [show fld (c ++ 24#9 ++ h ++ d ++ a ++ 4#7 : BitVec 32) 22 5 = 24#5 from by simp (disch := decide) only [fld_low, fld_high]; rfl]
  show (if _ then _ else _) = _
  rw [if_neg (by rw [show fld (c ++ 24#9 ++ h ++ d ++ a ++ 4#7 : BitVec 32) 0 7 = 4#7 from by simp (disch := decide) only [fld_low, fld_high]; rfl]; decide)]
  rw [if_neg (by rw [show fld (c ++ 24#9 ++ h ++ d ++ a ++ 4#7 : BitVec 32) 0 7 = 4#7 from by simp (disch := decide) only [fld_low, fld_high]; rfl]; decide)]
  rw [if_neg (by rw [show fld (c ++ 24#9 ++ h ++ d ++ a ++ 4#7 : BitVec 32) 0 7 = 4#7 from by simp (disch := decide) only [fld_low, fld_high]; rfl]; decide)]
  rw [if_neg (by rw [show fld (c ++ 24#9 ++ h ++ d ++ a ++ 4#7 : BitVec 32) 0 7 = 4#7 from by simp (disch := decide) only [fld_low, fld_high]; rfl]; decide)]
  rw [if_pos ((show fld (c ++ 24#9 ++ h ++ d ++ a ++ 4#7 : BitVec 32) 0 7 = 4 from by simp (disch := decide) only [fld_low, fld_high]; rfl))]
  simp (disch := decide) only [fld_low, fld_high, Nat.reduceSub, fld_self]
theorem icmp (c : BitVec 1) (h : BitVec 1) (k : BitVec 4) (a : BitVec 7) (b : BitVec 7) : Statement (.icmp c h k a b) := by
  intro w0 he
  obtain rfl := Option.some.inj he
  refine (decode_0 (by simp (disch := decide) only [fld_low, fld_high]; rfl)).trans ?_
  unfold decodeClass0
  rw [show fld (c ++ 25#9 ++ h ++ 0#3 ++ k ++ a ++ b : BitVec 32) 22 5 = 25#5 from by simp (disch := decide) only [fld_low, fld_high]; rfl]
  show (if _ then _ else _) = _
  rw [if_pos ((show fld (c ++ 25#9 ++ h ++ 0#3 ++ k ++ a ++ b : BitVec 32) 18 3 = 0 from by simp (disch := decide) only [fld_low, fld_high]; rfl))]
  simp (disch := decide) only [fld_low, fld_high, Nat.reduceSub, fld_self]
theorem sel (c : BitVec 1) (h : BitVec 1) (d : BitVec 7) (a : BitVec 7) (b : BitVec 7) : Statement (.sel c h d a b) := by
  intro w0 he
  obtain rfl := Option.some.inj he
  refine (decode_0 (by simp (disch := decide) only [fld_low, fld_high]; rfl)).trans ?_
  unfold decodeClass0
  rw [show fld (c ++ 26#9 ++ h ++ d ++ a ++ b : BitVec 32) 22 5 = 26#5 from by simp (disch := decide) only [fld_low, fld_high]; rfl]
  show Except.ok _ = _
  simp (disch := decide) only [fld_low, fld_high, Nat.reduceSub, fld_self]
theorem mov (c : BitVec 1) (h : BitVec 1) (d : BitVec 7) (a : BitVec 7) : Statement (.mov c h d a) := by
  intro w0 he
  obtain rfl := Option.some.inj he
  refine (decode_0 (by simp (disch := decide) only [fld_low, fld_high]; rfl)).trans ?_
  unfold decodeClass0
  rw [show fld (c ++ 27#9 ++ h ++ d ++ a ++ 0#7 : BitVec 32) 22 5 = 27#5 from by simp (disch := decide) only [fld_low, fld_high]; rfl]
  show (if _ then _ else _) = _
  rw [if_pos ((show fld (c ++ 27#9 ++ h ++ d ++ a ++ 0#7 : BitVec 32) 0 7 = 0 from by simp (disch := decide) only [fld_low, fld_high]; rfl))]
  simp (disch := decide) only [fld_low, fld_high, Nat.reduceSub, fld_self]
theorem prmt (c : BitVec 1) (h : BitVec 1) (d : BitVec 7) (a : BitVec 7) (b : BitVec 7) : Statement (.prmt c h d a b) := by
  intro w0 he
  obtain rfl := Option.some.inj he
  refine (decode_0 (by simp (disch := decide) only [fld_low, fld_high]; rfl)).trans ?_
  unfold decodeClass0
  rw [show fld (c ++ 28#9 ++ h ++ d ++ a ++ b : BitVec 32) 22 5 = 28#5 from by simp (disch := decide) only [fld_low, fld_high]; rfl]
  show Except.ok _ = _
  simp (disch := decide) only [fld_low, fld_high, Nat.reduceSub, fld_self]
theorem iadd64 (c : BitVec 1) (h : BitVec 1) (d : BitVec 7) (a : BitVec 7) (b : BitVec 7) : Statement (.iadd64 c h d a b) := by
  intro w0 he
  obtain rfl := Option.some.inj he
  refine (decode_0 (by simp (disch := decide) only [fld_low, fld_high]; rfl)).trans ?_
  unfold decodeClass0
  rw [show fld (c ++ 29#9 ++ h ++ d ++ a ++ b : BitVec 32) 22 5 = 29#5 from by simp (disch := decide) only [fld_low, fld_high]; rfl]
  show Except.ok _ = _
  simp (disch := decide) only [fld_low, fld_high, Nat.reduceSub, fld_self]
theorem isub64 (c : BitVec 1) (h : BitVec 1) (d : BitVec 7) (a : BitVec 7) (b : BitVec 7) : Statement (.isub64 c h d a b) := by
  intro w0 he
  obtain rfl := Option.some.inj he
  refine (decode_0 (by simp (disch := decide) only [fld_low, fld_high]; rfl)).trans ?_
  unfold decodeClass0
  rw [show fld (c ++ 30#9 ++ h ++ d ++ a ++ b : BitVec 32) 22 5 = 30#5 from by simp (disch := decide) only [fld_low, fld_high]; rfl]
  show Except.ok _ = _
  simp (disch := decide) only [fld_low, fld_high, Nat.reduceSub, fld_self]
theorem lea (c : BitVec 1) (h : BitVec 1) (d : BitVec 7) (a : BitVec 7) (b : BitVec 7) : Statement (.lea c h d a b) := by
  intro w0 he
  obtain rfl := Option.some.inj he
  refine (decode_0 (by simp (disch := decide) only [fld_low, fld_high]; rfl)).trans ?_
  unfold decodeClass0
  rw [show fld (c ++ 31#9 ++ h ++ d ++ a ++ b : BitVec 32) 22 5 = 31#5 from by simp (disch := decide) only [fld_low, fld_high]; rfl]
  show Except.ok _ = _
  simp (disch := decide) only [fld_low, fld_high, Nat.reduceSub, fld_self]
theorem fadd (c : BitVec 1) (h : BitVec 1) (d : BitVec 7) (a : BitVec 7) (b : BitVec 7) : Statement (.fadd c h d a b) := by
  intro w0 he
  obtain rfl := Option.some.inj he
  refine (decode_1 (by simp (disch := decide) only [fld_low, fld_high]; rfl)).trans ?_
  unfold decodeClass1
  rw [show fld (c ++ 32#9 ++ h ++ d ++ a ++ b : BitVec 32) 22 5 = 0#5 from by simp (disch := decide) only [fld_low, fld_high]; rfl]
  show Except.ok _ = _
  simp (disch := decide) only [fld_low, fld_high, Nat.reduceSub, fld_self]
theorem fsub (c : BitVec 1) (h : BitVec 1) (d : BitVec 7) (a : BitVec 7) (b : BitVec 7) : Statement (.fsub c h d a b) := by
  intro w0 he
  obtain rfl := Option.some.inj he
  refine (decode_1 (by simp (disch := decide) only [fld_low, fld_high]; rfl)).trans ?_
  unfold decodeClass1
  rw [show fld (c ++ 33#9 ++ h ++ d ++ a ++ b : BitVec 32) 22 5 = 1#5 from by simp (disch := decide) only [fld_low, fld_high]; rfl]
  show Except.ok _ = _
  simp (disch := decide) only [fld_low, fld_high, Nat.reduceSub, fld_self]
theorem fmul (c : BitVec 1) (h : BitVec 1) (d : BitVec 7) (a : BitVec 7) (b : BitVec 7) : Statement (.fmul c h d a b) := by
  intro w0 he
  obtain rfl := Option.some.inj he
  refine (decode_1 (by simp (disch := decide) only [fld_low, fld_high]; rfl)).trans ?_
  unfold decodeClass1
  rw [show fld (c ++ 34#9 ++ h ++ d ++ a ++ b : BitVec 32) 22 5 = 2#5 from by simp (disch := decide) only [fld_low, fld_high]; rfl]
  show Except.ok _ = _
  simp (disch := decide) only [fld_low, fld_high, Nat.reduceSub, fld_self]
theorem ffma (c : BitVec 1) (h : BitVec 1) (d : BitVec 7) (a : BitVec 7) (b : BitVec 7) : Statement (.ffma c h d a b) := by
  intro w0 he
  obtain rfl := Option.some.inj he
  refine (decode_1 (by simp (disch := decide) only [fld_low, fld_high]; rfl)).trans ?_
  unfold decodeClass1
  rw [show fld (c ++ 35#9 ++ h ++ d ++ a ++ b : BitVec 32) 22 5 = 3#5 from by simp (disch := decide) only [fld_low, fld_high]; rfl]
  show Except.ok _ = _
  simp (disch := decide) only [fld_low, fld_high, Nat.reduceSub, fld_self]
theorem ffms (c : BitVec 1) (h : BitVec 1) (d : BitVec 7) (a : BitVec 7) (b : BitVec 7) : Statement (.ffms c h d a b) := by
  intro w0 he
  obtain rfl := Option.some.inj he
  refine (decode_1 (by simp (disch := decide) only [fld_low, fld_high]; rfl)).trans ?_
  unfold decodeClass1
  rw [show fld (c ++ 36#9 ++ h ++ d ++ a ++ b : BitVec 32) 22 5 = 4#5 from by simp (disch := decide) only [fld_low, fld_high]; rfl]
  show Except.ok _ = _
  simp (disch := decide) only [fld_low, fld_high, Nat.reduceSub, fld_self]
theorem fnma (c : BitVec 1) (h : BitVec 1) (d : BitVec 7) (a : BitVec 7) (b : BitVec 7) : Statement (.fnma c h d a b) := by
  intro w0 he
  obtain rfl := Option.some.inj he
  refine (decode_1 (by simp (disch := decide) only [fld_low, fld_high]; rfl)).trans ?_
  unfold decodeClass1
  rw [show fld (c ++ 37#9 ++ h ++ d ++ a ++ b : BitVec 32) 22 5 = 5#5 from by simp (disch := decide) only [fld_low, fld_high]; rfl]
  show Except.ok _ = _
  simp (disch := decide) only [fld_low, fld_high, Nat.reduceSub, fld_self]
theorem fmin (c : BitVec 1) (h : BitVec 1) (d : BitVec 7) (a : BitVec 7) (b : BitVec 7) : Statement (.fmin c h d a b) := by
  intro w0 he
  obtain rfl := Option.some.inj he
  refine (decode_1 (by simp (disch := decide) only [fld_low, fld_high]; rfl)).trans ?_
  unfold decodeClass1
  rw [show fld (c ++ 38#9 ++ h ++ d ++ a ++ b : BitVec 32) 22 5 = 6#5 from by simp (disch := decide) only [fld_low, fld_high]; rfl]
  show Except.ok _ = _
  simp (disch := decide) only [fld_low, fld_high, Nat.reduceSub, fld_self]
theorem fminn (c : BitVec 1) (h : BitVec 1) (d : BitVec 7) (a : BitVec 7) (b : BitVec 7) : Statement (.fminn c h d a b) := by
  intro w0 he
  obtain rfl := Option.some.inj he
  refine (decode_1 (by simp (disch := decide) only [fld_low, fld_high]; rfl)).trans ?_
  unfold decodeClass1
  rw [show fld (c ++ 39#9 ++ h ++ d ++ a ++ b : BitVec 32) 22 5 = 7#5 from by simp (disch := decide) only [fld_low, fld_high]; rfl]
  show Except.ok _ = _
  simp (disch := decide) only [fld_low, fld_high, Nat.reduceSub, fld_self]
theorem fmax (c : BitVec 1) (h : BitVec 1) (d : BitVec 7) (a : BitVec 7) (b : BitVec 7) : Statement (.fmax c h d a b) := by
  intro w0 he
  obtain rfl := Option.some.inj he
  refine (decode_1 (by simp (disch := decide) only [fld_low, fld_high]; rfl)).trans ?_
  unfold decodeClass1
  rw [show fld (c ++ 40#9 ++ h ++ d ++ a ++ b : BitVec 32) 22 5 = 8#5 from by simp (disch := decide) only [fld_low, fld_high]; rfl]
  show Except.ok _ = _
  simp (disch := decide) only [fld_low, fld_high, Nat.reduceSub, fld_self]
theorem fmaxn (c : BitVec 1) (h : BitVec 1) (d : BitVec 7) (a : BitVec 7) (b : BitVec 7) : Statement (.fmaxn c h d a b) := by
  intro w0 he
  obtain rfl := Option.some.inj he
  refine (decode_1 (by simp (disch := decide) only [fld_low, fld_high]; rfl)).trans ?_
  unfold decodeClass1
  rw [show fld (c ++ 41#9 ++ h ++ d ++ a ++ b : BitVec 32) 22 5 = 9#5 from by simp (disch := decide) only [fld_low, fld_high]; rfl]
  show Except.ok _ = _
  simp (disch := decide) only [fld_low, fld_high, Nat.reduceSub, fld_self]
theorem fcmp (c : BitVec 1) (h : BitVec 1) (k : BitVec 4) (a : BitVec 7) (b : BitVec 7) : Statement (.fcmp c h k a b) := by
  intro w0 he
  obtain rfl := Option.some.inj he
  refine (decode_1 (by simp (disch := decide) only [fld_low, fld_high]; rfl)).trans ?_
  unfold decodeClass1
  rw [show fld (c ++ 42#9 ++ h ++ 0#3 ++ k ++ a ++ b : BitVec 32) 22 5 = 10#5 from by simp (disch := decide) only [fld_low, fld_high]; rfl]
  show (if _ then _ else _) = _
  rw [if_pos ((show fld (c ++ 42#9 ++ h ++ 0#3 ++ k ++ a ++ b : BitVec 32) 18 3 = 0 from by simp (disch := decide) only [fld_low, fld_high]; rfl))]
  simp (disch := decide) only [fld_low, fld_high, Nat.reduceSub, fld_self]
theorem fclass (c : BitVec 1) (h : BitVec 1) (d : BitVec 7) (a : BitVec 7) : Statement (.fclass c h d a) := by
  intro w0 he
  obtain rfl := Option.some.inj he
  refine (decode_1 (by simp (disch := decide) only [fld_low, fld_high]; rfl)).trans ?_
  unfold decodeClass1
  rw [show fld (c ++ 43#9 ++ h ++ d ++ a ++ 0#7 : BitVec 32) 22 5 = 11#5 from by simp (disch := decide) only [fld_low, fld_high]; rfl]
  show (if _ then _ else _) = _
  rw [if_pos ((show fld (c ++ 43#9 ++ h ++ d ++ a ++ 0#7 : BitVec 32) 0 7 = 0 from by simp (disch := decide) only [fld_low, fld_high]; rfl))]
  simp (disch := decide) only [fld_low, fld_high, Nat.reduceSub, fld_self]
theorem fcpsgn (c : BitVec 1) (h : BitVec 1) (d : BitVec 7) (a : BitVec 7) (b : BitVec 7) : Statement (.fcpsgn c h d a b) := by
  intro w0 he
  obtain rfl := Option.some.inj he
  refine (decode_1 (by simp (disch := decide) only [fld_low, fld_high]; rfl)).trans ?_
  unfold decodeClass1
  rw [show fld (c ++ 44#9 ++ h ++ d ++ a ++ b : BitVec 32) 22 5 = 12#5 from by simp (disch := decide) only [fld_low, fld_high]; rfl]
  show Except.ok _ = _
  simp (disch := decide) only [fld_low, fld_high, Nat.reduceSub, fld_self]
theorem frnd (c : BitVec 1) (h : BitVec 1) (d : BitVec 7) (a : BitVec 7) : Statement (.frnd c h d a) := by
  intro w0 he
  obtain rfl := Option.some.inj he
  refine (decode_1 (by simp (disch := decide) only [fld_low, fld_high]; rfl)).trans ?_
  unfold decodeClass1
  rw [show fld (c ++ 45#9 ++ h ++ d ++ a ++ 0#7 : BitVec 32) 22 5 = 13#5 from by simp (disch := decide) only [fld_low, fld_high]; rfl]
  show (if _ then _ else _) = _
  rw [if_pos ((show fld (c ++ 45#9 ++ h ++ d ++ a ++ 0#7 : BitVec 32) 0 7 = 0 from by simp (disch := decide) only [fld_low, fld_high]; rfl))]
  simp (disch := decide) only [fld_low, fld_high, Nat.reduceSub, fld_self]
theorem ffract (c : BitVec 1) (h : BitVec 1) (d : BitVec 7) (a : BitVec 7) : Statement (.ffract c h d a) := by
  intro w0 he
  obtain rfl := Option.some.inj he
  refine (decode_1 (by simp (disch := decide) only [fld_low, fld_high]; rfl)).trans ?_
  unfold decodeClass1
  rw [show fld (c ++ 46#9 ++ h ++ d ++ a ++ 0#7 : BitVec 32) 22 5 = 14#5 from by simp (disch := decide) only [fld_low, fld_high]; rfl]
  show (if _ then _ else _) = _
  rw [if_pos ((show fld (c ++ 46#9 ++ h ++ d ++ a ++ 0#7 : BitVec 32) 0 7 = 0 from by simp (disch := decide) only [fld_low, fld_high]; rfl))]
  simp (disch := decide) only [fld_low, fld_high, Nat.reduceSub, fld_self]
theorem fsat (c : BitVec 1) (h : BitVec 1) (d : BitVec 7) (a : BitVec 7) : Statement (.fsat c h d a) := by
  intro w0 he
  obtain rfl := Option.some.inj he
  refine (decode_1 (by simp (disch := decide) only [fld_low, fld_high]; rfl)).trans ?_
  unfold decodeClass1
  rw [show fld (c ++ 47#9 ++ h ++ d ++ a ++ 0#7 : BitVec 32) 22 5 = 15#5 from by simp (disch := decide) only [fld_low, fld_high]; rfl]
  show (if _ then _ else _) = _
  rw [if_pos ((show fld (c ++ 47#9 ++ h ++ d ++ a ++ 0#7 : BitVec 32) 0 7 = 0 from by simp (disch := decide) only [fld_low, fld_high]; rfl))]
  simp (disch := decide) only [fld_low, fld_high, Nat.reduceSub, fld_self]
theorem flerp (c : BitVec 1) (h : BitVec 1) (d : BitVec 7) (a : BitVec 7) (b : BitVec 7) : Statement (.flerp c h d a b) := by
  intro w0 he
  obtain rfl := Option.some.inj he
  refine (decode_1 (by simp (disch := decide) only [fld_low, fld_high]; rfl)).trans ?_
  unfold decodeClass1
  rw [show fld (c ++ 48#9 ++ h ++ d ++ a ++ b : BitVec 32) 22 5 = 16#5 from by simp (disch := decide) only [fld_low, fld_high]; rfl]
  show Except.ok _ = _
  simp (disch := decide) only [fld_low, fld_high, Nat.reduceSub, fld_self]
theorem fmed3 (c : BitVec 1) (h : BitVec 1) (d : BitVec 7) (a : BitVec 7) (b : BitVec 7) : Statement (.fmed3 c h d a b) := by
  intro w0 he
  obtain rfl := Option.some.inj he
  refine (decode_1 (by simp (disch := decide) only [fld_low, fld_high]; rfl)).trans ?_
  unfold decodeClass1
  rw [show fld (c ++ 49#9 ++ h ++ d ++ a ++ b : BitVec 32) 22 5 = 17#5 from by simp (disch := decide) only [fld_low, fld_high]; rfl]
  show Except.ok _ = _
  simp (disch := decide) only [fld_low, fld_high, Nat.reduceSub, fld_self]
theorem hadd2 (c : BitVec 1) (h : BitVec 1) (d : BitVec 7) (a : BitVec 7) (b : BitVec 7) : Statement (.hadd2 c h d a b) := by
  intro w0 he
  obtain rfl := Option.some.inj he
  refine (decode_1 (by simp (disch := decide) only [fld_low, fld_high]; rfl)).trans ?_
  unfold decodeClass1
  rw [show fld (c ++ 50#9 ++ h ++ d ++ a ++ b : BitVec 32) 22 5 = 18#5 from by simp (disch := decide) only [fld_low, fld_high]; rfl]
  show Except.ok _ = _
  simp (disch := decide) only [fld_low, fld_high, Nat.reduceSub, fld_self]
theorem hmul2 (c : BitVec 1) (h : BitVec 1) (d : BitVec 7) (a : BitVec 7) (b : BitVec 7) : Statement (.hmul2 c h d a b) := by
  intro w0 he
  obtain rfl := Option.some.inj he
  refine (decode_1 (by simp (disch := decide) only [fld_low, fld_high]; rfl)).trans ?_
  unfold decodeClass1
  rw [show fld (c ++ 51#9 ++ h ++ d ++ a ++ b : BitVec 32) 22 5 = 19#5 from by simp (disch := decide) only [fld_low, fld_high]; rfl]
  show Except.ok _ = _
  simp (disch := decide) only [fld_low, fld_high, Nat.reduceSub, fld_self]
theorem hfma2 (c : BitVec 1) (h : BitVec 1) (d : BitVec 7) (a : BitVec 7) (b : BitVec 7) : Statement (.hfma2 c h d a b) := by
  intro w0 he
  obtain rfl := Option.some.inj he
  refine (decode_1 (by simp (disch := decide) only [fld_low, fld_high]; rfl)).trans ?_
  unfold decodeClass1
  rw [show fld (c ++ 52#9 ++ h ++ d ++ a ++ b : BitVec 32) 22 5 = 20#5 from by simp (disch := decide) only [fld_low, fld_high]; rfl]
  show Except.ok _ = _
  simp (disch := decide) only [fld_low, fld_high, Nat.reduceSub, fld_self]
theorem badd2 (c : BitVec 1) (h : BitVec 1) (d : BitVec 7) (a : BitVec 7) (b : BitVec 7) : Statement (.badd2 c h d a b) := by
  intro w0 he
  obtain rfl := Option.some.inj he
  refine (decode_1 (by simp (disch := decide) only [fld_low, fld_high]; rfl)).trans ?_
  unfold decodeClass1
  rw [show fld (c ++ 53#9 ++ h ++ d ++ a ++ b : BitVec 32) 22 5 = 21#5 from by simp (disch := decide) only [fld_low, fld_high]; rfl]
  show Except.ok _ = _
  simp (disch := decide) only [fld_low, fld_high, Nat.reduceSub, fld_self]
theorem bmul2 (c : BitVec 1) (h : BitVec 1) (d : BitVec 7) (a : BitVec 7) (b : BitVec 7) : Statement (.bmul2 c h d a b) := by
  intro w0 he
  obtain rfl := Option.some.inj he
  refine (decode_1 (by simp (disch := decide) only [fld_low, fld_high]; rfl)).trans ?_
  unfold decodeClass1
  rw [show fld (c ++ 54#9 ++ h ++ d ++ a ++ b : BitVec 32) 22 5 = 22#5 from by simp (disch := decide) only [fld_low, fld_high]; rfl]
  show Except.ok _ = _
  simp (disch := decide) only [fld_low, fld_high, Nat.reduceSub, fld_self]
theorem bfma2 (c : BitVec 1) (h : BitVec 1) (d : BitVec 7) (a : BitVec 7) (b : BitVec 7) : Statement (.bfma2 c h d a b) := by
  intro w0 he
  obtain rfl := Option.some.inj he
  refine (decode_1 (by simp (disch := decide) only [fld_low, fld_high]; rfl)).trans ?_
  unfold decodeClass1
  rw [show fld (c ++ 55#9 ++ h ++ d ++ a ++ b : BitVec 32) 22 5 = 23#5 from by simp (disch := decide) only [fld_low, fld_high]; rfl]
  show Except.ok _ = _
  simp (disch := decide) only [fld_low, fld_high, Nat.reduceSub, fld_self]
theorem fdot2h (c : BitVec 1) (h : BitVec 1) (d : BitVec 7) (a : BitVec 7) (b : BitVec 7) : Statement (.fdot2h c h d a b) := by
  intro w0 he
  obtain rfl := Option.some.inj he
  refine (decode_1 (by simp (disch := decide) only [fld_low, fld_high]; rfl)).trans ?_
  unfold decodeClass1
  rw [show fld (c ++ 56#9 ++ h ++ d ++ a ++ b : BitVec 32) 22 5 = 24#5 from by simp (disch := decide) only [fld_low, fld_high]; rfl]
  show Except.ok _ = _
  simp (disch := decide) only [fld_low, fld_high, Nat.reduceSub, fld_self]
theorem fdot2b (c : BitVec 1) (h : BitVec 1) (d : BitVec 7) (a : BitVec 7) (b : BitVec 7) : Statement (.fdot2b c h d a b) := by
  intro w0 he
  obtain rfl := Option.some.inj he
  refine (decode_1 (by simp (disch := decide) only [fld_low, fld_high]; rfl)).trans ?_
  unfold decodeClass1
  rw [show fld (c ++ 57#9 ++ h ++ d ++ a ++ b : BitVec 32) 22 5 = 25#5 from by simp (disch := decide) only [fld_low, fld_high]; rfl]
  show Except.ok _ = _
  simp (disch := decide) only [fld_low, fld_high, Nat.reduceSub, fld_self]
theorem iaddi (c : BitVec 1) (d : BitVec 7) (a : BitVec 7) (i : BitVec 8) : Statement (.iaddi c d a i) := by
  intro w0 he
  obtain rfl := Option.some.inj he
  refine (decode_2 (by simp (disch := decide) only [fld_low, fld_high]; rfl)).trans ?_
  unfold decodeClass2
  rw [show fld (c ++ 64#9 ++ d ++ a ++ i : BitVec 32) 22 5 = 0#5 from by simp (disch := decide) only [fld_low, fld_high]; rfl]
  show Except.ok _ = _
  simp (disch := decide) only [fld_low, fld_high, Nat.reduceSub, fld_self]
theorem imuli (c : BitVec 1) (d : BitVec 7) (a : BitVec 7) (i : BitVec 8) : Statement (.imuli c d a i) := by
  intro w0 he
  obtain rfl := Option.some.inj he
  refine (decode_2 (by simp (disch := decide) only [fld_low, fld_high]; rfl)).trans ?_
  unfold decodeClass2
  rw [show fld (c ++ 65#9 ++ d ++ a ++ i : BitVec 32) 22 5 = 1#5 from by simp (disch := decide) only [fld_low, fld_high]; rfl]
  show Except.ok _ = _
  simp (disch := decide) only [fld_low, fld_high, Nat.reduceSub, fld_self]
theorem andi (c : BitVec 1) (d : BitVec 7) (a : BitVec 7) (i : BitVec 8) : Statement (.andi c d a i) := by
  intro w0 he
  obtain rfl := Option.some.inj he
  refine (decode_2 (by simp (disch := decide) only [fld_low, fld_high]; rfl)).trans ?_
  unfold decodeClass2
  rw [show fld (c ++ 66#9 ++ d ++ a ++ i : BitVec 32) 22 5 = 2#5 from by simp (disch := decide) only [fld_low, fld_high]; rfl]
  show Except.ok _ = _
  simp (disch := decide) only [fld_low, fld_high, Nat.reduceSub, fld_self]
theorem ori (c : BitVec 1) (d : BitVec 7) (a : BitVec 7) (i : BitVec 8) : Statement (.ori c d a i) := by
  intro w0 he
  obtain rfl := Option.some.inj he
  refine (decode_2 (by simp (disch := decide) only [fld_low, fld_high]; rfl)).trans ?_
  unfold decodeClass2
  rw [show fld (c ++ 67#9 ++ d ++ a ++ i : BitVec 32) 22 5 = 3#5 from by simp (disch := decide) only [fld_low, fld_high]; rfl]
  show Except.ok _ = _
  simp (disch := decide) only [fld_low, fld_high, Nat.reduceSub, fld_self]
theorem xori (c : BitVec 1) (d : BitVec 7) (a : BitVec 7) (i : BitVec 8) : Statement (.xori c d a i) := by
  intro w0 he
  obtain rfl := Option.some.inj he
  refine (decode_2 (by simp (disch := decide) only [fld_low, fld_high]; rfl)).trans ?_
  unfold decodeClass2
  rw [show fld (c ++ 68#9 ++ d ++ a ++ i : BitVec 32) 22 5 = 4#5 from by simp (disch := decide) only [fld_low, fld_high]; rfl]
  show Except.ok _ = _
  simp (disch := decide) only [fld_low, fld_high, Nat.reduceSub, fld_self]
theorem shli (c : BitVec 1) (d : BitVec 7) (a : BitVec 7) (i : BitVec 8) : Statement (.shli c d a i) := by
  intro w0 he
  obtain rfl := Option.some.inj he
  refine (decode_2 (by simp (disch := decide) only [fld_low, fld_high]; rfl)).trans ?_
  unfold decodeClass2
  rw [show fld (c ++ 69#9 ++ d ++ a ++ i : BitVec 32) 22 5 = 5#5 from by simp (disch := decide) only [fld_low, fld_high]; rfl]
  show Except.ok _ = _
  simp (disch := decide) only [fld_low, fld_high, Nat.reduceSub, fld_self]
theorem shri (c : BitVec 1) (d : BitVec 7) (a : BitVec 7) (i : BitVec 8) : Statement (.shri c d a i) := by
  intro w0 he
  obtain rfl := Option.some.inj he
  refine (decode_2 (by simp (disch := decide) only [fld_low, fld_high]; rfl)).trans ?_
  unfold decodeClass2
  rw [show fld (c ++ 70#9 ++ d ++ a ++ i : BitVec 32) 22 5 = 6#5 from by simp (disch := decide) only [fld_low, fld_high]; rfl]
  show Except.ok _ = _
  simp (disch := decide) only [fld_low, fld_high, Nat.reduceSub, fld_self]
theorem sari (c : BitVec 1) (d : BitVec 7) (a : BitVec 7) (i : BitVec 8) : Statement (.sari c d a i) := by
  intro w0 he
  obtain rfl := Option.some.inj he
  refine (decode_2 (by simp (disch := decide) only [fld_low, fld_high]; rfl)).trans ?_
  unfold decodeClass2
  rw [show fld (c ++ 71#9 ++ d ++ a ++ i : BitVec 32) 22 5 = 7#5 from by simp (disch := decide) only [fld_low, fld_high]; rfl]
  show Except.ok _ = _
  simp (disch := decide) only [fld_low, fld_high, Nat.reduceSub, fld_self]
theorem icmpi (c : BitVec 1) (k : BitVec 4) (a : BitVec 7) (i : BitVec 8) : Statement (.icmpi c k a i) := by
  intro w0 he
  obtain rfl := Option.some.inj he
  refine (decode_2 (by simp (disch := decide) only [fld_low, fld_high]; rfl)).trans ?_
  unfold decodeClass2
  rw [show fld (c ++ 576#12 ++ k ++ a ++ i : BitVec 32) 22 5 = 8#5 from by simp (disch := decide) only [fld_low, fld_high]; rfl]
  show (if _ then _ else _) = _
  rw [if_pos ((show fld (c ++ 576#12 ++ k ++ a ++ i : BitVec 32) 19 3 = 0 from by simp (disch := decide) only [fld_low, fld_high]; rfl))]
  simp (disch := decide) only [fld_low, fld_high, Nat.reduceSub, fld_self]
theorem movi (c : BitVec 1) (d : BitVec 7) (i : BitVec 8) : Statement (.movi c d i) := by
  intro w0 he
  obtain rfl := Option.some.inj he
  refine (decode_2 (by simp (disch := decide) only [fld_low, fld_high]; rfl)).trans ?_
  unfold decodeClass2
  rw [show fld (c ++ 73#9 ++ d ++ 0#7 ++ i : BitVec 32) 22 5 = 9#5 from by simp (disch := decide) only [fld_low, fld_high]; rfl]
  show (if _ then _ else _) = _
  rw [if_pos ((show fld (c ++ 73#9 ++ d ++ 0#7 ++ i : BitVec 32) 8 7 = 0 from by simp (disch := decide) only [fld_low, fld_high]; rfl))]
  simp (disch := decide) only [fld_low, fld_high, Nat.reduceSub, fld_self]
theorem laneidx (c : BitVec 1) (d : BitVec 7) (a : BitVec 7) (i : BitVec 8) : Statement (.laneidx c d a i) := by
  intro w0 he
  obtain rfl := Option.some.inj he
  refine (decode_2 (by simp (disch := decide) only [fld_low, fld_high]; rfl)).trans ?_
  unfold decodeClass2
  rw [show fld (c ++ 74#9 ++ d ++ a ++ i : BitVec 32) 22 5 = 10#5 from by simp (disch := decide) only [fld_low, fld_high]; rfl]
  show Except.ok _ = _
  simp (disch := decide) only [fld_low, fld_high, Nat.reduceSub, fld_self]
theorem fmuli (c : BitVec 1) (d : BitVec 7) (a : BitVec 7) (i : BitVec 8) : Statement (.fmuli c d a i) := by
  intro w0 he
  obtain rfl := Option.some.inj he
  refine (decode_2 (by simp (disch := decide) only [fld_low, fld_high]; rfl)).trans ?_
  unfold decodeClass2
  rw [show fld (c ++ 75#9 ++ d ++ a ++ i : BitVec 32) 22 5 = 11#5 from by simp (disch := decide) only [fld_low, fld_high]; rfl]
  show Except.ok _ = _
  simp (disch := decide) only [fld_low, fld_high, Nat.reduceSub, fld_self]
theorem faddi (c : BitVec 1) (d : BitVec 7) (a : BitVec 7) (i : BitVec 8) : Statement (.faddi c d a i) := by
  intro w0 he
  obtain rfl := Option.some.inj he
  refine (decode_2 (by simp (disch := decide) only [fld_low, fld_high]; rfl)).trans ?_
  unfold decodeClass2
  rw [show fld (c ++ 76#9 ++ d ++ a ++ i : BitVec 32) 22 5 = 12#5 from by simp (disch := decide) only [fld_low, fld_high]; rfl]
  show Except.ok _ = _
  simp (disch := decide) only [fld_low, fld_high, Nat.reduceSub, fld_self]
theorem iminiS (c : BitVec 1) (d : BitVec 7) (a : BitVec 7) (i : BitVec 8) : Statement (.iminiS c d a i) := by
  intro w0 he
  obtain rfl := Option.some.inj he
  refine (decode_2 (by simp (disch := decide) only [fld_low, fld_high]; rfl)).trans ?_
  unfold decodeClass2
  rw [show fld (c ++ 77#9 ++ d ++ a ++ i : BitVec 32) 22 5 = 13#5 from by simp (disch := decide) only [fld_low, fld_high]; rfl]
  show Except.ok _ = _
  simp (disch := decide) only [fld_low, fld_high, Nat.reduceSub, fld_self]
theorem imaxiS (c : BitVec 1) (d : BitVec 7) (a : BitVec 7) (i : BitVec 8) : Statement (.imaxiS c d a i) := by
  intro w0 he
  obtain rfl := Option.some.inj he
  refine (decode_2 (by simp (disch := decide) only [fld_low, fld_high]; rfl)).trans ?_
  unfold decodeClass2
  rw [show fld (c ++ 78#9 ++ d ++ a ++ i : BitVec 32) 22 5 = 14#5 from by simp (disch := decide) only [fld_low, fld_high]; rfl]
  show Except.ok _ = _
  simp (disch := decide) only [fld_low, fld_high, Nat.reduceSub, fld_self]
theorem wadd (c : BitVec 1) (d : BitVec 8) (a : BitVec 8) (b : BitVec 6) : Statement (.wadd c d a b) := by
  intro w0 he
  obtain rfl := Option.some.inj he
  refine (decode_3 (by simp (disch := decide) only [fld_low, fld_high]; rfl)).trans ?_
  unfold decodeClass3
  rw [show fld (c ++ 96#9 ++ d ++ a ++ b : BitVec 32) 22 5 = 0#5 from by simp (disch := decide) only [fld_low, fld_high]; rfl]
  show Except.ok _ = _
  simp (disch := decide) only [fld_low, fld_high, Nat.reduceSub, fld_self]
theorem wsub (c : BitVec 1) (d : BitVec 8) (a : BitVec 8) (b : BitVec 6) : Statement (.wsub c d a b) := by
  intro w0 he
  obtain rfl := Option.some.inj he
  refine (decode_3 (by simp (disch := decide) only [fld_low, fld_high]; rfl)).trans ?_
  unfold decodeClass3
  rw [show fld (c ++ 97#9 ++ d ++ a ++ b : BitVec 32) 22 5 = 1#5 from by simp (disch := decide) only [fld_low, fld_high]; rfl]
  show Except.ok _ = _
  simp (disch := decide) only [fld_low, fld_high, Nat.reduceSub, fld_self]
theorem wmul (c : BitVec 1) (d : BitVec 8) (a : BitVec 8) (b : BitVec 6) : Statement (.wmul c d a b) := by
  intro w0 he
  obtain rfl := Option.some.inj he
  refine (decode_3 (by simp (disch := decide) only [fld_low, fld_high]; rfl)).trans ?_
  unfold decodeClass3
  rw [show fld (c ++ 98#9 ++ d ++ a ++ b : BitVec 32) 22 5 = 2#5 from by simp (disch := decide) only [fld_low, fld_high]; rfl]
  show Except.ok _ = _
  simp (disch := decide) only [fld_low, fld_high, Nat.reduceSub, fld_self]
theorem wand (c : BitVec 1) (d : BitVec 8) (a : BitVec 8) (b : BitVec 6) : Statement (.wand c d a b) := by
  intro w0 he
  obtain rfl := Option.some.inj he
  refine (decode_3 (by simp (disch := decide) only [fld_low, fld_high]; rfl)).trans ?_
  unfold decodeClass3
  rw [show fld (c ++ 99#9 ++ d ++ a ++ b : BitVec 32) 22 5 = 3#5 from by simp (disch := decide) only [fld_low, fld_high]; rfl]
  show Except.ok _ = _
  simp (disch := decide) only [fld_low, fld_high, Nat.reduceSub, fld_self]
theorem wor (c : BitVec 1) (d : BitVec 8) (a : BitVec 8) (b : BitVec 6) : Statement (.wor c d a b) := by
  intro w0 he
  obtain rfl := Option.some.inj he
  refine (decode_3 (by simp (disch := decide) only [fld_low, fld_high]; rfl)).trans ?_
  unfold decodeClass3
  rw [show fld (c ++ 100#9 ++ d ++ a ++ b : BitVec 32) 22 5 = 4#5 from by simp (disch := decide) only [fld_low, fld_high]; rfl]
  show Except.ok _ = _
  simp (disch := decide) only [fld_low, fld_high, Nat.reduceSub, fld_self]
theorem wxor (c : BitVec 1) (d : BitVec 8) (a : BitVec 8) (b : BitVec 6) : Statement (.wxor c d a b) := by
  intro w0 he
  obtain rfl := Option.some.inj he
  refine (decode_3 (by simp (disch := decide) only [fld_low, fld_high]; rfl)).trans ?_
  unfold decodeClass3
  rw [show fld (c ++ 101#9 ++ d ++ a ++ b : BitVec 32) 22 5 = 5#5 from by simp (disch := decide) only [fld_low, fld_high]; rfl]
  show Except.ok _ = _
  simp (disch := decide) only [fld_low, fld_high, Nat.reduceSub, fld_self]
theorem wshl (c : BitVec 1) (d : BitVec 8) (a : BitVec 8) (b : BitVec 6) : Statement (.wshl c d a b) := by
  intro w0 he
  obtain rfl := Option.some.inj he
  refine (decode_3 (by simp (disch := decide) only [fld_low, fld_high]; rfl)).trans ?_
  unfold decodeClass3
  rw [show fld (c ++ 102#9 ++ d ++ a ++ b : BitVec 32) 22 5 = 6#5 from by simp (disch := decide) only [fld_low, fld_high]; rfl]
  show Except.ok _ = _
  simp (disch := decide) only [fld_low, fld_high, Nat.reduceSub, fld_self]
theorem wshr (c : BitVec 1) (d : BitVec 8) (a : BitVec 8) (b : BitVec 6) : Statement (.wshr c d a b) := by
  intro w0 he
  obtain rfl := Option.some.inj he
  refine (decode_3 (by simp (disch := decide) only [fld_low, fld_high]; rfl)).trans ?_
  unfold decodeClass3
  rw [show fld (c ++ 103#9 ++ d ++ a ++ b : BitVec 32) 22 5 = 7#5 from by simp (disch := decide) only [fld_low, fld_high]; rfl]
  show Except.ok _ = _
  simp (disch := decide) only [fld_low, fld_high, Nat.reduceSub, fld_self]
theorem wsar (c : BitVec 1) (d : BitVec 8) (a : BitVec 8) (b : BitVec 6) : Statement (.wsar c d a b) := by
  intro w0 he
  obtain rfl := Option.some.inj he
  refine (decode_3 (by simp (disch := decide) only [fld_low, fld_high]; rfl)).trans ?_
  unfold decodeClass3
  rw [show fld (c ++ 104#9 ++ d ++ a ++ b : BitVec 32) 22 5 = 8#5 from by simp (disch := decide) only [fld_low, fld_high]; rfl]
  show Except.ok _ = _
  simp (disch := decide) only [fld_low, fld_high, Nat.reduceSub, fld_self]
theorem wcmp (c : BitVec 1) (k : BitVec 4) (a : BitVec 8) (b : BitVec 6) : Statement (.wcmp c k a b) := by
  intro w0 he
  obtain rfl := Option.some.inj he
  refine (decode_3 (by simp (disch := decide) only [fld_low, fld_high]; rfl)).trans ?_
  unfold decodeClass3
  rw [show fld (c ++ 1680#13 ++ k ++ a ++ b : BitVec 32) 22 5 = 9#5 from by simp (disch := decide) only [fld_low, fld_high]; rfl]
  show (if _ then _ else _) = _
  rw [if_pos ((show fld (c ++ 1680#13 ++ k ++ a ++ b : BitVec 32) 18 4 = 0 from by simp (disch := decide) only [fld_low, fld_high]; rfl))]
  simp (disch := decide) only [fld_low, fld_high, Nat.reduceSub, fld_self]
theorem wsel (c : BitVec 1) (d : BitVec 8) (a : BitVec 8) (b : BitVec 6) : Statement (.wsel c d a b) := by
  intro w0 he
  obtain rfl := Option.some.inj he
  refine (decode_3 (by simp (disch := decide) only [fld_low, fld_high]; rfl)).trans ?_
  unfold decodeClass3
  rw [show fld (c ++ 106#9 ++ d ++ a ++ b : BitVec 32) 22 5 = 10#5 from by simp (disch := decide) only [fld_low, fld_high]; rfl]
  show Except.ok _ = _
  simp (disch := decide) only [fld_low, fld_high, Nat.reduceSub, fld_self]
theorem wmov (c : BitVec 1) (d : BitVec 8) (a : BitVec 8) : Statement (.wmov c d a) := by
  intro w0 he
  obtain rfl := Option.some.inj he
  refine (decode_3 (by simp (disch := decide) only [fld_low, fld_high]; rfl)).trans ?_
  unfold decodeClass3
  rw [show fld (c ++ 107#9 ++ d ++ a ++ 0#6 : BitVec 32) 22 5 = 11#5 from by simp (disch := decide) only [fld_low, fld_high]; rfl]
  show (if _ then _ else _) = _
  rw [if_pos ((show fld (c ++ 107#9 ++ d ++ a ++ 0#6 : BitVec 32) 0 6 = 0 from by simp (disch := decide) only [fld_low, fld_high]; rfl))]
  simp (disch := decide) only [fld_low, fld_high, Nat.reduceSub, fld_self]
theorem wli (c : BitVec 1) (d : BitVec 8) (i : BitVec 14) : Statement (.wli c d i) := by
  intro w0 he
  obtain rfl := Option.some.inj he
  refine (decode_3 (by simp (disch := decide) only [fld_low, fld_high]; rfl)).trans ?_
  unfold decodeClass3
  rw [show fld (c ++ 108#9 ++ d ++ i : BitVec 32) 22 5 = 12#5 from by simp (disch := decide) only [fld_low, fld_high]; rfl]
  show Except.ok _ = _
  simp (disch := decide) only [fld_low, fld_high, Nat.reduceSub, fld_self]
theorem wlih (c : BitVec 1) (d : BitVec 8) (i : BitVec 14) : Statement (.wlih c d i) := by
  intro w0 he
  obtain rfl := Option.some.inj he
  refine (decode_3 (by simp (disch := decide) only [fld_low, fld_high]; rfl)).trans ?_
  unfold decodeClass3
  rw [show fld (c ++ 109#9 ++ d ++ i : BitVec 32) 22 5 = 13#5 from by simp (disch := decide) only [fld_low, fld_high]; rfl]
  show Except.ok _ = _
  simp (disch := decide) only [fld_low, fld_high, Nat.reduceSub, fld_self]
theorem wadd64 (c : BitVec 1) (d : BitVec 8) (a : BitVec 8) (b : BitVec 6) : Statement (.wadd64 c d a b) := by
  intro w0 he
  obtain rfl := Option.some.inj he
  refine (decode_3 (by simp (disch := decide) only [fld_low, fld_high]; rfl)).trans ?_
  unfold decodeClass3
  rw [show fld (c ++ 110#9 ++ d ++ a ++ b : BitVec 32) 22 5 = 14#5 from by simp (disch := decide) only [fld_low, fld_high]; rfl]
  show Except.ok _ = _
  simp (disch := decide) only [fld_low, fld_high, Nat.reduceSub, fld_self]
theorem wtov (c : BitVec 1) (d : BitVec 7) (a : BitVec 8) : Statement (.wtov c d a) := by
  intro w0 he
  obtain rfl := Option.some.inj he
  refine (decode_3 (by simp (disch := decide) only [fld_low, fld_high]; rfl)).trans ?_
  unfold decodeClass3
  rw [show fld (c ++ 222#10 ++ d ++ a ++ 0#6 : BitVec 32) 22 5 = 15#5 from by simp (disch := decide) only [fld_low, fld_high]; rfl]
  show (if _ then _ else _) = _
  rw [if_pos (⟨(show fld (c ++ 222#10 ++ d ++ a ++ 0#6 : BitVec 32) 21 1 = 0 from by simp (disch := decide) only [fld_low, fld_high]; rfl), (show fld (c ++ 222#10 ++ d ++ a ++ 0#6 : BitVec 32) 0 6 = 0 from by simp (disch := decide) only [fld_low, fld_high]; rfl)⟩)]
  simp (disch := decide) only [fld_low, fld_high, Nat.reduceSub, fld_self]
theorem vtow (c : BitVec 1) (d : BitVec 8) (a : BitVec 7) (b : BitVec 6) : Statement (.vtow c d a b) := by
  intro w0 he
  obtain rfl := Option.some.inj he
  refine (decode_3 (by simp (disch := decide) only [fld_low, fld_high]; rfl)).trans ?_
  unfold decodeClass3
  rw [show fld (c ++ 112#9 ++ d ++ 0#1 ++ a ++ b : BitVec 32) 22 5 = 16#5 from by simp (disch := decide) only [fld_low, fld_high]; rfl]
  show (if _ then _ else _) = _
  rw [if_pos ((show fld (c ++ 112#9 ++ d ++ 0#1 ++ a ++ b : BitVec 32) 13 1 = 0 from by simp (disch := decide) only [fld_low, fld_high]; rfl))]
  simp (disch := decide) only [fld_low, fld_high, Nat.reduceSub, fld_self]
theorem waddi (c : BitVec 1) (d : BitVec 8) (a : BitVec 8) (i : BitVec 6) : Statement (.waddi c d a i) := by
  intro w0 he
  obtain rfl := Option.some.inj he
  refine (decode_3 (by simp (disch := decide) only [fld_low, fld_high]; rfl)).trans ?_
  unfold decodeClass3
  rw [show fld (c ++ 113#9 ++ d ++ a ++ i : BitVec 32) 22 5 = 17#5 from by simp (disch := decide) only [fld_low, fld_high]; rfl]
  show Except.ok _ = _
  simp (disch := decide) only [fld_low, fld_high, Nat.reduceSub, fld_self]
theorem wmin (c : BitVec 1) (d : BitVec 8) (a : BitVec 8) (b : BitVec 6) : Statement (.wmin c d a b) := by
  intro w0 he
  obtain rfl := Option.some.inj he
  refine (decode_3 (by simp (disch := decide) only [fld_low, fld_high]; rfl)).trans ?_
  unfold decodeClass3
  rw [show fld (c ++ 114#9 ++ d ++ a ++ b : BitVec 32) 22 5 = 18#5 from by simp (disch := decide) only [fld_low, fld_high]; rfl]
  show Except.ok _ = _
  simp (disch := decide) only [fld_low, fld_high, Nat.reduceSub, fld_self]
theorem wmax (c : BitVec 1) (d : BitVec 8) (a : BitVec 8) (b : BitVec 6) : Statement (.wmax c d a b) := by
  intro w0 he
  obtain rfl := Option.some.inj he
  refine (decode_3 (by simp (disch := decide) only [fld_low, fld_high]; rfl)).trans ?_
  unfold decodeClass3
  rw [show fld (c ++ 115#9 ++ d ++ a ++ b : BitVec 32) 22 5 = 19#5 from by simp (disch := decide) only [fld_low, fld_high]; rfl]
  show Except.ok _ = _
  simp (disch := decide) only [fld_low, fld_high, Nat.reduceSub, fld_self]
theorem shflIdx (c : BitVec 1) (h : BitVec 1) (d : BitVec 7) (a : BitVec 7) (b : BitVec 7) : Statement (.shflIdx c h d a b) := by
  intro w0 he
  obtain rfl := Option.some.inj he
  refine (decode_4 (by simp (disch := decide) only [fld_low, fld_high]; rfl)).trans ?_
  unfold decodeClass4
  rw [show fld (c ++ 128#9 ++ h ++ d ++ a ++ b : BitVec 32) 22 5 = 0#5 from by simp (disch := decide) only [fld_low, fld_high]; rfl]
  show Except.ok _ = _
  simp (disch := decide) only [fld_low, fld_high, Nat.reduceSub, fld_self]
theorem shflUp (c : BitVec 1) (h : BitVec 1) (d : BitVec 7) (a : BitVec 7) (b : BitVec 7) : Statement (.shflUp c h d a b) := by
  intro w0 he
  obtain rfl := Option.some.inj he
  refine (decode_4 (by simp (disch := decide) only [fld_low, fld_high]; rfl)).trans ?_
  unfold decodeClass4
  rw [show fld (c ++ 129#9 ++ h ++ d ++ a ++ b : BitVec 32) 22 5 = 1#5 from by simp (disch := decide) only [fld_low, fld_high]; rfl]
  show Except.ok _ = _
  simp (disch := decide) only [fld_low, fld_high, Nat.reduceSub, fld_self]
theorem shflDn (c : BitVec 1) (h : BitVec 1) (d : BitVec 7) (a : BitVec 7) (b : BitVec 7) : Statement (.shflDn c h d a b) := by
  intro w0 he
  obtain rfl := Option.some.inj he
  refine (decode_4 (by simp (disch := decide) only [fld_low, fld_high]; rfl)).trans ?_
  unfold decodeClass4
  rw [show fld (c ++ 130#9 ++ h ++ d ++ a ++ b : BitVec 32) 22 5 = 2#5 from by simp (disch := decide) only [fld_low, fld_high]; rfl]
  show Except.ok _ = _
  simp (disch := decide) only [fld_low, fld_high, Nat.reduceSub, fld_self]
theorem shflXor (c : BitVec 1) (h : BitVec 1) (d : BitVec 7) (a : BitVec 7) (b : BitVec 7) : Statement (.shflXor c h d a b) := by
  intro w0 he
  obtain rfl := Option.some.inj he
  refine (decode_4 (by simp (disch := decide) only [fld_low, fld_high]; rfl)).trans ?_
  unfold decodeClass4
  rw [show fld (c ++ 131#9 ++ h ++ d ++ a ++ b : BitVec 32) 22 5 = 3#5 from by simp (disch := decide) only [fld_low, fld_high]; rfl]
  show Except.ok _ = _
  simp (disch := decide) only [fld_low, fld_high, Nat.reduceSub, fld_self]
theorem voteAny (c : BitVec 1) (h : BitVec 1) (d : BitVec 7) (a : BitVec 7) : Statement (.voteAny c h d a) := by
  intro w0 he
  obtain rfl := Option.some.inj he
  refine (decode_4 (by simp (disch := decide) only [fld_low, fld_high]; rfl)).trans ?_
  unfold decodeClass4
  rw [show fld (c ++ 132#9 ++ h ++ d ++ a ++ 0#7 : BitVec 32) 22 5 = 4#5 from by simp (disch := decide) only [fld_low, fld_high]; rfl]
  show (if _ then _ else _) = _
  rw [if_pos ((show fld (c ++ 132#9 ++ h ++ d ++ a ++ 0#7 : BitVec 32) 0 7 = 0 from by simp (disch := decide) only [fld_low, fld_high]; rfl))]
  simp (disch := decide) only [fld_low, fld_high, Nat.reduceSub, fld_self]
theorem voteAll (c : BitVec 1) (h : BitVec 1) (d : BitVec 7) (a : BitVec 7) : Statement (.voteAll c h d a) := by
  intro w0 he
  obtain rfl := Option.some.inj he
  refine (decode_4 (by simp (disch := decide) only [fld_low, fld_high]; rfl)).trans ?_
  unfold decodeClass4
  rw [show fld (c ++ 133#9 ++ h ++ d ++ a ++ 0#7 : BitVec 32) 22 5 = 5#5 from by simp (disch := decide) only [fld_low, fld_high]; rfl]
  show (if _ then _ else _) = _
  rw [if_pos ((show fld (c ++ 133#9 ++ h ++ d ++ a ++ 0#7 : BitVec 32) 0 7 = 0 from by simp (disch := decide) only [fld_low, fld_high]; rfl))]
  simp (disch := decide) only [fld_low, fld_high, Nat.reduceSub, fld_self]
theorem ballot (c : BitVec 1) (h : BitVec 1) (d : BitVec 3) (a : BitVec 7) : Statement (.ballot c h d a) := by
  intro w0 he
  obtain rfl := Option.some.inj he
  refine (decode_4 (by simp (disch := decide) only [fld_low, fld_high]; rfl)).trans ?_
  unfold decodeClass4
  rw [show fld (c ++ 134#9 ++ h ++ 0#4 ++ d ++ a ++ 0#7 : BitVec 32) 22 5 = 6#5 from by simp (disch := decide) only [fld_low, fld_high]; rfl]
  show (if _ then _ else _) = _
  rw [if_pos (⟨(show fld (c ++ 134#9 ++ h ++ 0#4 ++ d ++ a ++ 0#7 : BitVec 32) 17 4 = 0 from by simp (disch := decide) only [fld_low, fld_high]; rfl), (show fld (c ++ 134#9 ++ h ++ 0#4 ++ d ++ a ++ 0#7 : BitVec 32) 0 7 = 0 from by simp (disch := decide) only [fld_low, fld_high]; rfl)⟩)]
  simp (disch := decide) only [fld_low, fld_high, Nat.reduceSub, fld_self]
theorem matchLanes (c : BitVec 1) (h : BitVec 1) (d : BitVec 7) (a : BitVec 7) : Statement (.matchLanes c h d a) := by
  intro w0 he
  obtain rfl := Option.some.inj he
  refine (decode_4 (by simp (disch := decide) only [fld_low, fld_high]; rfl)).trans ?_
  unfold decodeClass4
  rw [show fld (c ++ 135#9 ++ h ++ d ++ a ++ 0#7 : BitVec 32) 22 5 = 7#5 from by simp (disch := decide) only [fld_low, fld_high]; rfl]
  show (if _ then _ else _) = _
  rw [if_pos ((show fld (c ++ 135#9 ++ h ++ d ++ a ++ 0#7 : BitVec 32) 0 7 = 0 from by simp (disch := decide) only [fld_low, fld_high]; rfl))]
  simp (disch := decide) only [fld_low, fld_high, Nat.reduceSub, fld_self]
theorem redAdd (c : BitVec 1) (h : BitVec 1) (d : BitVec 7) (a : BitVec 7) (b : BitVec 7) : Statement (.redAdd c h d a b) := by
  intro w0 he
  obtain rfl := Option.some.inj he
  refine (decode_4 (by simp (disch := decide) only [fld_low, fld_high]; rfl)).trans ?_
  unfold decodeClass4
  rw [show fld (c ++ 136#9 ++ h ++ d ++ a ++ b : BitVec 32) 22 5 = 8#5 from by simp (disch := decide) only [fld_low, fld_high]; rfl]
  show Except.ok _ = _
  simp (disch := decide) only [fld_low, fld_high, Nat.reduceSub, fld_self]
theorem redMinS (c : BitVec 1) (h : BitVec 1) (d : BitVec 7) (a : BitVec 7) (b : BitVec 7) : Statement (.redMinS c h d a b) := by
  intro w0 he
  obtain rfl := Option.some.inj he
  refine (decode_4 (by simp (disch := decide) only [fld_low, fld_high]; rfl)).trans ?_
  unfold decodeClass4
  rw [show fld (c ++ 137#9 ++ h ++ d ++ a ++ b : BitVec 32) 22 5 = 9#5 from by simp (disch := decide) only [fld_low, fld_high]; rfl]
  show Except.ok _ = _
  simp (disch := decide) only [fld_low, fld_high, Nat.reduceSub, fld_self]
theorem redMinN (c : BitVec 1) (h : BitVec 1) (d : BitVec 7) (a : BitVec 7) (b : BitVec 7) : Statement (.redMinN c h d a b) := by
  intro w0 he
  obtain rfl := Option.some.inj he
  refine (decode_4 (by simp (disch := decide) only [fld_low, fld_high]; rfl)).trans ?_
  unfold decodeClass4
  rw [show fld (c ++ 138#9 ++ h ++ d ++ a ++ b : BitVec 32) 22 5 = 10#5 from by simp (disch := decide) only [fld_low, fld_high]; rfl]
  show Except.ok _ = _
  simp (disch := decide) only [fld_low, fld_high, Nat.reduceSub, fld_self]
theorem redMaxS (c : BitVec 1) (h : BitVec 1) (d : BitVec 7) (a : BitVec 7) (b : BitVec 7) : Statement (.redMaxS c h d a b) := by
  intro w0 he
  obtain rfl := Option.some.inj he
  refine (decode_4 (by simp (disch := decide) only [fld_low, fld_high]; rfl)).trans ?_
  unfold decodeClass4
  rw [show fld (c ++ 139#9 ++ h ++ d ++ a ++ b : BitVec 32) 22 5 = 11#5 from by simp (disch := decide) only [fld_low, fld_high]; rfl]
  show Except.ok _ = _
  simp (disch := decide) only [fld_low, fld_high, Nat.reduceSub, fld_self]
theorem redMaxN (c : BitVec 1) (h : BitVec 1) (d : BitVec 7) (a : BitVec 7) (b : BitVec 7) : Statement (.redMaxN c h d a b) := by
  intro w0 he
  obtain rfl := Option.some.inj he
  refine (decode_4 (by simp (disch := decide) only [fld_low, fld_high]; rfl)).trans ?_
  unfold decodeClass4
  rw [show fld (c ++ 140#9 ++ h ++ d ++ a ++ b : BitVec 32) 22 5 = 12#5 from by simp (disch := decide) only [fld_low, fld_high]; rfl]
  show Except.ok _ = _
  simp (disch := decide) only [fld_low, fld_high, Nat.reduceSub, fld_self]
theorem redAnd (c : BitVec 1) (h : BitVec 1) (d : BitVec 7) (a : BitVec 7) (b : BitVec 7) : Statement (.redAnd c h d a b) := by
  intro w0 he
  obtain rfl := Option.some.inj he
  refine (decode_4 (by simp (disch := decide) only [fld_low, fld_high]; rfl)).trans ?_
  unfold decodeClass4
  rw [show fld (c ++ 141#9 ++ h ++ d ++ a ++ b : BitVec 32) 22 5 = 13#5 from by simp (disch := decide) only [fld_low, fld_high]; rfl]
  show Except.ok _ = _
  simp (disch := decide) only [fld_low, fld_high, Nat.reduceSub, fld_self]
theorem redOr (c : BitVec 1) (h : BitVec 1) (d : BitVec 7) (a : BitVec 7) (b : BitVec 7) : Statement (.redOr c h d a b) := by
  intro w0 he
  obtain rfl := Option.some.inj he
  refine (decode_4 (by simp (disch := decide) only [fld_low, fld_high]; rfl)).trans ?_
  unfold decodeClass4
  rw [show fld (c ++ 142#9 ++ h ++ d ++ a ++ b : BitVec 32) 22 5 = 14#5 from by simp (disch := decide) only [fld_low, fld_high]; rfl]
  show Except.ok _ = _
  simp (disch := decide) only [fld_low, fld_high, Nat.reduceSub, fld_self]
theorem redFadd (c : BitVec 1) (h : BitVec 1) (d : BitVec 7) (a : BitVec 7) (b : BitVec 7) : Statement (.redFadd c h d a b) := by
  intro w0 he
  obtain rfl := Option.some.inj he
  refine (decode_4 (by simp (disch := decide) only [fld_low, fld_high]; rfl)).trans ?_
  unfold decodeClass4
  rw [show fld (c ++ 143#9 ++ h ++ d ++ a ++ b : BitVec 32) 22 5 = 15#5 from by simp (disch := decide) only [fld_low, fld_high]; rfl]
  show Except.ok _ = _
  simp (disch := decide) only [fld_low, fld_high, Nat.reduceSub, fld_self]
theorem scanAdd (c : BitVec 1) (h : BitVec 1) (d : BitVec 7) (a : BitVec 7) (b : BitVec 7) : Statement (.scanAdd c h d a b) := by
  intro w0 he
  obtain rfl := Option.some.inj he
  refine (decode_4 (by simp (disch := decide) only [fld_low, fld_high]; rfl)).trans ?_
  unfold decodeClass4
  rw [show fld (c ++ 144#9 ++ h ++ d ++ a ++ b : BitVec 32) 22 5 = 16#5 from by simp (disch := decide) only [fld_low, fld_high]; rfl]
  show Except.ok _ = _
  simp (disch := decide) only [fld_low, fld_high, Nat.reduceSub, fld_self]
theorem scanFadd (c : BitVec 1) (h : BitVec 1) (d : BitVec 7) (a : BitVec 7) (b : BitVec 7) : Statement (.scanFadd c h d a b) := by
  intro w0 he
  obtain rfl := Option.some.inj he
  refine (decode_4 (by simp (disch := decide) only [fld_low, fld_high]; rfl)).trans ?_
  unfold decodeClass4
  rw [show fld (c ++ 145#9 ++ h ++ d ++ a ++ b : BitVec 32) 22 5 = 17#5 from by simp (disch := decide) only [fld_low, fld_high]; rfl]
  show Except.ok _ = _
  simp (disch := decide) only [fld_low, fld_high, Nat.reduceSub, fld_self]
theorem mand (c : BitVec 1) (h : BitVec 1) (d : BitVec 3) (a : BitVec 3) (b : BitVec 3) : Statement (.mand c h d a b) := by
  intro w0 he
  obtain rfl := Option.some.inj he
  refine (decode_4 (by simp (disch := decide) only [fld_low, fld_high]; rfl)).trans ?_
  unfold decodeClass4
  rw [show fld (c ++ 146#9 ++ h ++ 0#4 ++ d ++ 0#4 ++ a ++ 0#4 ++ b : BitVec 32) 22 5 = 18#5 from by simp (disch := decide) only [fld_low, fld_high]; rfl]
  show (if _ then _ else _) = _
  rw [if_pos (⟨(show fld (c ++ 146#9 ++ h ++ 0#4 ++ d ++ 0#4 ++ a ++ 0#4 ++ b : BitVec 32) 17 4 = 0 from by simp (disch := decide) only [fld_low, fld_high]; rfl), (show fld (c ++ 146#9 ++ h ++ 0#4 ++ d ++ 0#4 ++ a ++ 0#4 ++ b : BitVec 32) 10 4 = 0 from by simp (disch := decide) only [fld_low, fld_high]; rfl), (show fld (c ++ 146#9 ++ h ++ 0#4 ++ d ++ 0#4 ++ a ++ 0#4 ++ b : BitVec 32) 3 4 = 0 from by simp (disch := decide) only [fld_low, fld_high]; rfl)⟩)]
  simp (disch := decide) only [fld_low, fld_high, Nat.reduceSub, fld_self]
theorem mor (c : BitVec 1) (h : BitVec 1) (d : BitVec 3) (a : BitVec 3) (b : BitVec 3) : Statement (.mor c h d a b) := by
  intro w0 he
  obtain rfl := Option.some.inj he
  refine (decode_4 (by simp (disch := decide) only [fld_low, fld_high]; rfl)).trans ?_
  unfold decodeClass4
  rw [show fld (c ++ 147#9 ++ h ++ 0#4 ++ d ++ 0#4 ++ a ++ 0#4 ++ b : BitVec 32) 22 5 = 19#5 from by simp (disch := decide) only [fld_low, fld_high]; rfl]
  show (if _ then _ else _) = _
  rw [if_pos (⟨(show fld (c ++ 147#9 ++ h ++ 0#4 ++ d ++ 0#4 ++ a ++ 0#4 ++ b : BitVec 32) 17 4 = 0 from by simp (disch := decide) only [fld_low, fld_high]; rfl), (show fld (c ++ 147#9 ++ h ++ 0#4 ++ d ++ 0#4 ++ a ++ 0#4 ++ b : BitVec 32) 10 4 = 0 from by simp (disch := decide) only [fld_low, fld_high]; rfl), (show fld (c ++ 147#9 ++ h ++ 0#4 ++ d ++ 0#4 ++ a ++ 0#4 ++ b : BitVec 32) 3 4 = 0 from by simp (disch := decide) only [fld_low, fld_high]; rfl)⟩)]
  simp (disch := decide) only [fld_low, fld_high, Nat.reduceSub, fld_self]
theorem mxor (c : BitVec 1) (h : BitVec 1) (d : BitVec 3) (a : BitVec 3) (b : BitVec 3) : Statement (.mxor c h d a b) := by
  intro w0 he
  obtain rfl := Option.some.inj he
  refine (decode_4 (by simp (disch := decide) only [fld_low, fld_high]; rfl)).trans ?_
  unfold decodeClass4
  rw [show fld (c ++ 148#9 ++ h ++ 0#4 ++ d ++ 0#4 ++ a ++ 0#4 ++ b : BitVec 32) 22 5 = 20#5 from by simp (disch := decide) only [fld_low, fld_high]; rfl]
  show (if _ then _ else _) = _
  rw [if_pos (⟨(show fld (c ++ 148#9 ++ h ++ 0#4 ++ d ++ 0#4 ++ a ++ 0#4 ++ b : BitVec 32) 17 4 = 0 from by simp (disch := decide) only [fld_low, fld_high]; rfl), (show fld (c ++ 148#9 ++ h ++ 0#4 ++ d ++ 0#4 ++ a ++ 0#4 ++ b : BitVec 32) 10 4 = 0 from by simp (disch := decide) only [fld_low, fld_high]; rfl), (show fld (c ++ 148#9 ++ h ++ 0#4 ++ d ++ 0#4 ++ a ++ 0#4 ++ b : BitVec 32) 3 4 = 0 from by simp (disch := decide) only [fld_low, fld_high]; rfl)⟩)]
  simp (disch := decide) only [fld_low, fld_high, Nat.reduceSub, fld_self]
theorem mandn (c : BitVec 1) (h : BitVec 1) (d : BitVec 3) (a : BitVec 3) (b : BitVec 3) : Statement (.mandn c h d a b) := by
  intro w0 he
  obtain rfl := Option.some.inj he
  refine (decode_4 (by simp (disch := decide) only [fld_low, fld_high]; rfl)).trans ?_
  unfold decodeClass4
  rw [show fld (c ++ 149#9 ++ h ++ 0#4 ++ d ++ 0#4 ++ a ++ 0#4 ++ b : BitVec 32) 22 5 = 21#5 from by simp (disch := decide) only [fld_low, fld_high]; rfl]
  show (if _ then _ else _) = _
  rw [if_pos (⟨(show fld (c ++ 149#9 ++ h ++ 0#4 ++ d ++ 0#4 ++ a ++ 0#4 ++ b : BitVec 32) 17 4 = 0 from by simp (disch := decide) only [fld_low, fld_high]; rfl), (show fld (c ++ 149#9 ++ h ++ 0#4 ++ d ++ 0#4 ++ a ++ 0#4 ++ b : BitVec 32) 10 4 = 0 from by simp (disch := decide) only [fld_low, fld_high]; rfl), (show fld (c ++ 149#9 ++ h ++ 0#4 ++ d ++ 0#4 ++ a ++ 0#4 ++ b : BitVec 32) 3 4 = 0 from by simp (disch := decide) only [fld_low, fld_high]; rfl)⟩)]
  simp (disch := decide) only [fld_low, fld_high, Nat.reduceSub, fld_self]
theorem mmov (c : BitVec 1) (h : BitVec 1) (d : BitVec 3) (a : BitVec 3) : Statement (.mmov c h d a) := by
  intro w0 he
  obtain rfl := Option.some.inj he
  refine (decode_4 (by simp (disch := decide) only [fld_low, fld_high]; rfl)).trans ?_
  unfold decodeClass4
  rw [show fld (c ++ 150#9 ++ h ++ 0#4 ++ d ++ 0#4 ++ a ++ 0#7 : BitVec 32) 22 5 = 22#5 from by simp (disch := decide) only [fld_low, fld_high]; rfl]
  show (if _ then _ else _) = _
  rw [if_pos (⟨(show fld (c ++ 150#9 ++ h ++ 0#4 ++ d ++ 0#4 ++ a ++ 0#7 : BitVec 32) 17 4 = 0 from by simp (disch := decide) only [fld_low, fld_high]; rfl), (show fld (c ++ 150#9 ++ h ++ 0#4 ++ d ++ 0#4 ++ a ++ 0#7 : BitVec 32) 10 4 = 0 from by simp (disch := decide) only [fld_low, fld_high]; rfl), (show fld (c ++ 150#9 ++ h ++ 0#4 ++ d ++ 0#4 ++ a ++ 0#7 : BitVec 32) 0 7 = 0 from by simp (disch := decide) only [fld_low, fld_high]; rfl)⟩)]
  simp (disch := decide) only [fld_low, fld_high, Nat.reduceSub, fld_self]
theorem mpopc (c : BitVec 1) (h : BitVec 1) (d : BitVec 7) (a : BitVec 3) : Statement (.mpopc c h d a) := by
  intro w0 he
  obtain rfl := Option.some.inj he
  refine (decode_4 (by simp (disch := decide) only [fld_low, fld_high]; rfl)).trans ?_
  unfold decodeClass4
  rw [show fld (c ++ 151#9 ++ h ++ d ++ 0#4 ++ a ++ 0#7 : BitVec 32) 22 5 = 23#5 from by simp (disch := decide) only [fld_low, fld_high]; rfl]
  show (if _ then _ else _) = _
  rw [if_pos (⟨(show fld (c ++ 151#9 ++ h ++ d ++ 0#4 ++ a ++ 0#7 : BitVec 32) 10 4 = 0 from by simp (disch := decide) only [fld_low, fld_high]; rfl), (show fld (c ++ 151#9 ++ h ++ d ++ 0#4 ++ a ++ 0#7 : BitVec 32) 0 7 = 0 from by simp (disch := decide) only [fld_low, fld_high]; rfl)⟩)]
  simp (disch := decide) only [fld_low, fld_high, Nat.reduceSub, fld_self]
theorem mpopcRank (c : BitVec 1) (h : BitVec 1) (d : BitVec 7) (a : BitVec 3) : Statement (.mpopcRank c h d a) := by
  intro w0 he
  obtain rfl := Option.some.inj he
  refine (decode_4 (by simp (disch := decide) only [fld_low, fld_high]; rfl)).trans ?_
  unfold decodeClass4
  rw [show fld (c ++ 151#9 ++ h ++ d ++ 0#4 ++ a ++ 1#7 : BitVec 32) 22 5 = 23#5 from by simp (disch := decide) only [fld_low, fld_high]; rfl]
  show (if _ then _ else _) = _
  rw [if_neg (fun hh => absurd hh.2 (by rw [show fld (c ++ 151#9 ++ h ++ d ++ 0#4 ++ a ++ 1#7 : BitVec 32) 0 7 = 1#7 from by simp (disch := decide) only [fld_low, fld_high]; rfl]; decide))]
  rw [if_pos (⟨(show fld (c ++ 151#9 ++ h ++ d ++ 0#4 ++ a ++ 1#7 : BitVec 32) 10 4 = 0 from by simp (disch := decide) only [fld_low, fld_high]; rfl), (show fld (c ++ 151#9 ++ h ++ d ++ 0#4 ++ a ++ 1#7 : BitVec 32) 0 7 = 1 from by simp (disch := decide) only [fld_low, fld_high]; rfl)⟩)]
  simp (disch := decide) only [fld_low, fld_high, Nat.reduceSub, fld_self]
theorem mfirst (c : BitVec 1) (h : BitVec 1) (d : BitVec 7) (a : BitVec 3) : Statement (.mfirst c h d a) := by
  intro w0 he
  obtain rfl := Option.some.inj he
  refine (decode_4 (by simp (disch := decide) only [fld_low, fld_high]; rfl)).trans ?_
  unfold decodeClass4
  rw [show fld (c ++ 152#9 ++ h ++ d ++ 0#4 ++ a ++ 0#7 : BitVec 32) 22 5 = 24#5 from by simp (disch := decide) only [fld_low, fld_high]; rfl]
  show (if _ then _ else _) = _
  rw [if_pos (⟨(show fld (c ++ 152#9 ++ h ++ d ++ 0#4 ++ a ++ 0#7 : BitVec 32) 10 4 = 0 from by simp (disch := decide) only [fld_low, fld_high]; rfl), (show fld (c ++ 152#9 ++ h ++ d ++ 0#4 ++ a ++ 0#7 : BitVec 32) 0 7 = 0 from by simp (disch := decide) only [fld_low, fld_high]; rfl)⟩)]
  simp (disch := decide) only [fld_low, fld_high, Nat.reduceSub, fld_self]
theorem mtov (c : BitVec 1) (h : BitVec 1) (d : BitVec 7) (a : BitVec 3) : Statement (.mtov c h d a) := by
  intro w0 he
  obtain rfl := Option.some.inj he
  refine (decode_4 (by simp (disch := decide) only [fld_low, fld_high]; rfl)).trans ?_
  unfold decodeClass4
  rw [show fld (c ++ 153#9 ++ h ++ d ++ 0#4 ++ a ++ 0#7 : BitVec 32) 22 5 = 25#5 from by simp (disch := decide) only [fld_low, fld_high]; rfl]
  show (if _ then _ else _) = _
  rw [if_pos (⟨(show fld (c ++ 153#9 ++ h ++ d ++ 0#4 ++ a ++ 0#7 : BitVec 32) 10 4 = 0 from by simp (disch := decide) only [fld_low, fld_high]; rfl), (show fld (c ++ 153#9 ++ h ++ d ++ 0#4 ++ a ++ 0#7 : BitVec 32) 0 7 = 0 from by simp (disch := decide) only [fld_low, fld_high]; rfl)⟩)]
  simp (disch := decide) only [fld_low, fld_high, Nat.reduceSub, fld_self]
theorem vtom (c : BitVec 1) (h : BitVec 1) (d : BitVec 3) (a : BitVec 7) (b : BitVec 5) : Statement (.vtom c h d a b) := by
  intro w0 he
  obtain rfl := Option.some.inj he
  refine (decode_4 (by simp (disch := decide) only [fld_low, fld_high]; rfl)).trans ?_
  unfold decodeClass4
  rw [show fld (c ++ 154#9 ++ h ++ 0#4 ++ d ++ a ++ 0#2 ++ b : BitVec 32) 22 5 = 26#5 from by simp (disch := decide) only [fld_low, fld_high]; rfl]
  show (if _ then _ else _) = _
  rw [if_pos (⟨(show fld (c ++ 154#9 ++ h ++ 0#4 ++ d ++ a ++ 0#2 ++ b : BitVec 32) 17 4 = 0 from by simp (disch := decide) only [fld_low, fld_high]; rfl), (show fld (c ++ 154#9 ++ h ++ 0#4 ++ d ++ a ++ 0#2 ++ b : BitVec 32) 5 2 = 0 from by simp (disch := decide) only [fld_low, fld_high]; rfl)⟩)]
  simp (disch := decide) only [fld_low, fld_high, Nat.reduceSub, fld_self]
theorem elect (c : BitVec 1) (h : BitVec 1) (d : BitVec 3) : Statement (.elect c h d) := by
  intro w0 he
  obtain rfl := Option.some.inj he
  refine (decode_4 (by simp (disch := decide) only [fld_low, fld_high]; rfl)).trans ?_
  unfold decodeClass4
  rw [show fld (c ++ 155#9 ++ h ++ 0#4 ++ d ++ 0#14 : BitVec 32) 22 5 = 27#5 from by simp (disch := decide) only [fld_low, fld_high]; rfl]
  show (if _ then _ else _) = _
  rw [if_pos (⟨(show fld (c ++ 155#9 ++ h ++ 0#4 ++ d ++ 0#14 : BitVec 32) 17 4 = 0 from by simp (disch := decide) only [fld_low, fld_high]; rfl), (show fld (c ++ 155#9 ++ h ++ 0#4 ++ d ++ 0#14 : BitVec 32) 0 14 = 0 from by simp (disch := decide) only [fld_low, fld_high]; rfl)⟩)]
  simp (disch := decide) only [fld_low, fld_high, Nat.reduceSub, fld_self]
theorem issuem (c : BitVec 1) (h : BitVec 1) (d : BitVec 3) : Statement (.issuem c h d) := by
  intro w0 he
  obtain rfl := Option.some.inj he
  refine (decode_4 (by simp (disch := decide) only [fld_low, fld_high]; rfl)).trans ?_
  unfold decodeClass4
  rw [show fld (c ++ 156#9 ++ h ++ 0#4 ++ d ++ 0#14 : BitVec 32) 22 5 = 28#5 from by simp (disch := decide) only [fld_low, fld_high]; rfl]
  show (if _ then _ else _) = _
  rw [if_pos (⟨(show fld (c ++ 156#9 ++ h ++ 0#4 ++ d ++ 0#14 : BitVec 32) 17 4 = 0 from by simp (disch := decide) only [fld_low, fld_high]; rfl), (show fld (c ++ 156#9 ++ h ++ 0#4 ++ d ++ 0#14 : BitVec 32) 0 14 = 0 from by simp (disch := decide) only [fld_low, fld_high]; rfl)⟩)]
  simp (disch := decide) only [fld_low, fld_high, Nat.reduceSub, fld_self]
theorem bra (c : BitVec 1) (o : BitVec 18) : Statement (.bra c o) := by
  intro w0 he
  obtain rfl := Option.some.inj he
  refine (decode_5 (by simp (disch := decide) only [fld_low, fld_high]; rfl)).trans ?_
  unfold decodeClass5
  rw [show fld (c ++ 2560#13 ++ o : BitVec 32) 22 5 = 0#5 from by simp (disch := decide) only [fld_low, fld_high]; rfl]
  show (if _ then _ else _) = _
  rw [if_pos ((show fld (c ++ 2560#13 ++ o : BitVec 32) 18 4 = 0 from by simp (disch := decide) only [fld_low, fld_high]; rfl))]
  simp (disch := decide) only [fld_low, fld_high, Nat.reduceSub, fld_self]
theorem brc (c : BitVec 1) (n : BitVec 1) (k : BitVec 3) (o : BitVec 18) : Statement (.brc c n k o) := by
  intro w0 he
  obtain rfl := Option.some.inj he
  refine (decode_5 (by simp (disch := decide) only [fld_low, fld_high]; rfl)).trans ?_
  unfold decodeClass5
  rw [show fld (c ++ 161#9 ++ n ++ k ++ o : BitVec 32) 22 5 = 1#5 from by simp (disch := decide) only [fld_low, fld_high]; rfl]
  show Except.ok _ = _
  simp (disch := decide) only [fld_low, fld_high, Nat.reduceSub, fld_self]
theorem brw (c : BitVec 1) (n : BitVec 1) (o : BitVec 18) : Statement (.brw c n o) := by
  intro w0 he
  obtain rfl := Option.some.inj he
  refine (decode_5 (by simp (disch := decide) only [fld_low, fld_high]; rfl)).trans ?_
  unfold decodeClass5
  rw [show fld (c ++ 162#9 ++ n ++ 0#3 ++ o : BitVec 32) 22 5 = 2#5 from by simp (disch := decide) only [fld_low, fld_high]; rfl]
  show (if _ then _ else _) = _
  rw [if_pos ((show fld (c ++ 162#9 ++ n ++ 0#3 ++ o : BitVec 32) 18 3 = 0 from by simp (disch := decide) only [fld_low, fld_high]; rfl))]
  simp (disch := decide) only [fld_low, fld_high, Nat.reduceSub, fld_self]
theorem call (c : BitVec 1) (o : BitVec 18) : Statement (.call c o) := by
  intro w0 he
  obtain rfl := Option.some.inj he
  refine (decode_5 (by simp (disch := decide) only [fld_low, fld_high]; rfl)).trans ?_
  unfold decodeClass5
  rw [show fld (c ++ 2608#13 ++ o : BitVec 32) 22 5 = 3#5 from by simp (disch := decide) only [fld_low, fld_high]; rfl]
  show (if _ then _ else _) = _
  rw [if_pos ((show fld (c ++ 2608#13 ++ o : BitVec 32) 18 4 = 0 from by simp (disch := decide) only [fld_low, fld_high]; rfl))]
  simp (disch := decide) only [fld_low, fld_high, Nat.reduceSub, fld_self]
theorem bri (c : BitVec 1) (h : BitVec 1) (a : BitVec 7) : Statement (.bri c h a) := by
  intro w0 he
  obtain rfl := Option.some.inj he
  refine (decode_5 (by simp (disch := decide) only [fld_low, fld_high]; rfl)).trans ?_
  unfold decodeClass5
  rw [show fld (c ++ 164#9 ++ h ++ 0#7 ++ a ++ 0#7 : BitVec 32) 22 5 = 4#5 from by simp (disch := decide) only [fld_low, fld_high]; rfl]
  show (if _ then _ else _) = _
  rw [if_pos (⟨(show fld (c ++ 164#9 ++ h ++ 0#7 ++ a ++ 0#7 : BitVec 32) 14 7 = 0 from by simp (disch := decide) only [fld_low, fld_high]; rfl), (show fld (c ++ 164#9 ++ h ++ 0#7 ++ a ++ 0#7 : BitVec 32) 0 7 = 0 from by simp (disch := decide) only [fld_low, fld_high]; rfl)⟩)]
  simp (disch := decide) only [fld_low, fld_high, Nat.reduceSub, fld_self]
theorem calli (c : BitVec 1) (h : BitVec 1) (d : BitVec 7) (a : BitVec 7) : Statement (.calli c h d a) := by
  intro w0 he
  obtain rfl := Option.some.inj he
  refine (decode_5 (by simp (disch := decide) only [fld_low, fld_high]; rfl)).trans ?_
  unfold decodeClass5
  rw [show fld (c ++ 165#9 ++ h ++ d ++ a ++ 0#7 : BitVec 32) 22 5 = 5#5 from by simp (disch := decide) only [fld_low, fld_high]; rfl]
  show (if _ then _ else _) = _
  rw [if_pos ((show fld (c ++ 165#9 ++ h ++ d ++ a ++ 0#7 : BitVec 32) 0 7 = 0 from by simp (disch := decide) only [fld_low, fld_high]; rfl))]
  simp (disch := decide) only [fld_low, fld_high, Nat.reduceSub, fld_self]
theorem ret (c : BitVec 1) (h : BitVec 1) (a : BitVec 7) : Statement (.ret c h a) := by
  intro w0 he
  obtain rfl := Option.some.inj he
  refine (decode_5 (by simp (disch := decide) only [fld_low, fld_high]; rfl)).trans ?_
  unfold decodeClass5
  rw [show fld (c ++ 166#9 ++ h ++ 0#7 ++ a ++ 0#7 : BitVec 32) 22 5 = 6#5 from by simp (disch := decide) only [fld_low, fld_high]; rfl]
  show (if _ then _ else _) = _
  rw [if_pos (⟨(show fld (c ++ 166#9 ++ h ++ 0#7 ++ a ++ 0#7 : BitVec 32) 14 7 = 0 from by simp (disch := decide) only [fld_low, fld_high]; rfl), (show fld (c ++ 166#9 ++ h ++ 0#7 ++ a ++ 0#7 : BitVec 32) 0 7 = 0 from by simp (disch := decide) only [fld_low, fld_high]; rfl)⟩)]
  simp (disch := decide) only [fld_low, fld_high, Nat.reduceSub, fld_self]
theorem split (c : BitVec 1) (h : BitVec 1) (d : BitVec 3) : Statement (.split c h d) := by
  intro w0 he
  obtain rfl := Option.some.inj he
  refine (decode_5 (by simp (disch := decide) only [fld_low, fld_high]; rfl)).trans ?_
  unfold decodeClass5
  rw [show fld (c ++ 167#9 ++ h ++ 0#4 ++ d ++ 0#14 : BitVec 32) 22 5 = 7#5 from by simp (disch := decide) only [fld_low, fld_high]; rfl]
  show (if _ then _ else _) = _
  rw [if_pos (⟨(show fld (c ++ 167#9 ++ h ++ 0#4 ++ d ++ 0#14 : BitVec 32) 17 4 = 0 from by simp (disch := decide) only [fld_low, fld_high]; rfl), (show fld (c ++ 167#9 ++ h ++ 0#4 ++ d ++ 0#14 : BitVec 32) 0 14 = 0 from by simp (disch := decide) only [fld_low, fld_high]; rfl)⟩)]
  simp (disch := decide) only [fld_low, fld_high, Nat.reduceSub, fld_self]
theorem join (c : BitVec 1) (h : BitVec 1) (d : BitVec 3) : Statement (.join c h d) := by
  intro w0 he
  obtain rfl := Option.some.inj he
  refine (decode_5 (by simp (disch := decide) only [fld_low, fld_high]; rfl)).trans ?_
  unfold decodeClass5
  rw [show fld (c ++ 168#9 ++ h ++ 0#4 ++ d ++ 0#14 : BitVec 32) 22 5 = 8#5 from by simp (disch := decide) only [fld_low, fld_high]; rfl]
  show (if _ then _ else _) = _
  rw [if_pos (⟨(show fld (c ++ 168#9 ++ h ++ 0#4 ++ d ++ 0#14 : BitVec 32) 17 4 = 0 from by simp (disch := decide) only [fld_low, fld_high]; rfl), (show fld (c ++ 168#9 ++ h ++ 0#4 ++ d ++ 0#14 : BitVec 32) 0 14 = 0 from by simp (disch := decide) only [fld_low, fld_high]; rfl)⟩)]
  simp (disch := decide) only [fld_low, fld_high, Nat.reduceSub, fld_self]
theorem exit (c : BitVec 1) (h : BitVec 1) : Statement (.exit c h) := by
  intro w0 he
  obtain rfl := Option.some.inj he
  refine (decode_5 (by simp (disch := decide) only [fld_low, fld_high]; rfl)).trans ?_
  unfold decodeClass5
  rw [show fld (c ++ 169#9 ++ h ++ 0#21 : BitVec 32) 22 5 = 9#5 from by simp (disch := decide) only [fld_low, fld_high]; rfl]
  show (if _ then _ else _) = _
  rw [if_pos ((show fld (c ++ 169#9 ++ h ++ 0#21 : BitVec 32) 0 21 = 0 from by simp (disch := decide) only [fld_low, fld_high]; rfl))]
  simp (disch := decide) only [fld_low, fld_high, Nat.reduceSub, fld_self]
theorem endAll (c : BitVec 1) (h : BitVec 1) : Statement (.endAll c h) := by
  intro w0 he
  obtain rfl := Option.some.inj he
  refine (decode_5 (by simp (disch := decide) only [fld_low, fld_high]; rfl)).trans ?_
  unfold decodeClass5
  rw [show fld (c ++ 170#9 ++ h ++ 0#21 : BitVec 32) 22 5 = 10#5 from by simp (disch := decide) only [fld_low, fld_high]; rfl]
  show (if _ then _ else _) = _
  rw [if_pos ((show fld (c ++ 170#9 ++ h ++ 0#21 : BitVec 32) 0 21 = 0 from by simp (disch := decide) only [fld_low, fld_high]; rfl))]
  simp (disch := decide) only [fld_low, fld_high, Nat.reduceSub, fld_self]
theorem loopw (c : BitVec 1) (w : BitVec 4) (o : BitVec 18) : Statement (.loopw c w o) := by
  intro w0 he
  obtain rfl := Option.some.inj he
  refine (decode_5 (by simp (disch := decide) only [fld_low, fld_high]; rfl)).trans ?_
  unfold decodeClass5
  rw [show fld (c ++ 171#9 ++ w ++ o : BitVec 32) 22 5 = 11#5 from by simp (disch := decide) only [fld_low, fld_high]; rfl]
  show Except.ok _ = _
  simp (disch := decide) only [fld_low, fld_high, Nat.reduceSub, fld_self]
theorem ldB8 (c : BitVec 1) (l : BitVec 4) (d : BitVec 7) (v : BitVec 7) (w : BitVec 4) : Statement (.ldB8 c l d v w) := by
  intro w0 he
  obtain rfl := Option.some.inj he
  refine (decode_6 (by simp (disch := decide) only [fld_low, fld_high]; rfl)).trans ?_
  unfold decodeClass6
  rw [show fld (c ++ 192#9 ++ l ++ d ++ v ++ w : BitVec 32) 22 5 = 0#5 from by simp (disch := decide) only [fld_low, fld_high]; rfl]
  show Except.ok _ = _
  simp (disch := decide) only [fld_low, fld_high, Nat.reduceSub, fld_self]
theorem ldS8 (c : BitVec 1) (l : BitVec 4) (d : BitVec 7) (v : BitVec 7) (w : BitVec 4) : Statement (.ldS8 c l d v w) := by
  intro w0 he
  obtain rfl := Option.some.inj he
  refine (decode_6 (by simp (disch := decide) only [fld_low, fld_high]; rfl)).trans ?_
  unfold decodeClass6
  rw [show fld (c ++ 193#9 ++ l ++ d ++ v ++ w : BitVec 32) 22 5 = 1#5 from by simp (disch := decide) only [fld_low, fld_high]; rfl]
  show Except.ok _ = _
  simp (disch := decide) only [fld_low, fld_high, Nat.reduceSub, fld_self]
theorem ldB16 (c : BitVec 1) (l : BitVec 4) (d : BitVec 7) (v : BitVec 7) (w : BitVec 4) : Statement (.ldB16 c l d v w) := by
  intro w0 he
  obtain rfl := Option.some.inj he
  refine (decode_6 (by simp (disch := decide) only [fld_low, fld_high]; rfl)).trans ?_
  unfold decodeClass6
  rw [show fld (c ++ 194#9 ++ l ++ d ++ v ++ w : BitVec 32) 22 5 = 2#5 from by simp (disch := decide) only [fld_low, fld_high]; rfl]
  show Except.ok _ = _
  simp (disch := decide) only [fld_low, fld_high, Nat.reduceSub, fld_self]
theorem ldS16 (c : BitVec 1) (l : BitVec 4) (d : BitVec 7) (v : BitVec 7) (w : BitVec 4) : Statement (.ldS16 c l d v w) := by
  intro w0 he
  obtain rfl := Option.some.inj he
  refine (decode_6 (by simp (disch := decide) only [fld_low, fld_high]; rfl)).trans ?_
  unfold decodeClass6
  rw [show fld (c ++ 195#9 ++ l ++ d ++ v ++ w : BitVec 32) 22 5 = 3#5 from by simp (disch := decide) only [fld_low, fld_high]; rfl]
  show Except.ok _ = _
  simp (disch := decide) only [fld_low, fld_high, Nat.reduceSub, fld_self]
theorem ldB32 (c : BitVec 1) (l : BitVec 4) (d : BitVec 7) (v : BitVec 7) (w : BitVec 4) : Statement (.ldB32 c l d v w) := by
  intro w0 he
  obtain rfl := Option.some.inj he
  refine (decode_6 (by simp (disch := decide) only [fld_low, fld_high]; rfl)).trans ?_
  unfold decodeClass6
  rw [show fld (c ++ 196#9 ++ l ++ d ++ v ++ w : BitVec 32) 22 5 = 4#5 from by simp (disch := decide) only [fld_low, fld_high]; rfl]
  show Except.ok _ = _
  simp (disch := decide) only [fld_low, fld_high, Nat.reduceSub, fld_self]
theorem ldB64 (c : BitVec 1) (l : BitVec 4) (d : BitVec 7) (v : BitVec 7) (w : BitVec 4) : Statement (.ldB64 c l d v w) := by
  intro w0 he
  obtain rfl := Option.some.inj he
  refine (decode_6 (by simp (disch := decide) only [fld_low, fld_high]; rfl)).trans ?_
  unfold decodeClass6
  rw [show fld (c ++ 197#9 ++ l ++ d ++ v ++ w : BitVec 32) 22 5 = 5#5 from by simp (disch := decide) only [fld_low, fld_high]; rfl]
  show Except.ok _ = _
  simp (disch := decide) only [fld_low, fld_high, Nat.reduceSub, fld_self]
theorem ldB128 (c : BitVec 1) (l : BitVec 4) (d : BitVec 7) (v : BitVec 7) (w : BitVec 4) : Statement (.ldB128 c l d v w) := by
  intro w0 he
  obtain rfl := Option.some.inj he
  refine (decode_6 (by simp (disch := decide) only [fld_low, fld_high]; rfl)).trans ?_
  unfold decodeClass6
  rw [show fld (c ++ 198#9 ++ l ++ d ++ v ++ w : BitVec 32) 22 5 = 6#5 from by simp (disch := decide) only [fld_low, fld_high]; rfl]
  show Except.ok _ = _
  simp (disch := decide) only [fld_low, fld_high, Nat.reduceSub, fld_self]
theorem stB8 (c : BitVec 1) (l : BitVec 4) (d : BitVec 7) (v : BitVec 7) (w : BitVec 4) : Statement (.stB8 c l d v w) := by
  intro w0 he
  obtain rfl := Option.some.inj he
  refine (decode_6 (by simp (disch := decide) only [fld_low, fld_high]; rfl)).trans ?_
  unfold decodeClass6
  rw [show fld (c ++ 199#9 ++ l ++ d ++ v ++ w : BitVec 32) 22 5 = 7#5 from by simp (disch := decide) only [fld_low, fld_high]; rfl]
  show Except.ok _ = _
  simp (disch := decide) only [fld_low, fld_high, Nat.reduceSub, fld_self]
theorem stB16 (c : BitVec 1) (l : BitVec 4) (d : BitVec 7) (v : BitVec 7) (w : BitVec 4) : Statement (.stB16 c l d v w) := by
  intro w0 he
  obtain rfl := Option.some.inj he
  refine (decode_6 (by simp (disch := decide) only [fld_low, fld_high]; rfl)).trans ?_
  unfold decodeClass6
  rw [show fld (c ++ 200#9 ++ l ++ d ++ v ++ w : BitVec 32) 22 5 = 8#5 from by simp (disch := decide) only [fld_low, fld_high]; rfl]
  show Except.ok _ = _
  simp (disch := decide) only [fld_low, fld_high, Nat.reduceSub, fld_self]
theorem stB32 (c : BitVec 1) (l : BitVec 4) (d : BitVec 7) (v : BitVec 7) (w : BitVec 4) : Statement (.stB32 c l d v w) := by
  intro w0 he
  obtain rfl := Option.some.inj he
  refine (decode_6 (by simp (disch := decide) only [fld_low, fld_high]; rfl)).trans ?_
  unfold decodeClass6
  rw [show fld (c ++ 201#9 ++ l ++ d ++ v ++ w : BitVec 32) 22 5 = 9#5 from by simp (disch := decide) only [fld_low, fld_high]; rfl]
  show Except.ok _ = _
  simp (disch := decide) only [fld_low, fld_high, Nat.reduceSub, fld_self]
theorem stB64 (c : BitVec 1) (l : BitVec 4) (d : BitVec 7) (v : BitVec 7) (w : BitVec 4) : Statement (.stB64 c l d v w) := by
  intro w0 he
  obtain rfl := Option.some.inj he
  refine (decode_6 (by simp (disch := decide) only [fld_low, fld_high]; rfl)).trans ?_
  unfold decodeClass6
  rw [show fld (c ++ 202#9 ++ l ++ d ++ v ++ w : BitVec 32) 22 5 = 10#5 from by simp (disch := decide) only [fld_low, fld_high]; rfl]
  show Except.ok _ = _
  simp (disch := decide) only [fld_low, fld_high, Nat.reduceSub, fld_self]
theorem stB128 (c : BitVec 1) (l : BitVec 4) (d : BitVec 7) (v : BitVec 7) (w : BitVec 4) : Statement (.stB128 c l d v w) := by
  intro w0 he
  obtain rfl := Option.some.inj he
  refine (decode_6 (by simp (disch := decide) only [fld_low, fld_high]; rfl)).trans ?_
  unfold decodeClass6
  rw [show fld (c ++ 203#9 ++ l ++ d ++ v ++ w : BitVec 32) 22 5 = 11#5 from by simp (disch := decide) only [fld_low, fld_high]; rfl]
  show Except.ok _ = _
  simp (disch := decide) only [fld_low, fld_high, Nat.reduceSub, fld_self]
theorem ldsB32 (c : BitVec 1) (l : BitVec 4) (d : BitVec 7) (v : BitVec 7) (w : BitVec 4) : Statement (.ldsB32 c l d v w) := by
  intro w0 he
  obtain rfl := Option.some.inj he
  refine (decode_6 (by simp (disch := decide) only [fld_low, fld_high]; rfl)).trans ?_
  unfold decodeClass6
  rw [show fld (c ++ 204#9 ++ l ++ d ++ v ++ w : BitVec 32) 22 5 = 12#5 from by simp (disch := decide) only [fld_low, fld_high]; rfl]
  show Except.ok _ = _
  simp (disch := decide) only [fld_low, fld_high, Nat.reduceSub, fld_self]
theorem ldsB64 (c : BitVec 1) (l : BitVec 4) (d : BitVec 7) (v : BitVec 7) (w : BitVec 4) : Statement (.ldsB64 c l d v w) := by
  intro w0 he
  obtain rfl := Option.some.inj he
  refine (decode_6 (by simp (disch := decide) only [fld_low, fld_high]; rfl)).trans ?_
  unfold decodeClass6
  rw [show fld (c ++ 205#9 ++ l ++ d ++ v ++ w : BitVec 32) 22 5 = 13#5 from by simp (disch := decide) only [fld_low, fld_high]; rfl]
  show Except.ok _ = _
  simp (disch := decide) only [fld_low, fld_high, Nat.reduceSub, fld_self]
theorem ldsB128 (c : BitVec 1) (l : BitVec 4) (d : BitVec 7) (v : BitVec 7) (w : BitVec 4) : Statement (.ldsB128 c l d v w) := by
  intro w0 he
  obtain rfl := Option.some.inj he
  refine (decode_6 (by simp (disch := decide) only [fld_low, fld_high]; rfl)).trans ?_
  unfold decodeClass6
  rw [show fld (c ++ 206#9 ++ l ++ d ++ v ++ w : BitVec 32) 22 5 = 14#5 from by simp (disch := decide) only [fld_low, fld_high]; rfl]
  show Except.ok _ = _
  simp (disch := decide) only [fld_low, fld_high, Nat.reduceSub, fld_self]
theorem stsB32 (c : BitVec 1) (l : BitVec 4) (d : BitVec 7) (v : BitVec 7) (w : BitVec 4) : Statement (.stsB32 c l d v w) := by
  intro w0 he
  obtain rfl := Option.some.inj he
  refine (decode_6 (by simp (disch := decide) only [fld_low, fld_high]; rfl)).trans ?_
  unfold decodeClass6
  rw [show fld (c ++ 207#9 ++ l ++ d ++ v ++ w : BitVec 32) 22 5 = 15#5 from by simp (disch := decide) only [fld_low, fld_high]; rfl]
  show Except.ok _ = _
  simp (disch := decide) only [fld_low, fld_high, Nat.reduceSub, fld_self]
theorem stsB64 (c : BitVec 1) (l : BitVec 4) (d : BitVec 7) (v : BitVec 7) (w : BitVec 4) : Statement (.stsB64 c l d v w) := by
  intro w0 he
  obtain rfl := Option.some.inj he
  refine (decode_6 (by simp (disch := decide) only [fld_low, fld_high]; rfl)).trans ?_
  unfold decodeClass6
  rw [show fld (c ++ 208#9 ++ l ++ d ++ v ++ w : BitVec 32) 22 5 = 16#5 from by simp (disch := decide) only [fld_low, fld_high]; rfl]
  show Except.ok _ = _
  simp (disch := decide) only [fld_low, fld_high, Nat.reduceSub, fld_self]
theorem stsB128 (c : BitVec 1) (l : BitVec 4) (d : BitVec 7) (v : BitVec 7) (w : BitVec 4) : Statement (.stsB128 c l d v w) := by
  intro w0 he
  obtain rfl := Option.some.inj he
  refine (decode_6 (by simp (disch := decide) only [fld_low, fld_high]; rfl)).trans ?_
  unfold decodeClass6
  rw [show fld (c ++ 209#9 ++ l ++ d ++ v ++ w : BitVec 32) 22 5 = 17#5 from by simp (disch := decide) only [fld_low, fld_high]; rfl]
  show Except.ok _ = _
  simp (disch := decide) only [fld_low, fld_high, Nat.reduceSub, fld_self]
theorem ldw (c : BitVec 1) (l : BitVec 4) (d : BitVec 7) (v : BitVec 7) (w : BitVec 4) : Statement (.ldw c l d v w) := by
  intro w0 he
  obtain rfl := Option.some.inj he
  refine (decode_6 (by simp (disch := decide) only [fld_low, fld_high]; rfl)).trans ?_
  unfold decodeClass6
  rw [show fld (c ++ 210#9 ++ l ++ d ++ v ++ w : BitVec 32) 22 5 = 18#5 from by simp (disch := decide) only [fld_low, fld_high]; rfl]
  show Except.ok _ = _
  simp (disch := decide) only [fld_low, fld_high, Nat.reduceSub, fld_self]
theorem pref (c : BitVec 1) (l : BitVec 4) (d : BitVec 1) (v : BitVec 7) (w : BitVec 4) : Statement (.pref c l d v w) := by
  intro w0 he
  obtain rfl := Option.some.inj he
  refine (decode_6 (by simp (disch := decide) only [fld_low, fld_high]; rfl)).trans ?_
  unfold decodeClass6
  rw [show fld (c ++ 211#9 ++ l ++ 0#6 ++ d ++ v ++ w : BitVec 32) 22 5 = 19#5 from by simp (disch := decide) only [fld_low, fld_high]; rfl]
  show (if _ then _ else _) = _
  rw [if_pos ((show fld (c ++ 211#9 ++ l ++ 0#6 ++ d ++ v ++ w : BitVec 32) 12 6 = 0 from by simp (disch := decide) only [fld_low, fld_high]; rfl))]
  simp (disch := decide) only [fld_low, fld_high, Nat.reduceSub, fld_self]
theorem atomAdd32 (c : BitVec 1) (l : BitVec 4) (d : BitVec 7) (v : BitVec 7) (w : BitVec 4) : Statement (.atomAdd32 c l d v w) := by
  intro w0 he
  obtain rfl := Option.some.inj he
  refine (decode_7 (by simp (disch := decide) only [fld_low, fld_high]; rfl)).trans ?_
  unfold decodeClass7
  rw [show fld (c ++ 224#9 ++ l ++ d ++ v ++ w : BitVec 32) 22 5 = 0#5 from by simp (disch := decide) only [fld_low, fld_high]; rfl]
  show Except.ok _ = _
  simp (disch := decide) only [fld_low, fld_high, Nat.reduceSub, fld_self]
theorem atomAdd64 (c : BitVec 1) (l : BitVec 4) (d : BitVec 7) (v : BitVec 7) (w : BitVec 4) : Statement (.atomAdd64 c l d v w) := by
  intro w0 he
  obtain rfl := Option.some.inj he
  refine (decode_7 (by simp (disch := decide) only [fld_low, fld_high]; rfl)).trans ?_
  unfold decodeClass7
  rw [show fld (c ++ 240#9 ++ l ++ d ++ v ++ w : BitVec 32) 22 5 = 16#5 from by simp (disch := decide) only [fld_low, fld_high]; rfl]
  show Except.ok _ = _
  simp (disch := decide) only [fld_low, fld_high, Nat.reduceSub, fld_self]
theorem atomSub32 (c : BitVec 1) (l : BitVec 4) (d : BitVec 7) (v : BitVec 7) (w : BitVec 4) : Statement (.atomSub32 c l d v w) := by
  intro w0 he
  obtain rfl := Option.some.inj he
  refine (decode_7 (by simp (disch := decide) only [fld_low, fld_high]; rfl)).trans ?_
  unfold decodeClass7
  rw [show fld (c ++ 225#9 ++ l ++ d ++ v ++ w : BitVec 32) 22 5 = 1#5 from by simp (disch := decide) only [fld_low, fld_high]; rfl]
  show Except.ok _ = _
  simp (disch := decide) only [fld_low, fld_high, Nat.reduceSub, fld_self]
theorem atomSub64 (c : BitVec 1) (l : BitVec 4) (d : BitVec 7) (v : BitVec 7) (w : BitVec 4) : Statement (.atomSub64 c l d v w) := by
  intro w0 he
  obtain rfl := Option.some.inj he
  refine (decode_7 (by simp (disch := decide) only [fld_low, fld_high]; rfl)).trans ?_
  unfold decodeClass7
  rw [show fld (c ++ 241#9 ++ l ++ d ++ v ++ w : BitVec 32) 22 5 = 17#5 from by simp (disch := decide) only [fld_low, fld_high]; rfl]
  show Except.ok _ = _
  simp (disch := decide) only [fld_low, fld_high, Nat.reduceSub, fld_self]
theorem atomMinS32 (c : BitVec 1) (l : BitVec 4) (d : BitVec 7) (v : BitVec 7) (w : BitVec 4) : Statement (.atomMinS32 c l d v w) := by
  intro w0 he
  obtain rfl := Option.some.inj he
  refine (decode_7 (by simp (disch := decide) only [fld_low, fld_high]; rfl)).trans ?_
  unfold decodeClass7
  rw [show fld (c ++ 226#9 ++ l ++ d ++ v ++ w : BitVec 32) 22 5 = 2#5 from by simp (disch := decide) only [fld_low, fld_high]; rfl]
  show Except.ok _ = _
  simp (disch := decide) only [fld_low, fld_high, Nat.reduceSub, fld_self]
theorem atomMinS64 (c : BitVec 1) (l : BitVec 4) (d : BitVec 7) (v : BitVec 7) (w : BitVec 4) : Statement (.atomMinS64 c l d v w) := by
  intro w0 he
  obtain rfl := Option.some.inj he
  refine (decode_7 (by simp (disch := decide) only [fld_low, fld_high]; rfl)).trans ?_
  unfold decodeClass7
  rw [show fld (c ++ 242#9 ++ l ++ d ++ v ++ w : BitVec 32) 22 5 = 18#5 from by simp (disch := decide) only [fld_low, fld_high]; rfl]
  show Except.ok _ = _
  simp (disch := decide) only [fld_low, fld_high, Nat.reduceSub, fld_self]
theorem atomMinN32 (c : BitVec 1) (l : BitVec 4) (d : BitVec 7) (v : BitVec 7) (w : BitVec 4) : Statement (.atomMinN32 c l d v w) := by
  intro w0 he
  obtain rfl := Option.some.inj he
  refine (decode_7 (by simp (disch := decide) only [fld_low, fld_high]; rfl)).trans ?_
  unfold decodeClass7
  rw [show fld (c ++ 227#9 ++ l ++ d ++ v ++ w : BitVec 32) 22 5 = 3#5 from by simp (disch := decide) only [fld_low, fld_high]; rfl]
  show Except.ok _ = _
  simp (disch := decide) only [fld_low, fld_high, Nat.reduceSub, fld_self]
theorem atomMinN64 (c : BitVec 1) (l : BitVec 4) (d : BitVec 7) (v : BitVec 7) (w : BitVec 4) : Statement (.atomMinN64 c l d v w) := by
  intro w0 he
  obtain rfl := Option.some.inj he
  refine (decode_7 (by simp (disch := decide) only [fld_low, fld_high]; rfl)).trans ?_
  unfold decodeClass7
  rw [show fld (c ++ 243#9 ++ l ++ d ++ v ++ w : BitVec 32) 22 5 = 19#5 from by simp (disch := decide) only [fld_low, fld_high]; rfl]
  show Except.ok _ = _
  simp (disch := decide) only [fld_low, fld_high, Nat.reduceSub, fld_self]
theorem atomMaxS32 (c : BitVec 1) (l : BitVec 4) (d : BitVec 7) (v : BitVec 7) (w : BitVec 4) : Statement (.atomMaxS32 c l d v w) := by
  intro w0 he
  obtain rfl := Option.some.inj he
  refine (decode_7 (by simp (disch := decide) only [fld_low, fld_high]; rfl)).trans ?_
  unfold decodeClass7
  rw [show fld (c ++ 228#9 ++ l ++ d ++ v ++ w : BitVec 32) 22 5 = 4#5 from by simp (disch := decide) only [fld_low, fld_high]; rfl]
  show Except.ok _ = _
  simp (disch := decide) only [fld_low, fld_high, Nat.reduceSub, fld_self]
theorem atomMaxS64 (c : BitVec 1) (l : BitVec 4) (d : BitVec 7) (v : BitVec 7) (w : BitVec 4) : Statement (.atomMaxS64 c l d v w) := by
  intro w0 he
  obtain rfl := Option.some.inj he
  refine (decode_7 (by simp (disch := decide) only [fld_low, fld_high]; rfl)).trans ?_
  unfold decodeClass7
  rw [show fld (c ++ 244#9 ++ l ++ d ++ v ++ w : BitVec 32) 22 5 = 20#5 from by simp (disch := decide) only [fld_low, fld_high]; rfl]
  show Except.ok _ = _
  simp (disch := decide) only [fld_low, fld_high, Nat.reduceSub, fld_self]
theorem atomMaxN32 (c : BitVec 1) (l : BitVec 4) (d : BitVec 7) (v : BitVec 7) (w : BitVec 4) : Statement (.atomMaxN32 c l d v w) := by
  intro w0 he
  obtain rfl := Option.some.inj he
  refine (decode_7 (by simp (disch := decide) only [fld_low, fld_high]; rfl)).trans ?_
  unfold decodeClass7
  rw [show fld (c ++ 229#9 ++ l ++ d ++ v ++ w : BitVec 32) 22 5 = 5#5 from by simp (disch := decide) only [fld_low, fld_high]; rfl]
  show Except.ok _ = _
  simp (disch := decide) only [fld_low, fld_high, Nat.reduceSub, fld_self]
theorem atomMaxN64 (c : BitVec 1) (l : BitVec 4) (d : BitVec 7) (v : BitVec 7) (w : BitVec 4) : Statement (.atomMaxN64 c l d v w) := by
  intro w0 he
  obtain rfl := Option.some.inj he
  refine (decode_7 (by simp (disch := decide) only [fld_low, fld_high]; rfl)).trans ?_
  unfold decodeClass7
  rw [show fld (c ++ 245#9 ++ l ++ d ++ v ++ w : BitVec 32) 22 5 = 21#5 from by simp (disch := decide) only [fld_low, fld_high]; rfl]
  show Except.ok _ = _
  simp (disch := decide) only [fld_low, fld_high, Nat.reduceSub, fld_self]
theorem atomAnd32 (c : BitVec 1) (l : BitVec 4) (d : BitVec 7) (v : BitVec 7) (w : BitVec 4) : Statement (.atomAnd32 c l d v w) := by
  intro w0 he
  obtain rfl := Option.some.inj he
  refine (decode_7 (by simp (disch := decide) only [fld_low, fld_high]; rfl)).trans ?_
  unfold decodeClass7
  rw [show fld (c ++ 230#9 ++ l ++ d ++ v ++ w : BitVec 32) 22 5 = 6#5 from by simp (disch := decide) only [fld_low, fld_high]; rfl]
  show Except.ok _ = _
  simp (disch := decide) only [fld_low, fld_high, Nat.reduceSub, fld_self]
theorem atomAnd64 (c : BitVec 1) (l : BitVec 4) (d : BitVec 7) (v : BitVec 7) (w : BitVec 4) : Statement (.atomAnd64 c l d v w) := by
  intro w0 he
  obtain rfl := Option.some.inj he
  refine (decode_7 (by simp (disch := decide) only [fld_low, fld_high]; rfl)).trans ?_
  unfold decodeClass7
  rw [show fld (c ++ 246#9 ++ l ++ d ++ v ++ w : BitVec 32) 22 5 = 22#5 from by simp (disch := decide) only [fld_low, fld_high]; rfl]
  show Except.ok _ = _
  simp (disch := decide) only [fld_low, fld_high, Nat.reduceSub, fld_self]
theorem atomOr32 (c : BitVec 1) (l : BitVec 4) (d : BitVec 7) (v : BitVec 7) (w : BitVec 4) : Statement (.atomOr32 c l d v w) := by
  intro w0 he
  obtain rfl := Option.some.inj he
  refine (decode_7 (by simp (disch := decide) only [fld_low, fld_high]; rfl)).trans ?_
  unfold decodeClass7
  rw [show fld (c ++ 231#9 ++ l ++ d ++ v ++ w : BitVec 32) 22 5 = 7#5 from by simp (disch := decide) only [fld_low, fld_high]; rfl]
  show Except.ok _ = _
  simp (disch := decide) only [fld_low, fld_high, Nat.reduceSub, fld_self]
theorem atomOr64 (c : BitVec 1) (l : BitVec 4) (d : BitVec 7) (v : BitVec 7) (w : BitVec 4) : Statement (.atomOr64 c l d v w) := by
  intro w0 he
  obtain rfl := Option.some.inj he
  refine (decode_7 (by simp (disch := decide) only [fld_low, fld_high]; rfl)).trans ?_
  unfold decodeClass7
  rw [show fld (c ++ 247#9 ++ l ++ d ++ v ++ w : BitVec 32) 22 5 = 23#5 from by simp (disch := decide) only [fld_low, fld_high]; rfl]
  show Except.ok _ = _
  simp (disch := decide) only [fld_low, fld_high, Nat.reduceSub, fld_self]
theorem atomXor32 (c : BitVec 1) (l : BitVec 4) (d : BitVec 7) (v : BitVec 7) (w : BitVec 4) : Statement (.atomXor32 c l d v w) := by
  intro w0 he
  obtain rfl := Option.some.inj he
  refine (decode_7 (by simp (disch := decide) only [fld_low, fld_high]; rfl)).trans ?_
  unfold decodeClass7
  rw [show fld (c ++ 232#9 ++ l ++ d ++ v ++ w : BitVec 32) 22 5 = 8#5 from by simp (disch := decide) only [fld_low, fld_high]; rfl]
  show Except.ok _ = _
  simp (disch := decide) only [fld_low, fld_high, Nat.reduceSub, fld_self]
theorem atomXor64 (c : BitVec 1) (l : BitVec 4) (d : BitVec 7) (v : BitVec 7) (w : BitVec 4) : Statement (.atomXor64 c l d v w) := by
  intro w0 he
  obtain rfl := Option.some.inj he
  refine (decode_7 (by simp (disch := decide) only [fld_low, fld_high]; rfl)).trans ?_
  unfold decodeClass7
  rw [show fld (c ++ 248#9 ++ l ++ d ++ v ++ w : BitVec 32) 22 5 = 24#5 from by simp (disch := decide) only [fld_low, fld_high]; rfl]
  show Except.ok _ = _
  simp (disch := decide) only [fld_low, fld_high, Nat.reduceSub, fld_self]
theorem atomExch32 (c : BitVec 1) (l : BitVec 4) (d : BitVec 7) (v : BitVec 7) (w : BitVec 4) : Statement (.atomExch32 c l d v w) := by
  intro w0 he
  obtain rfl := Option.some.inj he
  refine (decode_7 (by simp (disch := decide) only [fld_low, fld_high]; rfl)).trans ?_
  unfold decodeClass7
  rw [show fld (c ++ 233#9 ++ l ++ d ++ v ++ w : BitVec 32) 22 5 = 9#5 from by simp (disch := decide) only [fld_low, fld_high]; rfl]
  show Except.ok _ = _
  simp (disch := decide) only [fld_low, fld_high, Nat.reduceSub, fld_self]
theorem atomExch64 (c : BitVec 1) (l : BitVec 4) (d : BitVec 7) (v : BitVec 7) (w : BitVec 4) : Statement (.atomExch64 c l d v w) := by
  intro w0 he
  obtain rfl := Option.some.inj he
  refine (decode_7 (by simp (disch := decide) only [fld_low, fld_high]; rfl)).trans ?_
  unfold decodeClass7
  rw [show fld (c ++ 249#9 ++ l ++ d ++ v ++ w : BitVec 32) 22 5 = 25#5 from by simp (disch := decide) only [fld_low, fld_high]; rfl]
  show Except.ok _ = _
  simp (disch := decide) only [fld_low, fld_high, Nat.reduceSub, fld_self]
theorem atomCas32 (c : BitVec 1) (l : BitVec 4) (d : BitVec 7) (v : BitVec 7) (w : BitVec 4) : Statement (.atomCas32 c l d v w) := by
  intro w0 he
  obtain rfl := Option.some.inj he
  refine (decode_7 (by simp (disch := decide) only [fld_low, fld_high]; rfl)).trans ?_
  unfold decodeClass7
  rw [show fld (c ++ 234#9 ++ l ++ d ++ v ++ w : BitVec 32) 22 5 = 10#5 from by simp (disch := decide) only [fld_low, fld_high]; rfl]
  show Except.ok _ = _
  simp (disch := decide) only [fld_low, fld_high, Nat.reduceSub, fld_self]
theorem atomCas64 (c : BitVec 1) (l : BitVec 4) (d : BitVec 7) (v : BitVec 7) (w : BitVec 4) : Statement (.atomCas64 c l d v w) := by
  intro w0 he
  obtain rfl := Option.some.inj he
  refine (decode_7 (by simp (disch := decide) only [fld_low, fld_high]; rfl)).trans ?_
  unfold decodeClass7
  rw [show fld (c ++ 250#9 ++ l ++ d ++ v ++ w : BitVec 32) 22 5 = 26#5 from by simp (disch := decide) only [fld_low, fld_high]; rfl]
  show Except.ok _ = _
  simp (disch := decide) only [fld_low, fld_high, Nat.reduceSub, fld_self]
theorem atomInc32 (c : BitVec 1) (l : BitVec 4) (d : BitVec 7) (v : BitVec 7) (w : BitVec 4) : Statement (.atomInc32 c l d v w) := by
  intro w0 he
  obtain rfl := Option.some.inj he
  refine (decode_7 (by simp (disch := decide) only [fld_low, fld_high]; rfl)).trans ?_
  unfold decodeClass7
  rw [show fld (c ++ 235#9 ++ l ++ d ++ v ++ w : BitVec 32) 22 5 = 11#5 from by simp (disch := decide) only [fld_low, fld_high]; rfl]
  show Except.ok _ = _
  simp (disch := decide) only [fld_low, fld_high, Nat.reduceSub, fld_self]
theorem atomInc64 (c : BitVec 1) (l : BitVec 4) (d : BitVec 7) (v : BitVec 7) (w : BitVec 4) : Statement (.atomInc64 c l d v w) := by
  intro w0 he
  obtain rfl := Option.some.inj he
  refine (decode_7 (by simp (disch := decide) only [fld_low, fld_high]; rfl)).trans ?_
  unfold decodeClass7
  rw [show fld (c ++ 251#9 ++ l ++ d ++ v ++ w : BitVec 32) 22 5 = 27#5 from by simp (disch := decide) only [fld_low, fld_high]; rfl]
  show Except.ok _ = _
  simp (disch := decide) only [fld_low, fld_high, Nat.reduceSub, fld_self]
theorem atomDec32 (c : BitVec 1) (l : BitVec 4) (d : BitVec 7) (v : BitVec 7) (w : BitVec 4) : Statement (.atomDec32 c l d v w) := by
  intro w0 he
  obtain rfl := Option.some.inj he
  refine (decode_7 (by simp (disch := decide) only [fld_low, fld_high]; rfl)).trans ?_
  unfold decodeClass7
  rw [show fld (c ++ 236#9 ++ l ++ d ++ v ++ w : BitVec 32) 22 5 = 12#5 from by simp (disch := decide) only [fld_low, fld_high]; rfl]
  show Except.ok _ = _
  simp (disch := decide) only [fld_low, fld_high, Nat.reduceSub, fld_self]
theorem atomDec64 (c : BitVec 1) (l : BitVec 4) (d : BitVec 7) (v : BitVec 7) (w : BitVec 4) : Statement (.atomDec64 c l d v w) := by
  intro w0 he
  obtain rfl := Option.some.inj he
  refine (decode_7 (by simp (disch := decide) only [fld_low, fld_high]; rfl)).trans ?_
  unfold decodeClass7
  rw [show fld (c ++ 252#9 ++ l ++ d ++ v ++ w : BitVec 32) 22 5 = 28#5 from by simp (disch := decide) only [fld_low, fld_high]; rfl]
  show Except.ok _ = _
  simp (disch := decide) only [fld_low, fld_high, Nat.reduceSub, fld_self]
theorem atomFaddF32 (c : BitVec 1) (l : BitVec 4) (d : BitVec 7) (v : BitVec 7) (w : BitVec 4) : Statement (.atomFaddF32 c l d v w) := by
  intro w0 he
  obtain rfl := Option.some.inj he
  refine (decode_7 (by simp (disch := decide) only [fld_low, fld_high]; rfl)).trans ?_
  unfold decodeClass7
  rw [show fld (c ++ 237#9 ++ l ++ d ++ v ++ w : BitVec 32) 22 5 = 13#5 from by simp (disch := decide) only [fld_low, fld_high]; rfl]
  show Except.ok _ = _
  simp (disch := decide) only [fld_low, fld_high, Nat.reduceSub, fld_self]
theorem atomFadd2Bf16 (c : BitVec 1) (l : BitVec 4) (d : BitVec 7) (v : BitVec 7) (w : BitVec 4) : Statement (.atomFadd2Bf16 c l d v w) := by
  intro w0 he
  obtain rfl := Option.some.inj he
  refine (decode_7 (by simp (disch := decide) only [fld_low, fld_high]; rfl)).trans ?_
  unfold decodeClass7
  rw [show fld (c ++ 238#9 ++ l ++ d ++ v ++ w : BitVec 32) 22 5 = 14#5 from by simp (disch := decide) only [fld_low, fld_high]; rfl]
  show Except.ok _ = _
  simp (disch := decide) only [fld_low, fld_high, Nat.reduceSub, fld_self]
theorem mma (c : BitVec 1) (l : BitVec 4) (s : BitVec 3) (g : BitVec 5) (x : BitVec 5) (y : BitVec 6) : Statement (.mma c l s g x y) := by
  intro w0 he
  obtain rfl := Option.some.inj he
  refine (decode_8 (by simp (disch := decide) only [fld_low, fld_high]; rfl)).trans ?_
  unfold decodeClass8
  rw [show fld (c ++ 128#8 ++ l ++ s ++ g ++ x ++ y : BitVec 32) 23 4 = 0#4 from by simp (disch := decide) only [fld_low, fld_high]; rfl]
  show Except.ok _ = _
  simp (disch := decide) only [fld_low, fld_high, Nat.reduceSub, fld_self]
theorem mman (c : BitVec 1) (l : BitVec 4) (s : BitVec 3) (g : BitVec 5) (x : BitVec 5) (y : BitVec 6) : Statement (.mman c l s g x y) := by
  intro w0 he
  obtain rfl := Option.some.inj he
  refine (decode_8 (by simp (disch := decide) only [fld_low, fld_high]; rfl)).trans ?_
  unfold decodeClass8
  rw [show fld (c ++ 129#8 ++ l ++ s ++ g ++ x ++ y : BitVec 32) 23 4 = 1#4 from by simp (disch := decide) only [fld_low, fld_high]; rfl]
  show Except.ok _ = _
  simp (disch := decide) only [fld_low, fld_high, Nat.reduceSub, fld_self]
theorem mmas (c : BitVec 1) (l : BitVec 4) (g : BitVec 5) (x : BitVec 5) (y : BitVec 6) : Statement (.mmas c l g x y) := by
  intro w0 he
  obtain rfl := Option.some.inj he
  refine (decode_8 (by simp (disch := decide) only [fld_low, fld_high]; rfl)).trans ?_
  unfold decodeClass8
  rw [show fld (c ++ 130#8 ++ l ++ 0#3 ++ g ++ x ++ y : BitVec 32) 23 4 = 2#4 from by simp (disch := decide) only [fld_low, fld_high]; rfl]
  show (if _ then _ else _) = _
  rw [if_pos ((show fld (c ++ 130#8 ++ l ++ 0#3 ++ g ++ x ++ y : BitVec 32) 16 3 = 0 from by simp (disch := decide) only [fld_low, fld_high]; rfl))]
  simp (disch := decide) only [fld_low, fld_high, Nat.reduceSub, fld_self]
theorem mmaz (c : BitVec 1) (l : BitVec 4) (s : BitVec 3) (g : BitVec 5) (x : BitVec 5) (y : BitVec 6) : Statement (.mmaz c l s g x y) := by
  intro w0 he
  obtain rfl := Option.some.inj he
  refine (decode_8 (by simp (disch := decide) only [fld_low, fld_high]; rfl)).trans ?_
  unfold decodeClass8
  rw [show fld (c ++ 131#8 ++ l ++ s ++ g ++ x ++ y : BitVec 32) 23 4 = 3#4 from by simp (disch := decide) only [fld_low, fld_high]; rfl]
  show Except.ok _ = _
  simp (disch := decide) only [fld_low, fld_high, Nat.reduceSub, fld_self]
theorem aclr (c : BitVec 1) (l : BitVec 4) (s : BitVec 1) (g : BitVec 5) : Statement (.aclr c l s g) := by
  intro w0 he
  obtain rfl := Option.some.inj he
  refine (decode_8 (by simp (disch := decide) only [fld_low, fld_high]; rfl)).trans ?_
  unfold decodeClass8
  rw [show fld (c ++ 132#8 ++ l ++ 0#2 ++ s ++ g ++ 0#11 : BitVec 32) 23 4 = 4#4 from by simp (disch := decide) only [fld_low, fld_high]; rfl]
  show (if _ then _ else _) = _
  rw [if_pos (⟨(show fld (c ++ 132#8 ++ l ++ 0#2 ++ s ++ g ++ 0#11 : BitVec 32) 17 2 = 0 from by simp (disch := decide) only [fld_low, fld_high]; rfl), (show fld (c ++ 132#8 ++ l ++ 0#2 ++ s ++ g ++ 0#11 : BitVec 32) 0 11 = 0 from by simp (disch := decide) only [fld_low, fld_high]; rfl)⟩)]
  simp (disch := decide) only [fld_low, fld_high, Nat.reduceSub, fld_self]
theorem aanc (c : BitVec 1) (l : BitVec 4) (s : BitVec 1) (g : BitVec 5) (x : BitVec 11) : Statement (.aanc c l s g x) := by
  intro w0 he
  obtain rfl := Option.some.inj he
  refine (decode_8 (by simp (disch := decide) only [fld_low, fld_high]; rfl)).trans ?_
  unfold decodeClass8
  rw [show fld (c ++ 133#8 ++ l ++ 0#2 ++ s ++ g ++ x : BitVec 32) 23 4 = 5#4 from by simp (disch := decide) only [fld_low, fld_high]; rfl]
  show (if _ then _ else _) = _
  rw [if_pos ((show fld (c ++ 133#8 ++ l ++ 0#2 ++ s ++ g ++ x : BitVec 32) 17 2 = 0 from by simp (disch := decide) only [fld_low, fld_high]; rfl))]
  simp (disch := decide) only [fld_low, fld_high, Nat.reduceSub, fld_self]
theorem ares (c : BitVec 1) (l : BitVec 4) (s : BitVec 1) (g : BitVec 5) (f : BitVec 4) (y : BitVec 6) : Statement (.ares c l s g f y) := by
  intro w0 he
  obtain rfl := Option.some.inj he
  refine (decode_8 (by simp (disch := decide) only [fld_low, fld_high]; rfl)).trans ?_
  unfold decodeClass8
  rw [show fld (c ++ 134#8 ++ l ++ 0#2 ++ s ++ g ++ 0#1 ++ f ++ y : BitVec 32) 23 4 = 6#4 from by simp (disch := decide) only [fld_low, fld_high]; rfl]
  show (if _ then _ else _) = _
  rw [if_pos (⟨(show fld (c ++ 134#8 ++ l ++ 0#2 ++ s ++ g ++ 0#1 ++ f ++ y : BitVec 32) 17 2 = 0 from by simp (disch := decide) only [fld_low, fld_high]; rfl), (show fld (c ++ 134#8 ++ l ++ 0#2 ++ s ++ g ++ 0#1 ++ f ++ y : BitVec 32) 10 1 = 0 from by simp (disch := decide) only [fld_low, fld_high]; rfl)⟩)]
  simp (disch := decide) only [fld_low, fld_high, Nat.reduceSub, fld_self]
theorem acmp (c : BitVec 1) (l : BitVec 4) (k : BitVec 2) (s : BitVec 1) (g : BitVec 5) (x : BitVec 5) (y : BitVec 6) : Statement (.acmp c l k s g x y) := by
  intro w0 he
  obtain rfl := Option.some.inj he
  refine (decode_8 (by simp (disch := decide) only [fld_low, fld_high]; rfl)).trans ?_
  unfold decodeClass8
  rw [show fld (c ++ 135#8 ++ l ++ k ++ s ++ g ++ x ++ y : BitVec 32) 23 4 = 7#4 from by simp (disch := decide) only [fld_low, fld_high]; rfl]
  show Except.ok _ = _
  simp (disch := decide) only [fld_low, fld_high, Nat.reduceSub, fld_self]
theorem adrainRaw (c : BitVec 1) (l : BitVec 4) (s : BitVec 1) (g : BitVec 5) (x : BitVec 5) : Statement (.adrainRaw c l s g x) := by
  intro w0 he
  obtain rfl := Option.some.inj he
  refine (decode_8 (by simp (disch := decide) only [fld_low, fld_high]; rfl)).trans ?_
  unfold decodeClass8
  rw [show fld (c ++ 136#8 ++ l ++ 0#2 ++ s ++ g ++ x ++ 0#6 : BitVec 32) 23 4 = 8#4 from by simp (disch := decide) only [fld_low, fld_high]; rfl]
  show (if _ then _ else _) = _
  rw [if_pos (⟨(show fld (c ++ 136#8 ++ l ++ 0#2 ++ s ++ g ++ x ++ 0#6 : BitVec 32) 17 2 = 0 from by simp (disch := decide) only [fld_low, fld_high]; rfl), (show fld (c ++ 136#8 ++ l ++ 0#2 ++ s ++ g ++ x ++ 0#6 : BitVec 32) 0 6 = 0 from by simp (disch := decide) only [fld_low, fld_high]; rfl)⟩)]
  simp (disch := decide) only [fld_low, fld_high, Nat.reduceSub, fld_self]
theorem adrainValue (c : BitVec 1) (l : BitVec 4) (s : BitVec 1) (g : BitVec 5) (x : BitVec 5) (f : BitVec 4) : Statement (.adrainValue c l s g x f) := by
  intro w0 he
  obtain rfl := Option.some.inj he
  refine (decode_8 (by simp (disch := decide) only [fld_low, fld_high]; rfl)).trans ?_
  unfold decodeClass8
  rw [show fld (c ++ 136#8 ++ l ++ 1#2 ++ s ++ g ++ x ++ 0#2 ++ f : BitVec 32) 23 4 = 8#4 from by simp (disch := decide) only [fld_low, fld_high]; rfl]
  show (if _ then _ else _) = _
  rw [if_neg (fun hh => absurd hh.1 (by rw [show fld (c ++ 136#8 ++ l ++ 1#2 ++ s ++ g ++ x ++ 0#2 ++ f : BitVec 32) 17 2 = 1#2 from by simp (disch := decide) only [fld_low, fld_high]; rfl]; decide))]
  rw [if_pos (⟨(show fld (c ++ 136#8 ++ l ++ 1#2 ++ s ++ g ++ x ++ 0#2 ++ f : BitVec 32) 17 2 = 1 from by simp (disch := decide) only [fld_low, fld_high]; rfl), (show fld (c ++ 136#8 ++ l ++ 1#2 ++ s ++ g ++ x ++ 0#2 ++ f : BitVec 32) 4 2 = 0 from by simp (disch := decide) only [fld_low, fld_high]; rfl)⟩)]
  simp (disch := decide) only [fld_low, fld_high, Nat.reduceSub, fld_self]
theorem adrainAdd (c : BitVec 1) (l : BitVec 4) (s : BitVec 1) (g : BitVec 5) (x : BitVec 5) : Statement (.adrainAdd c l s g x) := by
  intro w0 he
  obtain rfl := Option.some.inj he
  refine (decode_8 (by simp (disch := decide) only [fld_low, fld_high]; rfl)).trans ?_
  unfold decodeClass8
  rw [show fld (c ++ 136#8 ++ l ++ 2#2 ++ s ++ g ++ x ++ 0#6 : BitVec 32) 23 4 = 8#4 from by simp (disch := decide) only [fld_low, fld_high]; rfl]
  show (if _ then _ else _) = _
  rw [if_neg (fun hh => absurd hh.1 (by rw [show fld (c ++ 136#8 ++ l ++ 2#2 ++ s ++ g ++ x ++ 0#6 : BitVec 32) 17 2 = 2#2 from by simp (disch := decide) only [fld_low, fld_high]; rfl]; decide))]
  rw [if_neg (fun hh => absurd hh.1 (by rw [show fld (c ++ 136#8 ++ l ++ 2#2 ++ s ++ g ++ x ++ 0#6 : BitVec 32) 17 2 = 2#2 from by simp (disch := decide) only [fld_low, fld_high]; rfl]; decide))]
  rw [if_pos (⟨(show fld (c ++ 136#8 ++ l ++ 2#2 ++ s ++ g ++ x ++ 0#6 : BitVec 32) 17 2 = 2 from by simp (disch := decide) only [fld_low, fld_high]; rfl), (show fld (c ++ 136#8 ++ l ++ 2#2 ++ s ++ g ++ x ++ 0#6 : BitVec 32) 0 6 = 0 from by simp (disch := decide) only [fld_low, fld_high]; rfl)⟩)]
  simp (disch := decide) only [fld_low, fld_high, Nat.reduceSub, fld_self]
theorem adrainValueAdd (c : BitVec 1) (l : BitVec 4) (s : BitVec 1) (g : BitVec 5) (x : BitVec 5) (f : BitVec 4) : Statement (.adrainValueAdd c l s g x f) := by
  intro w0 he
  obtain rfl := Option.some.inj he
  refine (decode_8 (by simp (disch := decide) only [fld_low, fld_high]; rfl)).trans ?_
  unfold decodeClass8
  rw [show fld (c ++ 136#8 ++ l ++ 3#2 ++ s ++ g ++ x ++ 0#2 ++ f : BitVec 32) 23 4 = 8#4 from by simp (disch := decide) only [fld_low, fld_high]; rfl]
  show (if _ then _ else _) = _
  rw [if_neg (fun hh => absurd hh.1 (by rw [show fld (c ++ 136#8 ++ l ++ 3#2 ++ s ++ g ++ x ++ 0#2 ++ f : BitVec 32) 17 2 = 3#2 from by simp (disch := decide) only [fld_low, fld_high]; rfl]; decide))]
  rw [if_neg (fun hh => absurd hh.1 (by rw [show fld (c ++ 136#8 ++ l ++ 3#2 ++ s ++ g ++ x ++ 0#2 ++ f : BitVec 32) 17 2 = 3#2 from by simp (disch := decide) only [fld_low, fld_high]; rfl]; decide))]
  rw [if_neg (fun hh => absurd hh.1 (by rw [show fld (c ++ 136#8 ++ l ++ 3#2 ++ s ++ g ++ x ++ 0#2 ++ f : BitVec 32) 17 2 = 3#2 from by simp (disch := decide) only [fld_low, fld_high]; rfl]; decide))]
  rw [if_pos (⟨(show fld (c ++ 136#8 ++ l ++ 3#2 ++ s ++ g ++ x ++ 0#2 ++ f : BitVec 32) 17 2 = 3 from by simp (disch := decide) only [fld_low, fld_high]; rfl), (show fld (c ++ 136#8 ++ l ++ 3#2 ++ s ++ g ++ x ++ 0#2 ++ f : BitVec 32) 4 2 = 0 from by simp (disch := decide) only [fld_low, fld_high]; rfl)⟩)]
  simp (disch := decide) only [fld_low, fld_high, Nat.reduceSub, fld_self]
theorem aloadRaw (c : BitVec 1) (l : BitVec 4) (s : BitVec 1) (g : BitVec 5) (x : BitVec 5) : Statement (.aloadRaw c l s g x) := by
  intro w0 he
  obtain rfl := Option.some.inj he
  refine (decode_8 (by simp (disch := decide) only [fld_low, fld_high]; rfl)).trans ?_
  unfold decodeClass8
  rw [show fld (c ++ 137#8 ++ l ++ 0#2 ++ s ++ g ++ x ++ 0#6 : BitVec 32) 23 4 = 9#4 from by simp (disch := decide) only [fld_low, fld_high]; rfl]
  show (if _ then _ else _) = _
  rw [if_pos (⟨(show fld (c ++ 137#8 ++ l ++ 0#2 ++ s ++ g ++ x ++ 0#6 : BitVec 32) 17 2 = 0 from by simp (disch := decide) only [fld_low, fld_high]; rfl), (show fld (c ++ 137#8 ++ l ++ 0#2 ++ s ++ g ++ x ++ 0#6 : BitVec 32) 0 6 = 0 from by simp (disch := decide) only [fld_low, fld_high]; rfl)⟩)]
  simp (disch := decide) only [fld_low, fld_high, Nat.reduceSub, fld_self]
theorem aloadValue (c : BitVec 1) (l : BitVec 4) (s : BitVec 1) (g : BitVec 5) (x : BitVec 5) (f : BitVec 4) : Statement (.aloadValue c l s g x f) := by
  intro w0 he
  obtain rfl := Option.some.inj he
  refine (decode_8 (by simp (disch := decide) only [fld_low, fld_high]; rfl)).trans ?_
  unfold decodeClass8
  rw [show fld (c ++ 137#8 ++ l ++ 1#2 ++ s ++ g ++ x ++ 0#2 ++ f : BitVec 32) 23 4 = 9#4 from by simp (disch := decide) only [fld_low, fld_high]; rfl]
  show (if _ then _ else _) = _
  rw [if_neg (fun hh => absurd hh.1 (by rw [show fld (c ++ 137#8 ++ l ++ 1#2 ++ s ++ g ++ x ++ 0#2 ++ f : BitVec 32) 17 2 = 1#2 from by simp (disch := decide) only [fld_low, fld_high]; rfl]; decide))]
  rw [if_pos (⟨(show fld (c ++ 137#8 ++ l ++ 1#2 ++ s ++ g ++ x ++ 0#2 ++ f : BitVec 32) 17 2 = 1 from by simp (disch := decide) only [fld_low, fld_high]; rfl), (show fld (c ++ 137#8 ++ l ++ 1#2 ++ s ++ g ++ x ++ 0#2 ++ f : BitVec 32) 4 2 = 0 from by simp (disch := decide) only [fld_low, fld_high]; rfl)⟩)]
  simp (disch := decide) only [fld_low, fld_high, Nat.reduceSub, fld_self]
theorem scld (c : BitVec 1) (l : BitVec 4) (s : BitVec 3) (e : BitVec 10) (y : BitVec 6) : Statement (.scld c l s e y) := by
  intro w0 he
  obtain rfl := Option.some.inj he
  refine (decode_8 (by simp (disch := decide) only [fld_low, fld_high]; rfl)).trans ?_
  unfold decodeClass8
  rw [show fld (c ++ 138#8 ++ l ++ s ++ e ++ y : BitVec 32) 23 4 = 10#4 from by simp (disch := decide) only [fld_low, fld_high]; rfl]
  show Except.ok _ = _
  simp (disch := decide) only [fld_low, fld_high, Nat.reduceSub, fld_self]
theorem mfmt (c : BitVec 1) (l : BitVec 4) (i : BitVec 10) : Statement (.mfmt c l i) := by
  intro w0 he
  obtain rfl := Option.some.inj he
  refine (decode_8 (by simp (disch := decide) only [fld_low, fld_high]; rfl)).trans ?_
  unfold decodeClass8
  rw [show fld (c ++ 139#8 ++ l ++ 0#9 ++ i : BitVec 32) 23 4 = 11#4 from by simp (disch := decide) only [fld_low, fld_high]; rfl]
  show (if _ then _ else _) = _
  rw [if_pos ((show fld (c ++ 139#8 ++ l ++ 0#9 ++ i : BitVec 32) 10 9 = 0 from by simp (disch := decide) only [fld_low, fld_high]; rfl))]
  simp (disch := decide) only [fld_low, fld_high, Nat.reduceSub, fld_self]
theorem tmma (c : BitVec 1) (l : BitVec 4) (t : BitVec 2) (y : BitVec 6) : Statement (.tmma c l t y) := by
  intro w0 he
  obtain rfl := Option.some.inj he
  refine (decode_8 (by simp (disch := decide) only [fld_low, fld_high]; rfl)).trans ?_
  unfold decodeClass8
  rw [show fld (c ++ 140#8 ++ l ++ 0#6 ++ t ++ 0#5 ++ y : BitVec 32) 23 4 = 12#4 from by simp (disch := decide) only [fld_low, fld_high]; rfl]
  show (if _ then _ else _) = _
  rw [if_pos (⟨(show fld (c ++ 140#8 ++ l ++ 0#6 ++ t ++ 0#5 ++ y : BitVec 32) 13 6 = 0 from by simp (disch := decide) only [fld_low, fld_high]; rfl), (show fld (c ++ 140#8 ++ l ++ 0#6 ++ t ++ 0#5 ++ y : BitVec 32) 6 5 = 0 from by simp (disch := decide) only [fld_low, fld_high]; rfl)⟩)]
  simp (disch := decide) only [fld_low, fld_high, Nat.reduceSub, fld_self]
theorem twait (c : BitVec 1) (l : BitVec 4) (t : BitVec 2) : Statement (.twait c l t) := by
  intro w0 he
  obtain rfl := Option.some.inj he
  refine (decode_8 (by simp (disch := decide) only [fld_low, fld_high]; rfl)).trans ?_
  unfold decodeClass8
  rw [show fld (c ++ 141#8 ++ l ++ 0#6 ++ t ++ 0#11 : BitVec 32) 23 4 = 13#4 from by simp (disch := decide) only [fld_low, fld_high]; rfl]
  show (if _ then _ else _) = _
  rw [if_pos (⟨(show fld (c ++ 141#8 ++ l ++ 0#6 ++ t ++ 0#11 : BitVec 32) 13 6 = 0 from by simp (disch := decide) only [fld_low, fld_high]; rfl), (show fld (c ++ 141#8 ++ l ++ 0#6 ++ t ++ 0#11 : BitVec 32) 0 11 = 0 from by simp (disch := decide) only [fld_low, fld_high]; rfl)⟩)]
  simp (disch := decide) only [fld_low, fld_high, Nat.reduceSub, fld_self]
theorem twaitOc (c : BitVec 1) (l : BitVec 4) (t : BitVec 2) : Statement (.twaitOc c l t) := by
  intro w0 he
  obtain rfl := Option.some.inj he
  refine (decode_8 (by simp (disch := decide) only [fld_low, fld_high]; rfl)).trans ?_
  unfold decodeClass8
  rw [show fld (c ++ 141#8 ++ l ++ 8#6 ++ t ++ 0#11 : BitVec 32) 23 4 = 13#4 from by simp (disch := decide) only [fld_low, fld_high]; rfl]
  show (if _ then _ else _) = _
  rw [if_neg (fun hh => absurd hh.1 (by rw [show fld (c ++ 141#8 ++ l ++ 8#6 ++ t ++ 0#11 : BitVec 32) 13 6 = 8#6 from by simp (disch := decide) only [fld_low, fld_high]; rfl]; decide))]
  rw [if_pos (⟨(show fld (c ++ 141#8 ++ l ++ 8#6 ++ t ++ 0#11 : BitVec 32) 13 6 = 8 from by simp (disch := decide) only [fld_low, fld_high]; rfl), (show fld (c ++ 141#8 ++ l ++ 8#6 ++ t ++ 0#11 : BitVec 32) 0 11 = 0 from by simp (disch := decide) only [fld_low, fld_high]; rfl)⟩)]
  simp (disch := decide) only [fld_low, fld_high, Nat.reduceSub, fld_self]
theorem acanon (c : BitVec 1) (l : BitVec 4) (s : BitVec 1) (g : BitVec 5) : Statement (.acanon c l s g) := by
  intro w0 he
  obtain rfl := Option.some.inj he
  refine (decode_8 (by simp (disch := decide) only [fld_low, fld_high]; rfl)).trans ?_
  unfold decodeClass8
  rw [show fld (c ++ 142#8 ++ l ++ 0#2 ++ s ++ g ++ 0#11 : BitVec 32) 23 4 = 14#4 from by simp (disch := decide) only [fld_low, fld_high]; rfl]
  show (if _ then _ else _) = _
  rw [if_pos (⟨(show fld (c ++ 142#8 ++ l ++ 0#2 ++ s ++ g ++ 0#11 : BitVec 32) 17 2 = 0 from by simp (disch := decide) only [fld_low, fld_high]; rfl), (show fld (c ++ 142#8 ++ l ++ 0#2 ++ s ++ g ++ 0#11 : BitVec 32) 0 11 = 0 from by simp (disch := decide) only [fld_low, fld_high]; rfl)⟩)]
  simp (disch := decide) only [fld_low, fld_high, Nat.reduceSub, fld_self]
theorem amov (c : BitVec 1) (l : BitVec 4) (s : BitVec 2) (g : BitVec 5) (x : BitVec 5) : Statement (.amov c l s g x) := by
  intro w0 he
  obtain rfl := Option.some.inj he
  refine (decode_8 (by simp (disch := decide) only [fld_low, fld_high]; rfl)).trans ?_
  unfold decodeClass8
  rw [show fld (c ++ 143#8 ++ l ++ 0#1 ++ s ++ g ++ x ++ 0#6 : BitVec 32) 23 4 = 15#4 from by simp (disch := decide) only [fld_low, fld_high]; rfl]
  show (if _ then _ else _) = _
  rw [if_pos (⟨(show fld (c ++ 143#8 ++ l ++ 0#1 ++ s ++ g ++ x ++ 0#6 : BitVec 32) 18 1 = 0 from by simp (disch := decide) only [fld_low, fld_high]; rfl), (show fld (c ++ 143#8 ++ l ++ 0#1 ++ s ++ g ++ x ++ 0#6 : BitVec 32) 0 6 = 0 from by simp (disch := decide) only [fld_low, fld_high]; rfl)⟩)]
  simp (disch := decide) only [fld_low, fld_high, Nat.reduceSub, fld_self]
theorem edge (c : BitVec 1) (l : BitVec 4) (g : BitVec 5) (x : BitVec 5) (y : BitVec 6) : Statement (.edge c l g x y) := by
  intro w0 he
  obtain rfl := Option.some.inj he
  refine (decode_9 (by simp (disch := decide) only [fld_low, fld_high]; rfl)).trans ?_
  unfold decodeClass9
  rw [show fld (c ++ 144#8 ++ l ++ 0#3 ++ g ++ x ++ y : BitVec 32) 23 4 = 0#4 from by simp (disch := decide) only [fld_low, fld_high]; rfl]
  show (if _ then _ else _) = _
  rw [if_pos ((show fld (c ++ 144#8 ++ l ++ 0#3 ++ g ++ x ++ y : BitVec 32) 16 3 = 0 from by simp (disch := decide) only [fld_low, fld_high]; rfl))]
  simp (disch := decide) only [fld_low, fld_high, Nat.reduceSub, fld_self]
theorem bary (c : BitVec 1) (l : BitVec 4) (x : BitVec 5) (y : BitVec 6) : Statement (.bary c l x y) := by
  intro w0 he
  obtain rfl := Option.some.inj he
  refine (decode_9 (by simp (disch := decide) only [fld_low, fld_high]; rfl)).trans ?_
  unfold decodeClass9
  rw [show fld (c ++ 145#8 ++ l ++ 0#8 ++ x ++ y : BitVec 32) 23 4 = 1#4 from by simp (disch := decide) only [fld_low, fld_high]; rfl]
  show (if _ then _ else _) = _
  rw [if_pos ((show fld (c ++ 145#8 ++ l ++ 0#8 ++ x ++ y : BitVec 32) 11 8 = 0 from by simp (disch := decide) only [fld_low, fld_high]; rfl))]
  simp (disch := decide) only [fld_low, fld_high, Nat.reduceSub, fld_self]
theorem covpk (c : BitVec 1) (l : BitVec 4) (g : BitVec 5) (x : BitVec 5) (y : BitVec 6) : Statement (.covpk c l g x y) := by
  intro w0 he
  obtain rfl := Option.some.inj he
  refine (decode_9 (by simp (disch := decide) only [fld_low, fld_high]; rfl)).trans ?_
  unfold decodeClass9
  rw [show fld (c ++ 146#8 ++ l ++ 0#3 ++ g ++ x ++ y : BitVec 32) 23 4 = 2#4 from by simp (disch := decide) only [fld_low, fld_high]; rfl]
  show (if _ then _ else _) = _
  rw [if_pos ((show fld (c ++ 146#8 ++ l ++ 0#3 ++ g ++ x ++ y : BitVec 32) 16 3 = 0 from by simp (disch := decide) only [fld_low, fld_high]; rfl))]
  simp (disch := decide) only [fld_low, fld_high, Nat.reduceSub, fld_self]
theorem texg (c : BitVec 1) (l : BitVec 4) (g : BitVec 4) (x : BitVec 5) (y : BitVec 6) : Statement (.texg c l g x y) := by
  intro w0 he
  obtain rfl := Option.some.inj he
  refine (decode_9 (by simp (disch := decide) only [fld_low, fld_high]; rfl)).trans ?_
  unfold decodeClass9
  rw [show fld (c ++ 147#8 ++ l ++ 0#4 ++ g ++ x ++ y : BitVec 32) 23 4 = 3#4 from by simp (disch := decide) only [fld_low, fld_high]; rfl]
  show (if _ then _ else _) = _
  rw [if_pos ((show fld (c ++ 147#8 ++ l ++ 0#4 ++ g ++ x ++ y : BitVec 32) 15 4 = 0 from by simp (disch := decide) only [fld_low, fld_high]; rfl))]
  simp (disch := decide) only [fld_low, fld_high, Nat.reduceSub, fld_self]
theorem filt (c : BitVec 1) (l : BitVec 4) (s : BitVec 3) (g : BitVec 5) (x : BitVec 5) (y : BitVec 6) : Statement (.filt c l s g x y) := by
  intro w0 he
  obtain rfl := Option.some.inj he
  refine (decode_9 (by simp (disch := decide) only [fld_low, fld_high]; rfl)).trans ?_
  unfold decodeClass9
  rw [show fld (c ++ 148#8 ++ l ++ s ++ g ++ x ++ y : BitVec 32) 23 4 = 4#4 from by simp (disch := decide) only [fld_low, fld_high]; rfl]
  show Except.ok _ = _
  simp (disch := decide) only [fld_low, fld_high, Nat.reduceSub, fld_self]
theorem blnd (c : BitVec 1) (l : BitVec 4) (g : BitVec 5) (x : BitVec 5) (y : BitVec 6) : Statement (.blnd c l g x y) := by
  intro w0 he
  obtain rfl := Option.some.inj he
  refine (decode_9 (by simp (disch := decide) only [fld_low, fld_high]; rfl)).trans ?_
  unfold decodeClass9
  rw [show fld (c ++ 149#8 ++ l ++ 0#3 ++ g ++ x ++ y : BitVec 32) 23 4 = 5#4 from by simp (disch := decide) only [fld_low, fld_high]; rfl]
  show (if _ then _ else _) = _
  rw [if_pos ((show fld (c ++ 149#8 ++ l ++ 0#3 ++ g ++ x ++ y : BitVec 32) 16 3 = 0 from by simp (disch := decide) only [fld_low, fld_high]; rfl))]
  simp (disch := decide) only [fld_low, fld_high, Nat.reduceSub, fld_self]
theorem cpack (c : BitVec 1) (l : BitVec 4) (g : BitVec 5) (x : BitVec 5) (y : BitVec 4) : Statement (.cpack c l g x y) := by
  intro w0 he
  obtain rfl := Option.some.inj he
  refine (decode_9 (by simp (disch := decide) only [fld_low, fld_high]; rfl)).trans ?_
  unfold decodeClass9
  rw [show fld (c ++ 150#8 ++ l ++ 0#3 ++ g ++ x ++ 0#2 ++ y : BitVec 32) 23 4 = 6#4 from by simp (disch := decide) only [fld_low, fld_high]; rfl]
  show (if _ then _ else _) = _
  rw [if_pos (⟨(show fld (c ++ 150#8 ++ l ++ 0#3 ++ g ++ x ++ 0#2 ++ y : BitVec 32) 16 3 = 0 from by simp (disch := decide) only [fld_low, fld_high]; rfl), (show fld (c ++ 150#8 ++ l ++ 0#3 ++ g ++ x ++ 0#2 ++ y : BitVec 32) 4 2 = 0 from by simp (disch := decide) only [fld_low, fld_high]; rfl)⟩)]
  simp (disch := decide) only [fld_low, fld_high, Nat.reduceSub, fld_self]
theorem cunpk (c : BitVec 1) (l : BitVec 4) (x : BitVec 5) (y : BitVec 4) : Statement (.cunpk c l x y) := by
  intro w0 he
  obtain rfl := Option.some.inj he
  refine (decode_9 (by simp (disch := decide) only [fld_low, fld_high]; rfl)).trans ?_
  unfold decodeClass9
  rw [show fld (c ++ 151#8 ++ l ++ 0#8 ++ x ++ 0#2 ++ y : BitVec 32) 23 4 = 7#4 from by simp (disch := decide) only [fld_low, fld_high]; rfl]
  show (if _ then _ else _) = _
  rw [if_pos (⟨(show fld (c ++ 151#8 ++ l ++ 0#8 ++ x ++ 0#2 ++ y : BitVec 32) 11 8 = 0 from by simp (disch := decide) only [fld_low, fld_high]; rfl), (show fld (c ++ 151#8 ++ l ++ 0#8 ++ x ++ 0#2 ++ y : BitVec 32) 4 2 = 0 from by simp (disch := decide) only [fld_low, fld_high]; rfl)⟩)]
  simp (disch := decide) only [fld_low, fld_high, Nat.reduceSub, fld_self]
theorem meshemit (c : BitVec 1) (l : BitVec 4) (s : BitVec 1) (g : BitVec 5) : Statement (.meshemit c l s g) := by
  intro w0 he
  obtain rfl := Option.some.inj he
  refine (decode_9 (by simp (disch := decide) only [fld_low, fld_high]; rfl)).trans ?_
  unfold decodeClass9
  rw [show fld (c ++ 152#8 ++ l ++ 0#2 ++ s ++ g ++ 0#11 : BitVec 32) 23 4 = 8#4 from by simp (disch := decide) only [fld_low, fld_high]; rfl]
  show (if _ then _ else _) = _
  rw [if_pos (⟨(show fld (c ++ 152#8 ++ l ++ 0#2 ++ s ++ g ++ 0#11 : BitVec 32) 17 2 = 0 from by simp (disch := decide) only [fld_low, fld_high]; rfl), (show fld (c ++ 152#8 ++ l ++ 0#2 ++ s ++ g ++ 0#11 : BitVec 32) 0 11 = 0 from by simp (disch := decide) only [fld_low, fld_high]; rfl)⟩)]
  simp (disch := decide) only [fld_low, fld_high, Nat.reduceSub, fld_self]
theorem binnext (c : BitVec 1) (l : BitVec 4) (g : BitVec 5) (y : BitVec 6) : Statement (.binnext c l g y) := by
  intro w0 he
  obtain rfl := Option.some.inj he
  refine (decode_9 (by simp (disch := decide) only [fld_low, fld_high]; rfl)).trans ?_
  unfold decodeClass9
  rw [show fld (c ++ 153#8 ++ l ++ 0#3 ++ g ++ 0#5 ++ y : BitVec 32) 23 4 = 9#4 from by simp (disch := decide) only [fld_low, fld_high]; rfl]
  show (if _ then _ else _) = _
  rw [if_pos (⟨(show fld (c ++ 153#8 ++ l ++ 0#3 ++ g ++ 0#5 ++ y : BitVec 32) 16 3 = 0 from by simp (disch := decide) only [fld_low, fld_high]; rfl), (show fld (c ++ 153#8 ++ l ++ 0#3 ++ g ++ 0#5 ++ y : BitVec 32) 6 5 = 0 from by simp (disch := decide) only [fld_low, fld_high]; rfl)⟩)]
  simp (disch := decide) only [fld_low, fld_high, Nat.reduceSub, fld_self]
theorem bararr (c : BitVec 1) (e : BitVec 3) (b : BitVec 7) (z : BitVec 5) : Statement (.bararr c e b z) := by
  intro w0 he
  obtain rfl := Option.some.inj he
  refine (decode_A (by simp (disch := decide) only [fld_low, fld_high]; rfl)).trans ?_
  unfold decodeClassA
  rw [show fld (c ++ 320#9 ++ e ++ 0#7 ++ b ++ z : BitVec 32) 22 5 = 0#5 from by simp (disch := decide) only [fld_low, fld_high]; rfl]
  show (if _ then _ else _) = _
  rw [if_pos ((show fld (c ++ 320#9 ++ e ++ 0#7 ++ b ++ z : BitVec 32) 12 7 = 0 from by simp (disch := decide) only [fld_low, fld_high]; rfl))]
  simp (disch := decide) only [fld_low, fld_high, Nat.reduceSub, fld_self]
theorem barwait (c : BitVec 1) (e : BitVec 3) (b : BitVec 7) (z : BitVec 5) : Statement (.barwait c e b z) := by
  intro w0 he
  obtain rfl := Option.some.inj he
  refine (decode_A (by simp (disch := decide) only [fld_low, fld_high]; rfl)).trans ?_
  unfold decodeClassA
  rw [show fld (c ++ 321#9 ++ e ++ 0#7 ++ b ++ z : BitVec 32) 22 5 = 1#5 from by simp (disch := decide) only [fld_low, fld_high]; rfl]
  show (if _ then _ else _) = _
  rw [if_pos ((show fld (c ++ 321#9 ++ e ++ 0#7 ++ b ++ z : BitVec 32) 12 7 = 0 from by simp (disch := decide) only [fld_low, fld_high]; rfl))]
  simp (disch := decide) only [fld_low, fld_high, Nat.reduceSub, fld_self]
theorem barsync (c : BitVec 1) (e : BitVec 3) (b : BitVec 7) (z : BitVec 5) : Statement (.barsync c e b z) := by
  intro w0 he
  obtain rfl := Option.some.inj he
  refine (decode_A (by simp (disch := decide) only [fld_low, fld_high]; rfl)).trans ?_
  unfold decodeClassA
  rw [show fld (c ++ 322#9 ++ e ++ 0#7 ++ b ++ z : BitVec 32) 22 5 = 2#5 from by simp (disch := decide) only [fld_low, fld_high]; rfl]
  show (if _ then _ else _) = _
  rw [if_pos ((show fld (c ++ 322#9 ++ e ++ 0#7 ++ b ++ z : BitVec 32) 12 7 = 0 from by simp (disch := decide) only [fld_low, fld_high]; rfl))]
  simp (disch := decide) only [fld_low, fld_high, Nat.reduceSub, fld_self]
theorem barexp (c : BitVec 1) (e : BitVec 3) (a : BitVec 7) (b : BitVec 7) (z : BitVec 5) : Statement (.barexp c e a b z) := by
  intro w0 he
  obtain rfl := Option.some.inj he
  refine (decode_A (by simp (disch := decide) only [fld_low, fld_high]; rfl)).trans ?_
  unfold decodeClassA
  rw [show fld (c ++ 323#9 ++ e ++ a ++ b ++ z : BitVec 32) 22 5 = 3#5 from by simp (disch := decide) only [fld_low, fld_high]; rfl]
  show Except.ok _ = _
  simp (disch := decide) only [fld_low, fld_high, Nat.reduceSub, fld_self]
theorem ordenter (c : BitVec 1) (a : BitVec 7) (b : BitVec 7) (z : BitVec 5) : Statement (.ordenter c a b z) := by
  intro w0 he
  obtain rfl := Option.some.inj he
  refine (decode_A (by simp (disch := decide) only [fld_low, fld_high]; rfl)).trans ?_
  unfold decodeClassA
  rw [show fld (c ++ 2592#12 ++ a ++ b ++ z : BitVec 32) 22 5 = 4#5 from by simp (disch := decide) only [fld_low, fld_high]; rfl]
  show (if _ then _ else _) = _
  rw [if_pos ((show fld (c ++ 2592#12 ++ a ++ b ++ z : BitVec 32) 19 3 = 0 from by simp (disch := decide) only [fld_low, fld_high]; rfl))]
  simp (disch := decide) only [fld_low, fld_high, Nat.reduceSub, fld_self]
theorem ordleave (c : BitVec 1) (a : BitVec 7) (z : BitVec 5) : Statement (.ordleave c a z) := by
  intro w0 he
  obtain rfl := Option.some.inj he
  refine (decode_A (by simp (disch := decide) only [fld_low, fld_high]; rfl)).trans ?_
  unfold decodeClassA
  rw [show fld (c ++ 2600#12 ++ a ++ 0#7 ++ z : BitVec 32) 22 5 = 5#5 from by simp (disch := decide) only [fld_low, fld_high]; rfl]
  show (if _ then _ else _) = _
  rw [if_pos (⟨(show fld (c ++ 2600#12 ++ a ++ 0#7 ++ z : BitVec 32) 19 3 = 0 from by simp (disch := decide) only [fld_low, fld_high]; rfl), (show fld (c ++ 2600#12 ++ a ++ 0#7 ++ z : BitVec 32) 5 7 = 0 from by simp (disch := decide) only [fld_low, fld_high]; rfl)⟩)]
  simp (disch := decide) only [fld_low, fld_high, Nat.reduceSub, fld_self]
theorem ordskip (c : BitVec 1) (a : BitVec 7) (b : BitVec 7) (z : BitVec 5) : Statement (.ordskip c a b z) := by
  intro w0 he
  obtain rfl := Option.some.inj he
  refine (decode_A (by simp (disch := decide) only [fld_low, fld_high]; rfl)).trans ?_
  unfold decodeClassA
  rw [show fld (c ++ 2608#12 ++ a ++ b ++ z : BitVec 32) 22 5 = 6#5 from by simp (disch := decide) only [fld_low, fld_high]; rfl]
  show (if _ then _ else _) = _
  rw [if_pos ((show fld (c ++ 2608#12 ++ a ++ b ++ z : BitVec 32) 19 3 = 0 from by simp (disch := decide) only [fld_low, fld_high]; rfl))]
  simp (disch := decide) only [fld_low, fld_high, Nat.reduceSub, fld_self]
theorem ordtest (c : BitVec 1) (a : BitVec 7) (b : BitVec 7) (z : BitVec 5) : Statement (.ordtest c a b z) := by
  intro w0 he
  obtain rfl := Option.some.inj he
  refine (decode_A (by simp (disch := decide) only [fld_low, fld_high]; rfl)).trans ?_
  unfold decodeClassA
  rw [show fld (c ++ 2616#12 ++ a ++ b ++ z : BitVec 32) 22 5 = 7#5 from by simp (disch := decide) only [fld_low, fld_high]; rfl]
  show (if _ then _ else _) = _
  rw [if_pos ((show fld (c ++ 2616#12 ++ a ++ b ++ z : BitVec 32) 19 3 = 0 from by simp (disch := decide) only [fld_low, fld_high]; rfl))]
  simp (disch := decide) only [fld_low, fld_high, Nat.reduceSub, fld_self]
theorem seqnext (c : BitVec 1) (a : BitVec 7) (z : BitVec 5) : Statement (.seqnext c a z) := by
  intro w0 he
  obtain rfl := Option.some.inj he
  refine (decode_A (by simp (disch := decide) only [fld_low, fld_high]; rfl)).trans ?_
  unfold decodeClassA
  rw [show fld (c ++ 2624#12 ++ a ++ 0#7 ++ z : BitVec 32) 22 5 = 8#5 from by simp (disch := decide) only [fld_low, fld_high]; rfl]
  show (if _ then _ else _) = _
  rw [if_pos (⟨(show fld (c ++ 2624#12 ++ a ++ 0#7 ++ z : BitVec 32) 19 3 = 0 from by simp (disch := decide) only [fld_low, fld_high]; rfl), (show fld (c ++ 2624#12 ++ a ++ 0#7 ++ z : BitVec 32) 5 7 = 0 from by simp (disch := decide) only [fld_low, fld_high]; rfl)⟩)]
  simp (disch := decide) only [fld_low, fld_high, Nat.reduceSub, fld_self]
theorem put (c : BitVec 1) (e : BitVec 3) (a : BitVec 7) (z : BitVec 5) : Statement (.put c e a z) := by
  intro w0 he
  obtain rfl := Option.some.inj he
  refine (decode_A (by simp (disch := decide) only [fld_low, fld_high]; rfl)).trans ?_
  unfold decodeClassA
  rw [show fld (c ++ 329#9 ++ e ++ a ++ 0#7 ++ z : BitVec 32) 22 5 = 9#5 from by simp (disch := decide) only [fld_low, fld_high]; rfl]
  show (if _ then _ else _) = _
  rw [if_pos ((show fld (c ++ 329#9 ++ e ++ a ++ 0#7 ++ z : BitVec 32) 5 7 = 0 from by simp (disch := decide) only [fld_low, fld_high]; rfl))]
  simp (disch := decide) only [fld_low, fld_high, Nat.reduceSub, fld_self]
theorem putw (c : BitVec 1) (e : BitVec 3) (a : BitVec 7) (b : BitVec 7) (z : BitVec 5) : Statement (.putw c e a b z) := by
  intro w0 he
  obtain rfl := Option.some.inj he
  refine (decode_A (by simp (disch := decide) only [fld_low, fld_high]; rfl)).trans ?_
  unfold decodeClassA
  rw [show fld (c ++ 330#9 ++ e ++ a ++ b ++ z : BitVec 32) 22 5 = 10#5 from by simp (disch := decide) only [fld_low, fld_high]; rfl]
  show Except.ok _ = _
  simp (disch := decide) only [fld_low, fld_high, Nat.reduceSub, fld_self]
theorem cwait (c : BitVec 1) (e : BitVec 3) (a : BitVec 7) (z : BitVec 5) : Statement (.cwait c e a z) := by
  intro w0 he
  obtain rfl := Option.some.inj he
  refine (decode_A (by simp (disch := decide) only [fld_low, fld_high]; rfl)).trans ?_
  unfold decodeClassA
  rw [show fld (c ++ 331#9 ++ e ++ a ++ 0#7 ++ z : BitVec 32) 22 5 = 11#5 from by simp (disch := decide) only [fld_low, fld_high]; rfl]
  show (if _ then _ else _) = _
  rw [if_pos ((show fld (c ++ 331#9 ++ e ++ a ++ 0#7 ++ z : BitVec 32) 5 7 = 0 from by simp (disch := decide) only [fld_low, fld_high]; rfl))]
  simp (disch := decide) only [fld_low, fld_high, Nat.reduceSub, fld_self]
theorem fenceAcq (c : BitVec 1) (e : BitVec 3) : Statement (.fenceAcq c e) := by
  intro w0 he
  obtain rfl := Option.some.inj he
  refine (decode_A (by simp (disch := decide) only [fld_low, fld_high]; rfl)).trans ?_
  unfold decodeClassA
  rw [show fld (c ++ 332#9 ++ e ++ 1#19 : BitVec 32) 22 5 = 12#5 from by simp (disch := decide) only [fld_low, fld_high]; rfl]
  show (if _ then _ else _) = _
  rw [if_pos ((show fld (c ++ 332#9 ++ e ++ 1#19 : BitVec 32) 0 19 = 1 from by simp (disch := decide) only [fld_low, fld_high]; rfl))]
  simp (disch := decide) only [fld_low, fld_high, Nat.reduceSub, fld_self]
theorem fenceRel (c : BitVec 1) (e : BitVec 3) : Statement (.fenceRel c e) := by
  intro w0 he
  obtain rfl := Option.some.inj he
  refine (decode_A (by simp (disch := decide) only [fld_low, fld_high]; rfl)).trans ?_
  unfold decodeClassA
  rw [show fld (c ++ 332#9 ++ e ++ 2#19 : BitVec 32) 22 5 = 12#5 from by simp (disch := decide) only [fld_low, fld_high]; rfl]
  show (if _ then _ else _) = _
  rw [if_neg (by rw [show fld (c ++ 332#9 ++ e ++ 2#19 : BitVec 32) 0 19 = 2#19 from by simp (disch := decide) only [fld_low, fld_high]; rfl]; decide)]
  rw [if_pos ((show fld (c ++ 332#9 ++ e ++ 2#19 : BitVec 32) 0 19 = 2 from by simp (disch := decide) only [fld_low, fld_high]; rfl))]
  simp (disch := decide) only [fld_low, fld_high, Nat.reduceSub, fld_self]
theorem fenceAr (c : BitVec 1) (e : BitVec 3) : Statement (.fenceAr c e) := by
  intro w0 he
  obtain rfl := Option.some.inj he
  refine (decode_A (by simp (disch := decide) only [fld_low, fld_high]; rfl)).trans ?_
  unfold decodeClassA
  rw [show fld (c ++ 332#9 ++ e ++ 3#19 : BitVec 32) 22 5 = 12#5 from by simp (disch := decide) only [fld_low, fld_high]; rfl]
  show (if _ then _ else _) = _
  rw [if_neg (by rw [show fld (c ++ 332#9 ++ e ++ 3#19 : BitVec 32) 0 19 = 3#19 from by simp (disch := decide) only [fld_low, fld_high]; rfl]; decide)]
  rw [if_neg (by rw [show fld (c ++ 332#9 ++ e ++ 3#19 : BitVec 32) 0 19 = 3#19 from by simp (disch := decide) only [fld_low, fld_high]; rfl]; decide)]
  rw [if_pos ((show fld (c ++ 332#9 ++ e ++ 3#19 : BitVec 32) 0 19 = 3 from by simp (disch := decide) only [fld_low, fld_high]; rfl))]
  simp (disch := decide) only [fld_low, fld_high, Nat.reduceSub, fld_self]
theorem fenceSc (c : BitVec 1) (e : BitVec 3) : Statement (.fenceSc c e) := by
  intro w0 he
  obtain rfl := Option.some.inj he
  refine (decode_A (by simp (disch := decide) only [fld_low, fld_high]; rfl)).trans ?_
  unfold decodeClassA
  rw [show fld (c ++ 332#9 ++ e ++ 7#19 : BitVec 32) 22 5 = 12#5 from by simp (disch := decide) only [fld_low, fld_high]; rfl]
  show (if _ then _ else _) = _
  rw [if_neg (by rw [show fld (c ++ 332#9 ++ e ++ 7#19 : BitVec 32) 0 19 = 7#19 from by simp (disch := decide) only [fld_low, fld_high]; rfl]; decide)]
  rw [if_neg (by rw [show fld (c ++ 332#9 ++ e ++ 7#19 : BitVec 32) 0 19 = 7#19 from by simp (disch := decide) only [fld_low, fld_high]; rfl]; decide)]
  rw [if_neg (by rw [show fld (c ++ 332#9 ++ e ++ 7#19 : BitVec 32) 0 19 = 7#19 from by simp (disch := decide) only [fld_low, fld_high]; rfl]; decide)]
  rw [if_pos ((show fld (c ++ 332#9 ++ e ++ 7#19 : BitVec 32) 0 19 = 7 from by simp (disch := decide) only [fld_low, fld_high]; rfl))]
  simp (disch := decide) only [fld_low, fld_high, Nat.reduceSub, fld_self]
theorem scwait (c : BitVec 1) : Statement (.scwait c) := by
  intro w0 he
  obtain rfl := Option.some.inj he
  refine (decode_A (by simp (disch := decide) only [fld_low, fld_high]; rfl)).trans ?_
  unfold decodeClassA
  rw [show fld (c ++ 1396703232#31 : BitVec 32) 22 5 = 13#5 from by simp (disch := decide) only [fld_low, fld_high]; rfl]
  show (if _ then _ else _) = _
  rw [if_pos ((show fld (c ++ 1396703232#31 : BitVec 32) 0 22 = 0 from by simp (disch := decide) only [fld_low, fld_high]; rfl))]
  simp (disch := decide) only [fld_low, fld_high, Nat.reduceSub, fld_self]
theorem qacq (c : BitVec 1) (l : BitVec 4) (d : BitVec 4) (q : BitVec 3) : Statement (.qacq c l d q) := by
  intro w0 he
  obtain rfl := Option.some.inj he
  refine (decode_B (by simp (disch := decide) only [fld_low, fld_high]; rfl)).trans ?_
  unfold decodeClassB
  rw [show fld (c ++ 352#9 ++ l ++ d ++ 0#11 ++ q : BitVec 32) 22 5 = 0#5 from by simp (disch := decide) only [fld_low, fld_high]; rfl]
  show (if _ then _ else _) = _
  rw [if_pos ((show fld (c ++ 352#9 ++ l ++ d ++ 0#11 ++ q : BitVec 32) 3 11 = 0 from by simp (disch := decide) only [fld_low, fld_high]; rfl))]
  simp (disch := decide) only [fld_low, fld_high, Nat.reduceSub, fld_self]
theorem qrel (c : BitVec 1) (l : BitVec 4) (a : BitVec 4) (q : BitVec 3) : Statement (.qrel c l a q) := by
  intro w0 he
  obtain rfl := Option.some.inj he
  refine (decode_B (by simp (disch := decide) only [fld_low, fld_high]; rfl)).trans ?_
  unfold decodeClassB
  rw [show fld (c ++ 353#9 ++ l ++ 0#4 ++ a ++ 0#7 ++ q : BitVec 32) 22 5 = 1#5 from by simp (disch := decide) only [fld_low, fld_high]; rfl]
  show (if _ then _ else _) = _
  rw [if_pos (⟨(show fld (c ++ 353#9 ++ l ++ 0#4 ++ a ++ 0#7 ++ q : BitVec 32) 14 4 = 0 from by simp (disch := decide) only [fld_low, fld_high]; rfl), (show fld (c ++ 353#9 ++ l ++ 0#4 ++ a ++ 0#7 ++ q : BitVec 32) 3 7 = 0 from by simp (disch := decide) only [fld_low, fld_high]; rfl)⟩)]
  simp (disch := decide) only [fld_low, fld_high, Nat.reduceSub, fld_self]
theorem qpacq (c : BitVec 1) (l : BitVec 4) (d : BitVec 4) (q : BitVec 3) : Statement (.qpacq c l d q) := by
  intro w0 he
  obtain rfl := Option.some.inj he
  refine (decode_B (by simp (disch := decide) only [fld_low, fld_high]; rfl)).trans ?_
  unfold decodeClassB
  rw [show fld (c ++ 354#9 ++ l ++ d ++ 0#11 ++ q : BitVec 32) 22 5 = 2#5 from by simp (disch := decide) only [fld_low, fld_high]; rfl]
  show (if _ then _ else _) = _
  rw [if_pos ((show fld (c ++ 354#9 ++ l ++ d ++ 0#11 ++ q : BitVec 32) 3 11 = 0 from by simp (disch := decide) only [fld_low, fld_high]; rfl))]
  simp (disch := decide) only [fld_low, fld_high, Nat.reduceSub, fld_self]
theorem qpcommit (c : BitVec 1) (l : BitVec 4) (a : BitVec 4) (q : BitVec 3) : Statement (.qpcommit c l a q) := by
  intro w0 he
  obtain rfl := Option.some.inj he
  refine (decode_B (by simp (disch := decide) only [fld_low, fld_high]; rfl)).trans ?_
  unfold decodeClassB
  rw [show fld (c ++ 355#9 ++ l ++ 0#4 ++ a ++ 0#7 ++ q : BitVec 32) 22 5 = 3#5 from by simp (disch := decide) only [fld_low, fld_high]; rfl]
  show (if _ then _ else _) = _
  rw [if_pos (⟨(show fld (c ++ 355#9 ++ l ++ 0#4 ++ a ++ 0#7 ++ q : BitVec 32) 14 4 = 0 from by simp (disch := decide) only [fld_low, fld_high]; rfl), (show fld (c ++ 355#9 ++ l ++ 0#4 ++ a ++ 0#7 ++ q : BitVec 32) 3 7 = 0 from by simp (disch := decide) only [fld_low, fld_high]; rfl)⟩)]
  simp (disch := decide) only [fld_low, fld_high, Nat.reduceSub, fld_self]
theorem tcopy (c : BitVec 1) (l : BitVec 4) (d : BitVec 4) : Statement (.tcopy c l d) := by
  intro w0 he
  obtain rfl := Option.some.inj he
  refine (decode_B (by simp (disch := decide) only [fld_low, fld_high]; rfl)).trans ?_
  unfold decodeClassB
  rw [show fld (c ++ 356#9 ++ l ++ d ++ 0#14 : BitVec 32) 22 5 = 4#5 from by simp (disch := decide) only [fld_low, fld_high]; rfl]
  show (if _ then _ else _) = _
  rw [if_pos ((show fld (c ++ 356#9 ++ l ++ d ++ 0#14 : BitVec 32) 0 14 = 0 from by simp (disch := decide) only [fld_low, fld_high]; rfl))]
  simp (disch := decide) only [fld_low, fld_high, Nat.reduceSub, fld_self]
theorem tstore (c : BitVec 1) (l : BitVec 4) (d : BitVec 4) : Statement (.tstore c l d) := by
  intro w0 he
  obtain rfl := Option.some.inj he
  refine (decode_B (by simp (disch := decide) only [fld_low, fld_high]; rfl)).trans ?_
  unfold decodeClassB
  rw [show fld (c ++ 357#9 ++ l ++ d ++ 0#14 : BitVec 32) 22 5 = 5#5 from by simp (disch := decide) only [fld_low, fld_high]; rfl]
  show (if _ then _ else _) = _
  rw [if_pos ((show fld (c ++ 357#9 ++ l ++ d ++ 0#14 : BitVec 32) 0 14 = 0 from by simp (disch := decide) only [fld_low, fld_high]; rfl))]
  simp (disch := decide) only [fld_low, fld_high, Nat.reduceSub, fld_self]
theorem apstart (c : BitVec 1) (l : BitVec 4) (p : BitVec 2) (a : BitVec 4) : Statement (.apstart c l p a) := by
  intro w0 he
  obtain rfl := Option.some.inj he
  refine (decode_B (by simp (disch := decide) only [fld_low, fld_high]; rfl)).trans ?_
  unfold decodeClassB
  rw [show fld (c ++ 358#9 ++ l ++ 0#2 ++ p ++ a ++ 0#10 : BitVec 32) 22 5 = 6#5 from by simp (disch := decide) only [fld_low, fld_high]; rfl]
  show (if _ then _ else _) = _
  rw [if_pos (⟨(show fld (c ++ 358#9 ++ l ++ 0#2 ++ p ++ a ++ 0#10 : BitVec 32) 16 2 = 0 from by simp (disch := decide) only [fld_low, fld_high]; rfl), (show fld (c ++ 358#9 ++ l ++ 0#2 ++ p ++ a ++ 0#10 : BitVec 32) 0 10 = 0 from by simp (disch := decide) only [fld_low, fld_high]; rfl)⟩)]
  simp (disch := decide) only [fld_low, fld_high, Nat.reduceSub, fld_self]
theorem apstop (c : BitVec 1) (l : BitVec 4) (p : BitVec 2) : Statement (.apstop c l p) := by
  intro w0 he
  obtain rfl := Option.some.inj he
  refine (decode_B (by simp (disch := decide) only [fld_low, fld_high]; rfl)).trans ?_
  unfold decodeClassB
  rw [show fld (c ++ 359#9 ++ l ++ 0#2 ++ p ++ 0#14 : BitVec 32) 22 5 = 7#5 from by simp (disch := decide) only [fld_low, fld_high]; rfl]
  show (if _ then _ else _) = _
  rw [if_pos (⟨(show fld (c ++ 359#9 ++ l ++ 0#2 ++ p ++ 0#14 : BitVec 32) 16 2 = 0 from by simp (disch := decide) only [fld_low, fld_high]; rfl), (show fld (c ++ 359#9 ++ l ++ 0#2 ++ p ++ 0#14 : BitVec 32) 0 14 = 0 from by simp (disch := decide) only [fld_low, fld_high]; rfl)⟩)]
  simp (disch := decide) only [fld_low, fld_high, Nat.reduceSub, fld_self]
theorem xli (c : BitVec 1) (d : BitVec 4) (i : BitVec 10) : Statement (.xli c d i) := by
  intro w0 he
  obtain rfl := Option.some.inj he
  refine (decode_B (by simp (disch := decide) only [fld_low, fld_high]; rfl)).trans ?_
  unfold decodeClassB
  rw [show fld (c ++ 5760#13 ++ d ++ 0#4 ++ i : BitVec 32) 22 5 = 8#5 from by simp (disch := decide) only [fld_low, fld_high]; rfl]
  show (if _ then _ else _) = _
  rw [if_pos (⟨(show fld (c ++ 5760#13 ++ d ++ 0#4 ++ i : BitVec 32) 18 4 = 0 from by simp (disch := decide) only [fld_low, fld_high]; rfl), (show fld (c ++ 5760#13 ++ d ++ 0#4 ++ i : BitVec 32) 10 4 = 0 from by simp (disch := decide) only [fld_low, fld_high]; rfl)⟩)]
  simp (disch := decide) only [fld_low, fld_high, Nat.reduceSub, fld_self]
theorem xlih (c : BitVec 1) (d : BitVec 4) (i : BitVec 10) : Statement (.xlih c d i) := by
  intro w0 he
  obtain rfl := Option.some.inj he
  refine (decode_B (by simp (disch := decide) only [fld_low, fld_high]; rfl)).trans ?_
  unfold decodeClassB
  rw [show fld (c ++ 5776#13 ++ d ++ 0#4 ++ i : BitVec 32) 22 5 = 9#5 from by simp (disch := decide) only [fld_low, fld_high]; rfl]
  show (if _ then _ else _) = _
  rw [if_pos (⟨(show fld (c ++ 5776#13 ++ d ++ 0#4 ++ i : BitVec 32) 18 4 = 0 from by simp (disch := decide) only [fld_low, fld_high]; rfl), (show fld (c ++ 5776#13 ++ d ++ 0#4 ++ i : BitVec 32) 10 4 = 0 from by simp (disch := decide) only [fld_low, fld_high]; rfl)⟩)]
  simp (disch := decide) only [fld_low, fld_high, Nat.reduceSub, fld_self]
theorem xadd (c : BitVec 1) (d : BitVec 4) (a : BitVec 4) (i : BitVec 10) : Statement (.xadd c d a i) := by
  intro w0 he
  obtain rfl := Option.some.inj he
  refine (decode_B (by simp (disch := decide) only [fld_low, fld_high]; rfl)).trans ?_
  unfold decodeClassB
  rw [show fld (c ++ 5792#13 ++ d ++ a ++ i : BitVec 32) 22 5 = 10#5 from by simp (disch := decide) only [fld_low, fld_high]; rfl]
  show (if _ then _ else _) = _
  rw [if_pos ((show fld (c ++ 5792#13 ++ d ++ a ++ i : BitVec 32) 18 4 = 0 from by simp (disch := decide) only [fld_low, fld_high]; rfl))]
  simp (disch := decide) only [fld_low, fld_high, Nat.reduceSub, fld_self]
theorem xmad (c : BitVec 1) (d : BitVec 4) (a : BitVec 4) (i : BitVec 10) : Statement (.xmad c d a i) := by
  intro w0 he
  obtain rfl := Option.some.inj he
  refine (decode_B (by simp (disch := decide) only [fld_low, fld_high]; rfl)).trans ?_
  unfold decodeClassB
  rw [show fld (c ++ 5808#13 ++ d ++ a ++ i : BitVec 32) 22 5 = 11#5 from by simp (disch := decide) only [fld_low, fld_high]; rfl]
  show (if _ then _ else _) = _
  rw [if_pos ((show fld (c ++ 5808#13 ++ d ++ a ++ i : BitVec 32) 18 4 = 0 from by simp (disch := decide) only [fld_low, fld_high]; rfl))]
  simp (disch := decide) only [fld_low, fld_high, Nat.reduceSub, fld_self]
theorem xloop (c : BitVec 1) (k : BitVec 2) (o : BitVec 10) : Statement (.xloop c k o) := by
  intro w0 he
  obtain rfl := Option.some.inj he
  refine (decode_B (by simp (disch := decide) only [fld_low, fld_high]; rfl)).trans ?_
  unfold decodeClassB
  rw [show fld (c ++ 23296#15 ++ k ++ 0#4 ++ o : BitVec 32) 22 5 = 12#5 from by simp (disch := decide) only [fld_low, fld_high]; rfl]
  show (if _ then _ else _) = _
  rw [if_pos (⟨(show fld (c ++ 23296#15 ++ k ++ 0#4 ++ o : BitVec 32) 16 6 = 0 from by simp (disch := decide) only [fld_low, fld_high]; rfl), (show fld (c ++ 23296#15 ++ k ++ 0#4 ++ o : BitVec 32) 10 4 = 0 from by simp (disch := decide) only [fld_low, fld_high]; rfl)⟩)]
  simp (disch := decide) only [fld_low, fld_high, Nat.reduceSub, fld_self]
theorem xloopSet (c : BitVec 1) (k : BitVec 2) (a : BitVec 4) : Statement (.xloopSet c k a) := by
  intro w0 he
  obtain rfl := Option.some.inj he
  refine (decode_B (by simp (disch := decide) only [fld_low, fld_high]; rfl)).trans ?_
  unfold decodeClassB
  rw [show fld (c ++ 23297#15 ++ k ++ a ++ 0#10 : BitVec 32) 22 5 = 12#5 from by simp (disch := decide) only [fld_low, fld_high]; rfl]
  show (if _ then _ else _) = _
  rw [if_neg (fun hh => absurd hh.1 (by rw [show fld (c ++ 23297#15 ++ k ++ a ++ 0#10 : BitVec 32) 16 6 = 1#6 from by simp (disch := decide) only [fld_low, fld_high]; rfl]; decide))]
  rw [if_pos (⟨(show fld (c ++ 23297#15 ++ k ++ a ++ 0#10 : BitVec 32) 16 6 = 1 from by simp (disch := decide) only [fld_low, fld_high]; rfl), (show fld (c ++ 23297#15 ++ k ++ a ++ 0#10 : BitVec 32) 0 10 = 0 from by simp (disch := decide) only [fld_low, fld_high]; rfl)⟩)]
  simp (disch := decide) only [fld_low, fld_high, Nat.reduceSub, fld_self]
theorem xfetch (c : BitVec 1) (a : BitVec 4) (g : BitVec 7) (q : BitVec 3) : Statement (.xfetch c a g q) := by
  intro w0 he
  obtain rfl := Option.some.inj he
  refine (decode_B (by simp (disch := decide) only [fld_low, fld_high]; rfl)).trans ?_
  unfold decodeClassB
  rw [show fld (c ++ 93440#17 ++ a ++ g ++ q : BitVec 32) 22 5 = 13#5 from by simp (disch := decide) only [fld_low, fld_high]; rfl]
  show (if _ then _ else _) = _
  rw [if_pos ((show fld (c ++ 93440#17 ++ a ++ g ++ q : BitVec 32) 14 8 = 0 from by simp (disch := decide) only [fld_low, fld_high]; rfl))]
  simp (disch := decide) only [fld_low, fld_high, Nat.reduceSub, fld_self]
theorem xstore (c : BitVec 1) (a : BitVec 4) (g : BitVec 7) (q : BitVec 3) : Statement (.xstore c a g q) := by
  intro w0 he
  obtain rfl := Option.some.inj he
  refine (decode_B (by simp (disch := decide) only [fld_low, fld_high]; rfl)).trans ?_
  unfold decodeClassB
  rw [show fld (c ++ 93696#17 ++ a ++ g ++ q : BitVec 32) 22 5 = 14#5 from by simp (disch := decide) only [fld_low, fld_high]; rfl]
  show (if _ then _ else _) = _
  rw [if_pos ((show fld (c ++ 93696#17 ++ a ++ g ++ q : BitVec 32) 14 8 = 0 from by simp (disch := decide) only [fld_low, fld_high]; rfl))]
  simp (disch := decide) only [fld_low, fld_high, Nat.reduceSub, fld_self]
theorem xsigFill (c : BitVec 1) (q : BitVec 3) : Statement (.xsigFill c q) := by
  intro w0 he
  obtain rfl := Option.some.inj he
  refine (decode_B (by simp (disch := decide) only [fld_low, fld_high]; rfl)).trans ?_
  unfold decodeClassB
  rw [show fld (c ++ 192413696#28 ++ q : BitVec 32) 22 5 = 15#5 from by simp (disch := decide) only [fld_low, fld_high]; rfl]
  show (if _ then _ else _) = _
  rw [if_pos ((show fld (c ++ 192413696#28 ++ q : BitVec 32) 3 19 = 0 from by simp (disch := decide) only [fld_low, fld_high]; rfl))]
  simp (disch := decide) only [fld_low, fld_high, Nat.reduceSub, fld_self]
theorem xsigFree (c : BitVec 1) (q : BitVec 3) : Statement (.xsigFree c q) := by
  intro w0 he
  obtain rfl := Option.some.inj he
  refine (decode_B (by simp (disch := decide) only [fld_low, fld_high]; rfl)).trans ?_
  unfold decodeClassB
  rw [show fld (c ++ 192413697#28 ++ q : BitVec 32) 22 5 = 15#5 from by simp (disch := decide) only [fld_low, fld_high]; rfl]
  show (if _ then _ else _) = _
  rw [if_neg (by rw [show fld (c ++ 192413697#28 ++ q : BitVec 32) 3 19 = 1#19 from by simp (disch := decide) only [fld_low, fld_high]; rfl]; decide)]
  rw [if_pos ((show fld (c ++ 192413697#28 ++ q : BitVec 32) 3 19 = 1 from by simp (disch := decide) only [fld_low, fld_high]; rfl))]
  simp (disch := decide) only [fld_low, fld_high, Nat.reduceSub, fld_self]
theorem xend (c : BitVec 1) : Statement (.xend c) := by
  intro w0 he
  obtain rfl := Option.some.inj he
  refine (decode_B (by simp (disch := decide) only [fld_low, fld_high]; rfl)).trans ?_
  unfold decodeClassB
  rw [show fld (c ++ 1543503872#31 : BitVec 32) 22 5 = 16#5 from by simp (disch := decide) only [fld_low, fld_high]; rfl]
  show (if _ then _ else _) = _
  rw [if_pos ((show fld (c ++ 1543503872#31 : BitVec 32) 0 22 = 0 from by simp (disch := decide) only [fld_low, fld_high]; rfl))]
  simp (disch := decide) only [fld_low, fld_high, Nat.reduceSub, fld_self]
theorem nop (c : BitVec 1) : Statement (.nop c) := by
  intro w0 he
  obtain rfl := Option.some.inj he
  refine (decode_C (by simp (disch := decide) only [fld_low, fld_high]; rfl)).trans ?_
  unfold decodeClassC
  rw [show fld (c ++ 1610612736#31 : BitVec 32) 22 5 = 0#5 from by simp (disch := decide) only [fld_low, fld_high]; rfl]
  show (if _ then _ else _) = _
  rw [if_pos ((show fld (c ++ 1610612736#31 : BitVec 32) 0 22 = 0 from by simp (disch := decide) only [fld_low, fld_high]; rfl))]
  simp (disch := decide) only [fld_low, fld_high, Nat.reduceSub, fld_self]
theorem sysrd (c : BitVec 1) (p : BitVec 8) (m : BitVec 14) : Statement (.sysrd c p m) := by
  intro w0 he
  obtain rfl := Option.some.inj he
  refine (decode_C (by simp (disch := decide) only [fld_low, fld_high]; rfl)).trans ?_
  unfold decodeClassC
  rw [show fld (c ++ 385#9 ++ p ++ m : BitVec 32) 22 5 = 1#5 from by simp (disch := decide) only [fld_low, fld_high]; rfl]
  show Except.ok _ = _
  simp (disch := decide) only [fld_low, fld_high, Nat.reduceSub, fld_self]
theorem syswr (c : BitVec 1) (p : BitVec 8) (m : BitVec 14) : Statement (.syswr c p m) := by
  intro w0 he
  obtain rfl := Option.some.inj he
  refine (decode_C (by simp (disch := decide) only [fld_low, fld_high]; rfl)).trans ?_
  unfold decodeClassC
  rw [show fld (c ++ 386#9 ++ p ++ m : BitVec 32) 22 5 = 2#5 from by simp (disch := decide) only [fld_low, fld_high]; rfl]
  show Except.ok _ = _
  simp (disch := decide) only [fld_low, fld_high, Nat.reduceSub, fld_self]
theorem trap (c : BitVec 1) (m : BitVec 14) : Statement (.trap c m) := by
  intro w0 he
  obtain rfl := Option.some.inj he
  refine (decode_C (by simp (disch := decide) only [fld_low, fld_high]; rfl)).trans ?_
  unfold decodeClassC
  rw [show fld (c ++ 99072#17 ++ m : BitVec 32) 22 5 = 3#5 from by simp (disch := decide) only [fld_low, fld_high]; rfl]
  show (if _ then _ else _) = _
  rw [if_pos ((show fld (c ++ 99072#17 ++ m : BitVec 32) 14 8 = 0 from by simp (disch := decide) only [fld_low, fld_high]; rfl))]
  simp (disch := decide) only [fld_low, fld_high, Nat.reduceSub, fld_self]
theorem trapret (c : BitVec 1) (p : BitVec 2) : Statement (.trapret c p) := by
  intro w0 he
  obtain rfl := Option.some.inj he
  refine (decode_C (by simp (disch := decide) only [fld_low, fld_high]; rfl)).trans ?_
  unfold decodeClassC
  rw [show fld (c ++ 24832#15 ++ p ++ 0#14 : BitVec 32) 22 5 = 4#5 from by simp (disch := decide) only [fld_low, fld_high]; rfl]
  show (if _ then _ else _) = _
  rw [if_pos (⟨(show fld (c ++ 24832#15 ++ p ++ 0#14 : BitVec 32) 16 6 = 0 from by simp (disch := decide) only [fld_low, fld_high]; rfl), (show fld (c ++ 24832#15 ++ p ++ 0#14 : BitVec 32) 0 14 = 0 from by simp (disch := decide) only [fld_low, fld_high]; rfl)⟩)]
  simp (disch := decide) only [fld_low, fld_high, Nat.reduceSub, fld_self]
theorem frsave (c : BitVec 1) (p : BitVec 4) : Statement (.frsave c p) := by
  intro w0 he
  obtain rfl := Option.some.inj he
  refine (decode_C (by simp (disch := decide) only [fld_low, fld_high]; rfl)).trans ?_
  unfold decodeClassC
  rw [show fld (c ++ 6224#13 ++ p ++ 0#14 : BitVec 32) 22 5 = 5#5 from by simp (disch := decide) only [fld_low, fld_high]; rfl]
  show (if _ then _ else _) = _
  rw [if_pos (⟨(show fld (c ++ 6224#13 ++ p ++ 0#14 : BitVec 32) 18 4 = 0 from by simp (disch := decide) only [fld_low, fld_high]; rfl), (show fld (c ++ 6224#13 ++ p ++ 0#14 : BitVec 32) 0 14 = 0 from by simp (disch := decide) only [fld_low, fld_high]; rfl)⟩)]
  simp (disch := decide) only [fld_low, fld_high, Nat.reduceSub, fld_self]
theorem frload (c : BitVec 1) (p : BitVec 4) : Statement (.frload c p) := by
  intro w0 he
  obtain rfl := Option.some.inj he
  refine (decode_C (by simp (disch := decide) only [fld_low, fld_high]; rfl)).trans ?_
  unfold decodeClassC
  rw [show fld (c ++ 6240#13 ++ p ++ 0#14 : BitVec 32) 22 5 = 6#5 from by simp (disch := decide) only [fld_low, fld_high]; rfl]
  show (if _ then _ else _) = _
  rw [if_pos (⟨(show fld (c ++ 6240#13 ++ p ++ 0#14 : BitVec 32) 18 4 = 0 from by simp (disch := decide) only [fld_low, fld_high]; rfl), (show fld (c ++ 6240#13 ++ p ++ 0#14 : BitVec 32) 0 14 = 0 from by simp (disch := decide) only [fld_low, fld_high]; rfl)⟩)]
  simp (disch := decide) only [fld_low, fld_high, Nat.reduceSub, fld_self]
theorem region (c : BitVec 1) (p : BitVec 8) (m : BitVec 9) : Statement (.region c p m) := by
  intro w0 he
  obtain rfl := Option.some.inj he
  refine (decode_C (by simp (disch := decide) only [fld_low, fld_high]; rfl)).trans ?_
  unfold decodeClassC
  rw [show fld (c ++ 391#9 ++ p ++ 0#5 ++ m : BitVec 32) 22 5 = 7#5 from by simp (disch := decide) only [fld_low, fld_high]; rfl]
  show (if _ then _ else _) = _
  rw [if_pos ((show fld (c ++ 391#9 ++ p ++ 0#5 ++ m : BitVec 32) 9 5 = 0 from by simp (disch := decide) only [fld_low, fld_high]; rfl))]
  simp (disch := decide) only [fld_low, fld_high, Nat.reduceSub, fld_self]
theorem reggrowTry (c : BitVec 1) (m : BitVec 14) : Statement (.reggrowTry c m) := by
  intro w0 he
  obtain rfl := Option.some.inj he
  refine (decode_C (by simp (disch := decide) only [fld_low, fld_high]; rfl)).trans ?_
  unfold decodeClassC
  rw [show fld (c ++ 100352#17 ++ m : BitVec 32) 22 5 = 8#5 from by simp (disch := decide) only [fld_low, fld_high]; rfl]
  show (if _ then _ else _) = _
  rw [if_pos ((show fld (c ++ 100352#17 ++ m : BitVec 32) 14 8 = 0 from by simp (disch := decide) only [fld_low, fld_high]; rfl))]
  simp (disch := decide) only [fld_low, fld_high, Nat.reduceSub, fld_self]
theorem reggrowWait (c : BitVec 1) (m : BitVec 14) : Statement (.reggrowWait c m) := by
  intro w0 he
  obtain rfl := Option.some.inj he
  refine (decode_C (by simp (disch := decide) only [fld_low, fld_high]; rfl)).trans ?_
  unfold decodeClassC
  rw [show fld (c ++ 100353#17 ++ m : BitVec 32) 22 5 = 8#5 from by simp (disch := decide) only [fld_low, fld_high]; rfl]
  show (if _ then _ else _) = _
  rw [if_neg (by rw [show fld (c ++ 100353#17 ++ m : BitVec 32) 14 8 = 1#8 from by simp (disch := decide) only [fld_low, fld_high]; rfl]; decide)]
  rw [if_pos ((show fld (c ++ 100353#17 ++ m : BitVec 32) 14 8 = 1 from by simp (disch := decide) only [fld_low, fld_high]; rfl))]
  simp (disch := decide) only [fld_low, fld_high, Nat.reduceSub, fld_self]
theorem regshrink (c : BitVec 1) (m : BitVec 14) : Statement (.regshrink c m) := by
  intro w0 he
  obtain rfl := Option.some.inj he
  refine (decode_C (by simp (disch := decide) only [fld_low, fld_high]; rfl)).trans ?_
  unfold decodeClassC
  rw [show fld (c ++ 100608#17 ++ m : BitVec 32) 22 5 = 9#5 from by simp (disch := decide) only [fld_low, fld_high]; rfl]
  show (if _ then _ else _) = _
  rw [if_pos ((show fld (c ++ 100608#17 ++ m : BitVec 32) 14 8 = 0 from by simp (disch := decide) only [fld_low, fld_high]; rfl))]
  simp (disch := decide) only [fld_low, fld_high, Nat.reduceSub, fld_self]
theorem vfree (c : BitVec 1) (p : BitVec 7) (m : BitVec 7) : Statement (.vfree c p m) := by
  intro w0 he
  obtain rfl := Option.some.inj he
  refine (decode_C (by simp (disch := decide) only [fld_low, fld_high]; rfl)).trans ?_
  unfold decodeClassC
  rw [show fld (c ++ 788#10 ++ p ++ 0#7 ++ m : BitVec 32) 22 5 = 10#5 from by simp (disch := decide) only [fld_low, fld_high]; rfl]
  show (if _ then _ else _) = _
  rw [if_pos (⟨(show fld (c ++ 788#10 ++ p ++ 0#7 ++ m : BitVec 32) 21 1 = 0 from by simp (disch := decide) only [fld_low, fld_high]; rfl), (show fld (c ++ 788#10 ++ p ++ 0#7 ++ m : BitVec 32) 7 7 = 0 from by simp (disch := decide) only [fld_low, fld_high]; rfl)⟩)]
  simp (disch := decide) only [fld_low, fld_high, Nat.reduceSub, fld_self]
theorem query (c : BitVec 1) (p : BitVec 8) (m : BitVec 14) : Statement (.query c p m) := by
  intro w0 he
  obtain rfl := Option.some.inj he
  refine (decode_C (by simp (disch := decide) only [fld_low, fld_high]; rfl)).trans ?_
  unfold decodeClassC
  rw [show fld (c ++ 395#9 ++ p ++ m : BitVec 32) 22 5 = 11#5 from by simp (disch := decide) only [fld_low, fld_high]; rfl]
  show Except.ok _ = _
  simp (disch := decide) only [fld_low, fld_high, Nat.reduceSub, fld_self]
theorem launch (c : BitVec 1) (p : BitVec 8) (m : BitVec 14) : Statement (.launch c p m) := by
  intro w0 he
  obtain rfl := Option.some.inj he
  refine (decode_C (by simp (disch := decide) only [fld_low, fld_high]; rfl)).trans ?_
  unfold decodeClassC
  rw [show fld (c ++ 396#9 ++ p ++ m : BitVec 32) 22 5 = 12#5 from by simp (disch := decide) only [fld_low, fld_high]; rfl]
  show Except.ok _ = _
  simp (disch := decide) only [fld_low, fld_high, Nat.reduceSub, fld_self]
theorem bkpt (c : BitVec 1) (m : BitVec 14) : Statement (.bkpt c m) := by
  intro w0 he
  obtain rfl := Option.some.inj he
  refine (decode_C (by simp (disch := decide) only [fld_low, fld_high]; rfl)).trans ?_
  unfold decodeClassC
  rw [show fld (c ++ 101632#17 ++ m : BitVec 32) 22 5 = 13#5 from by simp (disch := decide) only [fld_low, fld_high]; rfl]
  show (if _ then _ else _) = _
  rw [if_pos ((show fld (c ++ 101632#17 ++ m : BitVec 32) 14 8 = 0 from by simp (disch := decide) only [fld_low, fld_high]; rfl))]
  simp (disch := decide) only [fld_low, fld_high, Nat.reduceSub, fld_self]
theorem waitev (c : BitVec 1) (m : BitVec 6) : Statement (.waitev c m) := by
  intro w0 he
  obtain rfl := Option.some.inj he
  refine (decode_C (by simp (disch := decide) only [fld_low, fld_high]; rfl)).trans ?_
  unfold decodeClassC
  rw [show fld (c ++ 26083328#25 ++ m : BitVec 32) 22 5 = 14#5 from by simp (disch := decide) only [fld_low, fld_high]; rfl]
  show (if _ then _ else _) = _
  rw [if_pos ((show fld (c ++ 26083328#25 ++ m : BitVec 32) 6 16 = 0 from by simp (disch := decide) only [fld_low, fld_high]; rfl))]
  simp (disch := decide) only [fld_low, fld_high, Nat.reduceSub, fld_self]
theorem perfrd (c : BitVec 1) (p : BitVec 8) (m : BitVec 14) : Statement (.perfrd c p m) := by
  intro w0 he
  obtain rfl := Option.some.inj he
  refine (decode_C (by simp (disch := decide) only [fld_low, fld_high]; rfl)).trans ?_
  unfold decodeClassC
  rw [show fld (c ++ 399#9 ++ p ++ m : BitVec 32) 22 5 = 15#5 from by simp (disch := decide) only [fld_low, fld_high]; rfl]
  show Except.ok _ = _
  simp (disch := decide) only [fld_low, fld_high, Nat.reduceSub, fld_self]
theorem rngseed (c : BitVec 1) (p : BitVec 7) : Statement (.rngseed c p) := by
  intro w0 he
  obtain rfl := Option.some.inj he
  refine (decode_C (by simp (disch := decide) only [fld_low, fld_high]; rfl)).trans ?_
  unfold decodeClassC
  rw [show fld (c ++ 800#10 ++ p ++ 0#14 : BitVec 32) 22 5 = 16#5 from by simp (disch := decide) only [fld_low, fld_high]; rfl]
  show (if _ then _ else _) = _
  rw [if_pos (⟨(show fld (c ++ 800#10 ++ p ++ 0#14 : BitVec 32) 21 1 = 0 from by simp (disch := decide) only [fld_low, fld_high]; rfl), (show fld (c ++ 800#10 ++ p ++ 0#14 : BitVec 32) 0 14 = 0 from by simp (disch := decide) only [fld_low, fld_high]; rfl)⟩)]
  simp (disch := decide) only [fld_low, fld_high, Nat.reduceSub, fld_self]
theorem modesetWrite (c : BitVec 1) (m : BitVec 14) : Statement (.modesetWrite c m) := by
  intro w0 he
  obtain rfl := Option.some.inj he
  refine (decode_C (by simp (disch := decide) only [fld_low, fld_high]; rfl)).trans ?_
  unfold decodeClassC
  rw [show fld (c ++ 102656#17 ++ m : BitVec 32) 22 5 = 17#5 from by simp (disch := decide) only [fld_low, fld_high]; rfl]
  show (if _ then _ else _) = _
  rw [if_pos ((show fld (c ++ 102656#17 ++ m : BitVec 32) 14 8 = 0 from by simp (disch := decide) only [fld_low, fld_high]; rfl))]
  simp (disch := decide) only [fld_low, fld_high, Nat.reduceSub, fld_self]
theorem modesetOr (c : BitVec 1) (m : BitVec 14) : Statement (.modesetOr c m) := by
  intro w0 he
  obtain rfl := Option.some.inj he
  refine (decode_C (by simp (disch := decide) only [fld_low, fld_high]; rfl)).trans ?_
  unfold decodeClassC
  rw [show fld (c ++ 102657#17 ++ m : BitVec 32) 22 5 = 17#5 from by simp (disch := decide) only [fld_low, fld_high]; rfl]
  show (if _ then _ else _) = _
  rw [if_neg (by rw [show fld (c ++ 102657#17 ++ m : BitVec 32) 14 8 = 1#8 from by simp (disch := decide) only [fld_low, fld_high]; rfl]; decide)]
  rw [if_pos ((show fld (c ++ 102657#17 ++ m : BitVec 32) 14 8 = 1 from by simp (disch := decide) only [fld_low, fld_high]; rfl))]
  simp (disch := decide) only [fld_low, fld_high, Nat.reduceSub, fld_self]
theorem modesetAndn (c : BitVec 1) (m : BitVec 14) : Statement (.modesetAndn c m) := by
  intro w0 he
  obtain rfl := Option.some.inj he
  refine (decode_C (by simp (disch := decide) only [fld_low, fld_high]; rfl)).trans ?_
  unfold decodeClassC
  rw [show fld (c ++ 102658#17 ++ m : BitVec 32) 22 5 = 17#5 from by simp (disch := decide) only [fld_low, fld_high]; rfl]
  show (if _ then _ else _) = _
  rw [if_neg (by rw [show fld (c ++ 102658#17 ++ m : BitVec 32) 14 8 = 2#8 from by simp (disch := decide) only [fld_low, fld_high]; rfl]; decide)]
  rw [if_neg (by rw [show fld (c ++ 102658#17 ++ m : BitVec 32) 14 8 = 2#8 from by simp (disch := decide) only [fld_low, fld_high]; rfl]; decide)]
  rw [if_pos ((show fld (c ++ 102658#17 ++ m : BitVec 32) 14 8 = 2 from by simp (disch := decide) only [fld_low, fld_high]; rfl))]
  simp (disch := decide) only [fld_low, fld_high, Nat.reduceSub, fld_self]
theorem modesetTen (c : BitVec 1) (m : BitVec 6) : Statement (.modesetTen c m) := by
  intro w0 he
  obtain rfl := Option.some.inj he
  refine (decode_C (by simp (disch := decide) only [fld_low, fld_high]; rfl)).trans ?_
  unfold decodeClassC
  rw [show fld (c ++ 26280704#25 ++ m : BitVec 32) 22 5 = 17#5 from by simp (disch := decide) only [fld_low, fld_high]; rfl]
  show (if _ then _ else _) = _
  rw [if_neg (by rw [show fld (c ++ 26280704#25 ++ m : BitVec 32) 14 8 = 3#8 from by simp (disch := decide) only [fld_low, fld_high]; rfl]; decide)]
  rw [if_neg (by rw [show fld (c ++ 26280704#25 ++ m : BitVec 32) 14 8 = 3#8 from by simp (disch := decide) only [fld_low, fld_high]; rfl]; decide)]
  rw [if_neg (by rw [show fld (c ++ 26280704#25 ++ m : BitVec 32) 14 8 = 3#8 from by simp (disch := decide) only [fld_low, fld_high]; rfl]; decide)]
  rw [if_pos ((show fld (c ++ 26280704#25 ++ m : BitVec 32) 6 16 = 768 from by simp (disch := decide) only [fld_low, fld_high]; rfl))]
  simp (disch := decide) only [fld_low, fld_high, Nat.reduceSub, fld_self]
theorem tinfo (c : BitVec 1) (p : BitVec 7) (m : BitVec 4) : Statement (.tinfo c p m) := by
  intro w0 he
  obtain rfl := Option.some.inj he
  refine (decode_C (by simp (disch := decide) only [fld_low, fld_high]; rfl)).trans ?_
  unfold decodeClassC
  rw [show fld (c ++ 804#10 ++ p ++ 0#10 ++ m : BitVec 32) 22 5 = 18#5 from by simp (disch := decide) only [fld_low, fld_high]; rfl]
  show (if _ then _ else _) = _
  rw [if_pos (⟨(show fld (c ++ 804#10 ++ p ++ 0#10 ++ m : BitVec 32) 21 1 = 0 from by simp (disch := decide) only [fld_low, fld_high]; rfl), (show fld (c ++ 804#10 ++ p ++ 0#10 ++ m : BitVec 32) 4 10 = 0 from by simp (disch := decide) only [fld_low, fld_high]; rfl)⟩)]
  simp (disch := decide) only [fld_low, fld_high, Nat.reduceSub, fld_self]
theorem cvtf (c : BitVec 1) (l : BitVec 4) (s : BitVec 4) (d : BitVec 7) (a : BitVec 7) : Statement (.cvtf c l s d a) := by
  intro w0 he
  obtain rfl := Option.some.inj he
  refine (decode_D (by simp (disch := decide) only [fld_low, fld_high]; rfl)).trans ?_
  unfold decodeClassD
  rw [show fld (c ++ 416#9 ++ l ++ s ++ d ++ a : BitVec 32) 22 5 = 0#5 from by simp (disch := decide) only [fld_low, fld_high]; rfl]
  show Except.ok _ = _
  simp (disch := decide) only [fld_low, fld_high, Nat.reduceSub, fld_self]
theorem cvtfi (c : BitVec 1) (l : BitVec 4) (s : BitVec 4) (d : BitVec 7) (a : BitVec 7) : Statement (.cvtfi c l s d a) := by
  intro w0 he
  obtain rfl := Option.some.inj he
  refine (decode_D (by simp (disch := decide) only [fld_low, fld_high]; rfl)).trans ?_
  unfold decodeClassD
  rw [show fld (c ++ 417#9 ++ l ++ s ++ d ++ a : BitVec 32) 22 5 = 1#5 from by simp (disch := decide) only [fld_low, fld_high]; rfl]
  show Except.ok _ = _
  simp (disch := decide) only [fld_low, fld_high, Nat.reduceSub, fld_self]
theorem cvtif (c : BitVec 1) (l : BitVec 4) (s : BitVec 4) (d : BitVec 7) (a : BitVec 7) : Statement (.cvtif c l s d a) := by
  intro w0 he
  obtain rfl := Option.some.inj he
  refine (decode_D (by simp (disch := decide) only [fld_low, fld_high]; rfl)).trans ?_
  unfold decodeClassD
  rw [show fld (c ++ 418#9 ++ l ++ s ++ d ++ a : BitVec 32) 22 5 = 2#5 from by simp (disch := decide) only [fld_low, fld_high]; rfl]
  show Except.ok _ = _
  simp (disch := decide) only [fld_low, fld_high, Nat.reduceSub, fld_self]
theorem pack2 (c : BitVec 1) (l : BitVec 4) (s : BitVec 4) (d : BitVec 7) (a : BitVec 7) : Statement (.pack2 c l s d a) := by
  intro w0 he
  obtain rfl := Option.some.inj he
  refine (decode_D (by simp (disch := decide) only [fld_low, fld_high]; rfl)).trans ?_
  unfold decodeClassD
  rw [show fld (c ++ 419#9 ++ l ++ s ++ d ++ a : BitVec 32) 22 5 = 3#5 from by simp (disch := decide) only [fld_low, fld_high]; rfl]
  show Except.ok _ = _
  simp (disch := decide) only [fld_low, fld_high, Nat.reduceSub, fld_self]
theorem pack4 (c : BitVec 1) (l : BitVec 4) (s : BitVec 4) (d : BitVec 7) (a : BitVec 7) : Statement (.pack4 c l s d a) := by
  intro w0 he
  obtain rfl := Option.some.inj he
  refine (decode_D (by simp (disch := decide) only [fld_low, fld_high]; rfl)).trans ?_
  unfold decodeClassD
  rw [show fld (c ++ 420#9 ++ l ++ s ++ d ++ a : BitVec 32) 22 5 = 4#5 from by simp (disch := decide) only [fld_low, fld_high]; rfl]
  show Except.ok _ = _
  simp (disch := decide) only [fld_low, fld_high, Nat.reduceSub, fld_self]
theorem unpk (c : BitVec 1) (l : BitVec 4) (s : BitVec 4) (d : BitVec 7) (a : BitVec 7) : Statement (.unpk c l s d a) := by
  intro w0 he
  obtain rfl := Option.some.inj he
  refine (decode_D (by simp (disch := decide) only [fld_low, fld_high]; rfl)).trans ?_
  unfold decodeClassD
  rw [show fld (c ++ 421#9 ++ l ++ s ++ d ++ a : BitVec 32) 22 5 = 5#5 from by simp (disch := decide) only [fld_low, fld_high]; rfl]
  show Except.ok _ = _
  simp (disch := decide) only [fld_low, fld_high, Nat.reduceSub, fld_self]
theorem rcp (c : BitVec 1) (l : BitVec 4) (s : BitVec 4) (d : BitVec 7) (a : BitVec 7) : Statement (.rcp c l s d a) := by
  intro w0 he
  obtain rfl := Option.some.inj he
  refine (decode_D (by simp (disch := decide) only [fld_low, fld_high]; rfl)).trans ?_
  unfold decodeClassD
  rw [show fld (c ++ 422#9 ++ l ++ s ++ d ++ a : BitVec 32) 22 5 = 6#5 from by simp (disch := decide) only [fld_low, fld_high]; rfl]
  show Except.ok _ = _
  simp (disch := decide) only [fld_low, fld_high, Nat.reduceSub, fld_self]
theorem rsq (c : BitVec 1) (l : BitVec 4) (s : BitVec 4) (d : BitVec 7) (a : BitVec 7) : Statement (.rsq c l s d a) := by
  intro w0 he
  obtain rfl := Option.some.inj he
  refine (decode_D (by simp (disch := decide) only [fld_low, fld_high]; rfl)).trans ?_
  unfold decodeClassD
  rw [show fld (c ++ 423#9 ++ l ++ s ++ d ++ a : BitVec 32) 22 5 = 7#5 from by simp (disch := decide) only [fld_low, fld_high]; rfl]
  show Except.ok _ = _
  simp (disch := decide) only [fld_low, fld_high, Nat.reduceSub, fld_self]
theorem sqrt (c : BitVec 1) (l : BitVec 4) (s : BitVec 4) (d : BitVec 7) (a : BitVec 7) : Statement (.sqrt c l s d a) := by
  intro w0 he
  obtain rfl := Option.some.inj he
  refine (decode_D (by simp (disch := decide) only [fld_low, fld_high]; rfl)).trans ?_
  unfold decodeClassD
  rw [show fld (c ++ 424#9 ++ l ++ s ++ d ++ a : BitVec 32) 22 5 = 8#5 from by simp (disch := decide) only [fld_low, fld_high]; rfl]
  show Except.ok _ = _
  simp (disch := decide) only [fld_low, fld_high, Nat.reduceSub, fld_self]
theorem exp2 (c : BitVec 1) (l : BitVec 4) (s : BitVec 4) (d : BitVec 7) (a : BitVec 7) : Statement (.exp2 c l s d a) := by
  intro w0 he
  obtain rfl := Option.some.inj he
  refine (decode_D (by simp (disch := decide) only [fld_low, fld_high]; rfl)).trans ?_
  unfold decodeClassD
  rw [show fld (c ++ 425#9 ++ l ++ s ++ d ++ a : BitVec 32) 22 5 = 9#5 from by simp (disch := decide) only [fld_low, fld_high]; rfl]
  show Except.ok _ = _
  simp (disch := decide) only [fld_low, fld_high, Nat.reduceSub, fld_self]
theorem log2 (c : BitVec 1) (l : BitVec 4) (s : BitVec 4) (d : BitVec 7) (a : BitVec 7) : Statement (.log2 c l s d a) := by
  intro w0 he
  obtain rfl := Option.some.inj he
  refine (decode_D (by simp (disch := decide) only [fld_low, fld_high]; rfl)).trans ?_
  unfold decodeClassD
  rw [show fld (c ++ 426#9 ++ l ++ s ++ d ++ a : BitVec 32) 22 5 = 10#5 from by simp (disch := decide) only [fld_low, fld_high]; rfl]
  show Except.ok _ = _
  simp (disch := decide) only [fld_low, fld_high, Nat.reduceSub, fld_self]
theorem sinp (c : BitVec 1) (l : BitVec 4) (s : BitVec 4) (d : BitVec 7) (a : BitVec 7) : Statement (.sinp c l s d a) := by
  intro w0 he
  obtain rfl := Option.some.inj he
  refine (decode_D (by simp (disch := decide) only [fld_low, fld_high]; rfl)).trans ?_
  unfold decodeClassD
  rw [show fld (c ++ 427#9 ++ l ++ s ++ d ++ a : BitVec 32) 22 5 = 11#5 from by simp (disch := decide) only [fld_low, fld_high]; rfl]
  show Except.ok _ = _
  simp (disch := decide) only [fld_low, fld_high, Nat.reduceSub, fld_self]
theorem cosp (c : BitVec 1) (l : BitVec 4) (s : BitVec 4) (d : BitVec 7) (a : BitVec 7) : Statement (.cosp c l s d a) := by
  intro w0 he
  obtain rfl := Option.some.inj he
  refine (decode_D (by simp (disch := decide) only [fld_low, fld_high]; rfl)).trans ?_
  unfold decodeClassD
  rw [show fld (c ++ 428#9 ++ l ++ s ++ d ++ a : BitVec 32) 22 5 = 12#5 from by simp (disch := decide) only [fld_low, fld_high]; rfl]
  show Except.ok _ = _
  simp (disch := decide) only [fld_low, fld_high, Nat.reduceSub, fld_self]
theorem tanh (c : BitVec 1) (l : BitVec 4) (s : BitVec 4) (d : BitVec 7) (a : BitVec 7) : Statement (.tanh c l s d a) := by
  intro w0 he
  obtain rfl := Option.some.inj he
  refine (decode_D (by simp (disch := decide) only [fld_low, fld_high]; rfl)).trans ?_
  unfold decodeClassD
  rw [show fld (c ++ 429#9 ++ l ++ s ++ d ++ a : BitVec 32) 22 5 = 13#5 from by simp (disch := decide) only [fld_low, fld_high]; rfl]
  show Except.ok _ = _
  simp (disch := decide) only [fld_low, fld_high, Nat.reduceSub, fld_self]
theorem rng (c : BitVec 1) (l : BitVec 4) (s : BitVec 4) (d : BitVec 7) : Statement (.rng c l s d) := by
  intro w0 he
  obtain rfl := Option.some.inj he
  refine (decode_D (by simp (disch := decide) only [fld_low, fld_high]; rfl)).trans ?_
  unfold decodeClassD
  rw [show fld (c ++ 430#9 ++ l ++ s ++ d ++ 0#7 : BitVec 32) 22 5 = 14#5 from by simp (disch := decide) only [fld_low, fld_high]; rfl]
  show (if _ then _ else _) = _
  rw [if_pos ((show fld (c ++ 430#9 ++ l ++ s ++ d ++ 0#7 : BitVec 32) 0 7 = 0 from by simp (disch := decide) only [fld_low, fld_high]; rfl))]
  simp (disch := decide) only [fld_low, fld_high, Nat.reduceSub, fld_self]
theorem pfx (m : BitVec 1) (k : BitVec 3) (r : BitVec 3) (z : BitVec 1) (q : BitVec 7) (w : BitVec 1) (x : BitVec 11) : Statement (.pfx m k r z q w x) := by
  intro w0 he
  obtain rfl := Option.some.inj he
  refine (decode_E (by simp (disch := decide) only [fld_low, fld_high]; rfl)).trans ?_
  unfold decodeClassE
  rw [show fld (14#5 ++ m ++ k ++ r ++ z ++ q ++ w ++ x : BitVec 32) 31 1 = 0#1 from by simp (disch := decide) only [fld_low, fld_high]; rfl]
  rw [if_pos (show (0#1 : BitVec 1) = 0 from rfl)]
  simp (disch := decide) only [fld_low, fld_high, Nat.reduceSub, fld_self]
theorem illegalInstruction : Statement (.illegalInstruction) := fun _ h0 => nomatch h0
theorem instructionFetchFault : Statement (.instructionFetchFault) := fun _ h0 => nomatch h0
theorem rejoinRelease (w : Nat) (k : Nat) : Statement (.rejoinRelease w k) := fun _ h0 => nomatch h0
theorem longLatencyCompletion (f : Nat) : Statement (.longLatencyCompletion f) := fun _ h0 => nomatch h0
theorem storeAcknowledgement (f : Nat) : Statement (.storeAcknowledgement f) := fun _ h0 => nomatch h0
theorem homeAtomic (f : Nat) : Statement (.homeAtomic f) := fun _ h0 => nomatch h0
theorem homeRawMerge (f : Nat) : Statement (.homeRawMerge f) := fun _ h0 => nomatch h0
theorem homeValueAdd (f : Nat) : Statement (.homeValueAdd f) := fun _ h0 => nomatch h0
theorem trapEntry (w : Nat) : Statement (.trapEntry w) := fun _ h0 => nomatch h0
theorem reggrowWaitGrant (w : Nat) : Statement (.reggrowWaitGrant w) := fun _ h0 => nomatch h0
theorem reggrowEviction (core : Nat) : Statement (.reggrowEviction core) := fun _ h0 => nomatch h0
theorem evictedWarpReadmission (w : Nat) : Statement (.evictedWarpReadmission w) := fun _ h0 => nomatch h0
theorem warpEnd (w : Nat) : Statement (.warpEnd w) := fun _ h0 => nomatch h0
theorem barrierRelease (kind : Nat) (owner : Nat) (bar : Nat) : Statement (.barrierRelease kind owner bar) := fun _ h0 => nomatch h0
theorem peerBarrierMessage (port : Nat) (bar : Nat) (phase : Nat) : Statement (.peerBarrierMessage port bar phase) := fun _ h0 => nomatch h0
theorem ordRequestAtHome (f : Nat) : Statement (.ordRequestAtHome f) := fun _ h0 => nomatch h0
theorem ordLeaveAtHome (f : Nat) : Statement (.ordLeaveAtHome f) := fun _ h0 => nomatch h0
theorem ordGrant (f : Nat) : Statement (.ordGrant f) := fun _ h0 => nomatch h0
theorem quietIntervalEnd (slice : Nat) : Statement (.quietIntervalEnd slice) := fun _ h0 => nomatch h0
theorem putArrival (f : Nat) : Statement (.putArrival f) := fun _ h0 => nomatch h0
theorem ringReconfigure (wg : Nat) (ring : Nat) : Statement (.ringReconfigure wg ring) := fun _ h0 => nomatch h0
theorem copySlotAcquire (f : Nat) : Statement (.copySlotAcquire f) := fun _ h0 => nomatch h0
theorem copyBytesLand (f : Nat) : Statement (.copyBytesLand f) := fun _ h0 => nomatch h0
theorem flintRequestResume (core : Nat) (slot : Nat) : Statement (.flintRequestResume core slot) := fun _ h0 => nomatch h0
theorem tmmaKstep (wg : Nat) (tag : Nat) : Statement (.tmmaKstep wg tag) := fun _ h0 => nomatch h0
theorem classifyMeshlet (launch : Nat) : Statement (.classifyMeshlet launch) := fun _ h0 => nomatch h0
theorem shaleBatchHandout (w : Nat) : Statement (.shaleBatchHandout w) := fun _ h0 => nomatch h0
theorem stageStart (launch : Nat) (stage : Nat) : Statement (.stageStart launch stage) := fun _ h0 => nomatch h0
theorem stageCompletion (launch : Nat) (stage : Nat) : Statement (.stageCompletion launch stage) := fun _ h0 => nomatch h0
theorem queueDoorbell (q : Nat) (v : BitVec 32) : Statement (.queueDoorbell q v) := fun _ h0 => nomatch h0
theorem run (q : Nat) : Statement (.run q) := fun _ h0 => nomatch h0
theorem event (q : Nat) : Statement (.event q) := fun _ h0 => nomatch h0
theorem domalloc (q : Nat) : Statement (.domalloc q) := fun _ h0 => nomatch h0
theorem domfree (q : Nat) : Statement (.domfree q) := fun _ h0 => nomatch h0
theorem abort (q : Nat) : Statement (.abort q) := fun _ h0 => nomatch h0
theorem qctlWrite (q : Nat) (v : BitVec 32) : Statement (.qctlWrite q v) := fun _ h0 => nomatch h0
theorem residencyWalk (launch : Nat) : Statement (.residencyWalk launch) := fun _ h0 => nomatch h0
theorem gangPlacement (launch : Nat) : Statement (.gangPlacement launch) := fun _ h0 => nomatch h0
theorem preemption (launch : Nat) : Statement (.preemption launch) := fun _ h0 => nomatch h0
theorem drainApproachExpiry (w : Nat) : Statement (.drainApproachExpiry w) := fun _ h0 => nomatch h0
theorem saveBlockStore (launch : Nat) (gang : Nat) : Statement (.saveBlockStore launch gang) := fun _ h0 => nomatch h0
theorem sliceExpiry (launch : Nat) (gang : Nat) : Statement (.sliceExpiry launch gang) := fun _ h0 => nomatch h0
theorem fenceWaitPoll (launch : Nat) : Statement (.fenceWaitPoll launch) := fun _ h0 => nomatch h0
theorem launchCompletion (launch : Nat) : Statement (.launchCompletion launch) := fun _ h0 => nomatch h0
theorem gangIndexMirror (launch : Nat) : Statement (.gangIndexMirror launch) := fun _ h0 => nomatch h0
theorem launchNodeCopyDone (f : Nat) : Statement (.launchNodeCopyDone f) := fun _ h0 => nomatch h0
theorem dieFailure (die : Nat) : Statement (.dieFailure die) := fun _ h0 => nomatch h0
theorem dieFailureGraceEnd (launch : Nat) : Statement (.dieFailureGraceEnd launch) := fun _ h0 => nomatch h0
theorem iqDoorbell (v : BitVec 32) : Statement (.iqDoorbell v) := fun _ h0 => nomatch h0
theorem inval : Statement (.inval) := fun _ h0 => nomatch h0
theorem retry : Statement (.retry) := fun _ h0 => nomatch h0
theorem refuse : Statement (.refuse) := fun _ h0 => nomatch h0
theorem sync : Statement (.sync) := fun _ h0 => nomatch h0
theorem invalCompletion : Statement (.invalCompletion) := fun _ h0 => nomatch h0
theorem iqctlWrite (v : BitVec 32) : Statement (.iqctlWrite v) := fun _ h0 => nomatch h0
theorem atctlWrite (v : BitVec 32) : Statement (.atctlWrite v) := fun _ h0 => nomatch h0
theorem ordovfctlWrite (v : BitVec 32) : Statement (.ordovfctlWrite v) := fun _ h0 => nomatch h0
theorem pwrcapWrite (v : BitVec 32) : Statement (.pwrcapWrite v) := fun _ h0 => nomatch h0
theorem cxlClearIsolation (port : Nat) : Statement (.cxlClearIsolation port) := fun _ h0 => nomatch h0
theorem registerWrite (off : Nat) (v : BitVec 32) : Statement (.registerWrite off v) := fun _ h0 => nomatch h0
theorem systemAgentAccess (agent : Nat) (addr : Nat) (data : List (BitVec 8)) : Statement (.systemAgentAccess agent addr data) := fun _ h0 => nomatch h0
theorem flitReceive (unit : Nat) (outcome : Nat) : Statement (.flitReceive unit outcome) := fun _ h0 => nomatch h0
theorem storageError (unit : Nat) (place : Nat) (grade : Nat) : Statement (.storageError unit place grade) := fun _ h0 => nomatch h0
theorem errorWindowEnd (unit : Nat) : Statement (.errorWindowEnd unit) := fun _ h0 => nomatch h0
theorem accessTimeout (f : Nat) : Statement (.accessTimeout f) := fun _ h0 => nomatch h0
theorem cxlReadTimeout (port : Nat) : Statement (.cxlReadTimeout port) := fun _ h0 => nomatch h0
theorem peerPortDown (port : Nat) : Statement (.peerPortDown port) := fun _ h0 => nomatch h0
theorem linkUp (port : Nat) (caps : Nat) : Statement (.linkUp port caps) := fun _ h0 => nomatch h0
theorem coldReset : Statement (.coldReset) := fun _ h0 => nomatch h0
theorem gneissImageLoad (img : List (BitVec 8)) : Statement (.gneissImageLoad img) := fun _ h0 => nomatch h0
theorem serviceFirmwareLoad (img : List (BitVec 8)) : Statement (.serviceFirmwareLoad img) := fun _ h0 => nomatch h0
theorem attestationRequest (nonce : List (BitVec 8)) : Statement (.attestationRequest nonce) := fun _ h0 => nomatch h0
theorem thermalTrip : Statement (.thermalTrip) := fun _ h0 => nomatch h0
theorem debugResume (w : Nat) : Statement (.debugResume w) := fun _ h0 => nomatch h0
theorem flintIllegalInstruction (core : Nat) (slot : Nat) : Statement (.flintIllegalInstruction core slot) := fun _ h0 => nomatch h0
theorem flintCodeFetchFault (core : Nat) (slot : Nat) : Statement (.flintCodeFetchFault core slot) := fun _ h0 => nomatch h0
theorem rqctlWrite (v : BitVec 32) : Statement (.rqctlWrite v) := fun _ h0 => nomatch h0
theorem elctlWrite (v : BitVec 32) : Statement (.elctlWrite v) := fun _ h0 => nomatch h0

end Sys2Proof.Laws.RoundTrip
end

