-- ==== Sys2Proof/Laws/Physical.lean ====
section
/-! SUPPORT. What the records of lines and translations can change: what a read returns where nothing is recorded, and what each
operation on the records leaves alone. -/

namespace Sys2Proof.Machine

/-- R37: a word that nothing was written over reads as it stands. -/
theorem State.fetchAt_now (s : State) (pa via : Nat) (h : mapGet s.hist (pa / 4) [] = []) :
    s.fetchAt pa via = if (List.range 4).any (fun i => s.paPoisoned (pa + i)) then none else some (BitVec.ofNat 32 (s.physNat pa 4)) := by
  simp [State.fetchAt, h]
/-- R393: a byte of a word that nothing was written over, in no line of another page, reads as it stands. -/
theorem State.altByte_now (s : State) (pa via : Nat) (h : mapGet s.hist (pa / 4) [] = []) (l : ∀ e ∈ s.lines, e.1 ≠ via) :
    s.altByte pa via = s.physRead pa := by
  have e : s.lineBytes pa via = [] := by
    simp only [State.lineBytes]
    split
    · rfl
    · rw [List.map_eq_nil_iff, List.filter_eq_nil_iff]
      intro x hx
      simp [l x hx]
  have o : s.pastWords pa via = [] := by simp [State.pastWords, sharedOlds, h]
  simp [State.altByte, e, o]
/-- R399: without an entry in a TLB a walk reads the tables. -/
theorem State.walk_fresh (s : State) (asid va : Nat) (h : ∀ e ∈ s.tlb, e.1 ≠ viaOf asid va) : s.walk asid va = s.walkFresh asid va := by
  have e : s.tlb.find? (fun e => e.1 == viaOf asid va) = none := by
    rw [List.find?_eq_none]
    intro x hx
    simp [h x hx]
  simp [State.walk, State.tlbHit?, e]

@[simp] theorem State.keepPast_poison (s : State) (via : Nat → Nat) (as : List Nat) : (s.keepPast via as).poison = s.poison := rfl
@[simp] theorem State.keepPast_dev (s : State) (via : Nat → Nat) (as : List Nat) : (s.keepPast via as).dev = s.dev := rfl
@[simp] theorem State.keepPast_warps (s : State) (via : Nat → Nat) (as : List Nat) : (s.keepPast via as).warps = s.warps := rfl
/-- A write's record changes `hist` alone. -/
theorem State.keepPast_rest (s : State) (via : Nat → Nat) (as : List Nat) : s.keepPast via as = { s with hist := (s.keepPast via as).hist } := rfl
theorem State.tlbFill_rest (s : State) (asid va : Nat) (x : Leaf) : s.tlbFill asid va x = { s with tlb := (s.tlbFill asid va x).tlb } := rfl
theorem State.dropTlb_rest (s : State) (r : Nat × Nat × Nat) : s.dropTlb r = { s with tlb := (s.dropTlb r).tlb } := rfl
theorem State.dropCode_rest (s : State) (r : Nat × Nat × Nat) : s.dropCode r = { s with hist := (s.dropCode r).hist } := rfl
/-- A write at physical addresses changes memory, its marks and those of the expanders. -/
theorem State.physWrite_rest (s : State) (cells : List (Nat × Byte)) (marked : Bool) :
    s.physWrite cells marked = { s with
      mem := (s.physWrite cells marked).mem, poison := (s.physWrite cells marked).poison
      dev := { s.dev with cxl := (s.physWrite cells marked).dev.cxl } } := rfl
/-- R398: after the entries of a range are removed, no TLB holds one of its pages. -/
theorem State.dropTlb_clean (s : State) (r : Nat × Nat × Nat) (e : Nat × Leaf) (h : e ∈ (s.dropTlb r).tlb) : inRanges [r] e.1 = false := by
  simp [State.dropTlb] at h
  exact h.2

end Sys2Proof.Machine
end

