-- ==== Sys2Proof/Laws/Results.lean ====
section
/-! SUPPORT. What the shared operations of the register instructions leave: an effect whose rows fit, a compare, a uniform
instruction, a trap, each said once in the terms of Safety.lean. -/

namespace Sys2Proof.Machine

/-! ## Rows -/

theorem countP_mapSet_le {α : Type} (p : Nat × α → Bool) (m : AMap α) (k : Nat) (x : α) :
    (mapSet m k x).countP p ≤ m.countP p + 1 := by
  induction m with
  | nil => simp only [mapSet, List.countP_cons, List.countP_nil]; split <;> omega
  | cons e r ih =>
    obtain ⟨j, y⟩ := e
    unfold mapSet
    split
    · simp only [List.countP_cons]; split <;> split <;> omega
    · split
      · simp only [List.countP_cons]; split <;> split <;> omega
      · simp only [List.countP_cons] at ih ⊢; omega
theorem Warp.rows_setVreg_le (w : Warp) (r : Nat) (x : VReg) : (w.setVreg r x).rows ≤ w.rows + 1 :=
  countP_mapSet_le _ _ _ _
/-- A list of writes takes at most one row for each. -/
theorem Warp.rows_write_le (w : Warp) (e set : Mask) (z : Bool) (xs : List VWrite) :
    (w.write e set z xs).rows ≤ w.rows + xs.length := by
  unfold Warp.write
  induction xs generalizing w with
  | nil => exact Nat.le_refl _
  | cons x t ih =>
    simp only [List.foldl_cons, List.length_cons]
    exact Nat.le_trans (ih _) (by have := w.rows_setVreg_le x.d (x.result (w.vreg x.d) e set z); omega)

/-- A key that is below every key of a rising map is not in it. -/
theorem mapGet?_low {α : Type} {m : AMap α} {k : Nat} (h : ∀ e ∈ m, k < e.1) : mapGet? m k = none := by
  induction m with
  | nil => rfl
  | cons e r ih =>
    unfold mapGet?
    rw [if_neg (Nat.ne_of_gt (h e (List.mem_cons_self ..))), ih fun x hx => h x (List.mem_cons_of_mem _ hx)]
theorem mem_mapSet {α : Type} {m : AMap α} {k : Nat} {x : α} {e : Nat × α} (h : e ∈ mapSet m k x) : e = (k, x) ∨ e ∈ m := by
  induction m with
  | nil => exact .inl (List.mem_singleton.mp h)
  | cons a r ih =>
    unfold mapSet at h
    split at h
    · exact (List.mem_cons.mp h).imp id (List.mem_cons_of_mem _)
    · split at h
      · exact List.mem_cons.mp h
      · rcases List.mem_cons.mp h with rfl | h
        · exact .inr (List.mem_cons_self ..)
        · exact (ih h).imp id (List.mem_cons_of_mem _)
/-- Writing a key keeps the rising order. -/
theorem KeysRise.mapSet {α : Type} {m : AMap α} (h : KeysRise m) (k : Nat) (x : α) : KeysRise (mapSet m k x) := by
  induction m with
  | nil => exact List.pairwise_singleton _ _
  | cons a r ih =>
    obtain ⟨ha, hr⟩ := List.pairwise_cons.mp h
    unfold Machine.mapSet
    split
    · rename_i e
      exact List.pairwise_cons.mpr ⟨fun y hy => e ▸ ha y hy, hr⟩
    · split
      · rename_i e
        refine List.pairwise_cons.mpr ⟨fun y hy => ?_, h⟩
        rcases List.mem_cons.mp hy with rfl | hy
        · exact e
        · exact Nat.lt_trans e (ha y hy)
      · rename_i e1 e2
        refine List.pairwise_cons.mpr ⟨fun y hy => ?_, ih hr⟩
        rcases mem_mapSet hy with rfl | hy
        · show a.1 < k
          omega
        · exact ha y hy
/-- In a rising map an entry that counted counts no longer when it is written over. -/
theorem countP_mapSet_rise {α : Type} (p : α → Bool) (d : α) (hd : p d = false) {m : AMap α} (h : KeysRise m) (k : Nat) (x : α) :
    (mapSet m k x).countP (fun e => p e.2) ≤ m.countP (fun e => p e.2) + if p (mapGet m k d) then 0 else 1 := by
  induction m with
  | nil =>
    simp only [Machine.mapSet, List.countP_cons, List.countP_nil, mapGet, mapGet?, Option.getD_none, hd]
    split <;> simp
  | cons a r ih =>
    obtain ⟨j, y⟩ := a
    obtain ⟨ha, hr⟩ := List.pairwise_cons.mp h
    unfold Machine.mapSet
    by_cases e : j = k
    · rw [if_pos e]
      have : mapGet ((j, y) :: r) k d = y := by simp [mapGet, mapGet?, e]
      rw [this]
      simp only [List.countP_cons]
      cases p x <;> cases p y <;> simp
    · rw [if_neg e]
      by_cases e2 : k < j
      · rw [if_pos e2]
        have : mapGet ((j, y) :: r) k d = d := by
          unfold mapGet
          rw [mapGet?_low fun z hz => ?_]; rfl
          rcases List.mem_cons.mp hz with rfl | hz
          · exact e2
          · exact Nat.lt_trans e2 (ha z hz)
        rw [this, hd]
        simp only [List.countP_cons]
        cases p x <;> cases p y <;> simp
      · rw [if_neg e2]
        have : mapGet ((j, y) :: r) k d = mapGet r k d := by simp [mapGet, mapGet?, e]
        rw [this]
        have := ih hr
        simp only [List.countP_cons]
        omega
/-- A list of writes to different registers takes a row only for a destination that holds none (R259). -/
theorem Warp.rows_write_rise (w : Warp) (e set : Mask) (z : Bool) (xs : List VWrite) (hd : (xs.map VWrite.d).Nodup)
    (h : KeysRise w.vregs) :
    (w.write e set z xs).rows ≤ w.rows + (xs.map VWrite.d).countP fun d => !(w.vreg d).isG := by
  unfold Warp.write
  induction xs generalizing w with
  | nil => exact Nat.le_refl _
  | cons x t ih =>
    simp only [List.map_cons, List.nodup_cons] at hd
    simp only [List.foldl_cons, List.map_cons, List.countP_cons]
    refine Nat.le_trans (ih _ hd.2 (h.mapSet _ _)) ?_
    have h1 : (w.setVreg x.d (x.result (w.vreg x.d) e set z)).rows ≤ w.rows + if (w.vreg x.d).isG then 0 else 1 :=
      countP_mapSet_rise VReg.isG .v rfl h _ _
    have h2 : (t.map VWrite.d).countP (fun d => !((w.setVreg x.d (x.result (w.vreg x.d) e set z)).vreg d).isG) =
        (t.map VWrite.d).countP fun d => !(w.vreg d).isG := by
      refine List.countP_congr fun d hm => ?_
      rw [Warp.vreg_setVreg_ne _ _ fun (e : d = x.d) => hd.1 (e ▸ hm)]
    rw [h2]
    cases hg : (w.vreg x.d).isG <;> simp [hg] at h1 ⊢ <;> omega
/-- R103: the rows of an instruction's writes fit. -/
theorem State.fits.write {s : State} {xs : List VWrite} (h : s.fits (xs.map VWrite.d)) (hd : (xs.map VWrite.d).Nodup)
    (he : s.eff ≠ 0) : (s.cur.write s.eff s.issue.set s.pz xs).rows ≤ s.cur.budget := by
  rcases h with h | h | h
  · exact absurd h he
  · rw [List.length_map] at h
    exact Nat.le_trans (s.cur.rows_write_le ..) h
  · exact Nat.le_trans (s.cur.rows_write_rise _ _ _ _ hd h.1) h.2

/-- A destination named once holds its own result. -/
theorem Warp.vreg_write_mem (w : Warp) (e set : Mask) (z : Bool) (xs : List VWrite) (hd : (xs.map VWrite.d).Nodup)
    {x : VWrite} (hx : x ∈ xs) : (w.write e set z xs).vreg x.d = x.result (w.vreg x.d) e set z := by
  unfold Warp.write
  induction xs generalizing w with
  | nil => cases hx
  | cons y t ih =>
    simp only [List.map_cons, List.nodup_cons] at hd
    simp only [List.foldl_cons]
    rcases List.mem_cons.mp hx with rfl | h
    · have := (w.setVreg x.d (x.result (w.vreg x.d) e set z)).write_vreg_ne e set z t (r := x.d)
        fun y hy h => hd.1 (h ▸ List.mem_map_of_mem hy)
      unfold Warp.write at this
      rw [this, Warp.vreg_setVreg]
    · have hne : x.d ≠ y.d := fun e => hd.1 (e ▸ List.mem_map_of_mem h)
      rw [ih _ hd.2 h, Warp.vreg_setVreg_ne _ _ hne]

/-! ## Masks of lanes -/

theorem State.eff_le_set (s : State) (l : Nat) (h : s.inE l = true) : s.inSet l = true := by
  unfold State.inE State.eff at h
  unfold State.inSet
  split at h
  · split at h
    · rw [BitVec.getLsbD_and, Bool.and_eq_true] at h; exact h.1
    · exact h
  · exact h
theorem modeRaise_zero (m : Word) : modeRaise m 0 = m := by simp [modeRaise]
theorem State.raisedFlags_zero (s : State) : s.raisedFlags noFlags = 0 := by
  unfold State.raisedFlags noFlags
  induction lanesOf s.eff with
  | nil => rfl
  | cons a t ih => simpa using ih
theorem State.inE_false_of_eff (s : State) (h : s.eff = 0) (l : Nat) : s.inE l = false := by
  unfold State.inE; rw [h]; simp

/-! ## The advance -/

theorem Warp.lane_congr {w v : Warp} (h : w.lanes = v.lanes) (l : Nat) : w.lane l = v.lane l := by
  unfold Warp.lane; rw [h]
theorem onlyWarp_of {s t : State} (h : t = { s with warps := t.warps }) (o : ∀ v, v ≠ s.issue.warp → t.warp v = s.warp v) :
    OnlyWarp s t where
  mem a := by rw [h]
  pads g a := by rw [h]; rfl
  rest := h
  others := o
theorem State.onlyWarp_finish (s : State) (f : Nat → LaneEnd) : OnlyWarp s (s.finish f) :=
  onlyWarp_of rfl fun _ h => s.warp_finish_ne f h
theorem State.onlyWarp_setFinish (s : State) (x : Warp) (f : Nat → LaneEnd) : OnlyWarp s ((s.setWarp s.issue.warp x).finish f) :=
  onlyWarp_of rfl fun v h => by
    exact ((s.setWarp s.issue.warp x).warp_finish_ne f h).trans (s.warp_setWarp_ne _ h)
theorem State.onlyWarp_effect (s : State) (x : Effect) : OnlyWarp s (s.effect x) :=
  onlyWarp_of (s.effect_rest x) fun _ h => s.effect_warp_ne x h

/-! ## Effects -/

/-- R49, R73, R98, R102, R103: what an effect whose rows fit leaves. -/
theorem State.effect_result (s : State) (x : Effect) (val : Nat → Nat → Word) (fwc : Word → Word)
    (hd : (x.writes.map VWrite.d).Nodup)
    (hv : ∀ y ∈ x.writes, val y.d = y.val)
    (hc : ∀ y ∈ x.writes, ∀ r, y.compact = some r → s.eff = allLanes → ∀ l < 32, r.lane l = y.val l)
    (hpost : x.post = fun w => { w with wc := fwc w.wc })
    (hends : ∀ l, x.ends l = .next)
    (hrows : s.fits (x.writes.map VWrite.d)) :
    VecResult s (s.effect x) (x.writes.map VWrite.d) val x.flags (x.gen.getD s.gens) (fwc s.cur.wc) := by
  by_cases he : s.eff = 0
  · rw [s.effect_empty x he]
    have hE := s.inE_false_of_eff he
    refine ⟨s.onlyWarp_finish _, ?_, ?_, ?_, ?_⟩
    · intro l hl
      rw [s.lane_advance hl]
      simp only [hE l, Bool.false_eq_true, if_false, false_and]
    · intro d _ l _
      rw [hE l]; simp only [Bool.false_eq_true, if_false, ne_eq, he, not_true_eq_false, false_and, if_false]
      unfold Warp.vlane State.advance; rw [State.vreg_finish]
    · intro r _; exact State.vreg_finish _ _ _
    · have hr : s.raisedFlags x.flags = 0 := by
        unfold State.raisedFlags; rw [he, show lanesOf 0 = [] from by decide]; rfl
      rw [hr, modeRaise_zero, if_pos he]
      unfold State.advance
      conv => lhs; rw [State.cur_finish]
      have hv : (s.finish fun _ => .next).cur.vregs = s.cur.vregs := by rw [State.cur_finish]
      rw [hv]
  · have hrow : x.writes = [] ∨ (s.cur.write s.eff s.issue.set s.pz x.writes).rows ≤ s.cur.budget :=
      .inr (hrows.write hd he)
    rw [s.effect_fits x he hrow]
    have hcur : (s.setWarp s.issue.warp (s.effectWarp x)).cur = s.effectWarp x := by simp
    have hw : s.effectWarp x = { s.cur with
        vregs := (s.cur.write s.eff s.issue.set s.pz x.writes).vregs
        lanes := (s.effectWarp x).lanes
        mode := modeRaise s.cur.mode (s.raisedFlags x.flags)
        wc := fwc s.cur.wc } := by
      have hwr := s.cur.write_rest s.eff s.issue.set s.pz x.writes
      unfold State.effectWarp State.raisedFlags
      rw [hpost]
      cases x.gen <;> simp only [Warp.mapLanes] <;> rw [hwr]
    have hlane : ∀ l < 32, (s.effectWarp x).lane l =
        { s.cur.lane l with gen := if s.inE l then (x.gen.getD s.gens) l else (s.cur.lane l).gen } := by
      intro l hl
      unfold State.effectWarp
      rw [hpost]
      have hl0 : ∀ w : Warp, w.lanes = s.cur.lanes → w.lane l = s.cur.lane l := fun w h => Warp.lane_congr h l
      cases hg : x.gen with
      | none =>
        simp only [Option.getD_none]
        rw [hl0 _ (by show (s.cur.write _ _ _ _).lanes = _; rw [Warp.write_rest])]
        unfold State.gens; split <;> rfl
      | some g =>
        simp only [Option.getD_some]
        rw [Warp.lane_mapLanes _ _ hl, hl0 _ (by show (s.cur.write _ _ _ _).lanes = _; rw [Warp.write_rest])]
        show (if s.inE l = true then _ else _) = _
        split <;> rfl
    refine ⟨s.onlyWarp_setFinish _ _, ?_, ?_, ?_, ?_⟩
    · intro l hl
      rw [State.lane_finish _ _ hl, hcur, hlane l hl]
      have hin : (s.setWarp s.issue.warp (s.effectWarp x)).inSet l = s.inSet l := rfl
      rw [hin]
      by_cases h : s.inSet l = true
      · rw [if_pos h, if_pos h]
        by_cases hE : s.inE l = true
        · have hE' : s.eff.getLsbD l = true := hE
          rw [if_pos hE', if_pos hE]
          unfold State.arithEnd
          by_cases hz : x.flags l &&& s.cur.ten = 0
          · rw [if_pos hz, hends l, if_neg (fun h => h.2 hz)]; rfl
          · rw [if_neg hz, if_pos ⟨hE, hz⟩]
            generalize s.cur.lane l = y
            obtain ⟨_, _, _, _, _, _, _, _, _, _, trap⟩ := y
            cases trap <;> rfl
        · have hE' : ¬ s.eff.getLsbD l = true := hE
          rw [if_neg hE', if_neg hE, if_neg (fun h => hE h.1)]; rfl
      · rw [if_neg h, if_neg h]
        have : s.inE l = false := by
          cases hE : s.inE l
          · rfl
          · exact absurd (s.eff_le_set l hE) h
        rw [this]; rfl
    · intro d hdm l hl
      obtain ⟨y, hy, rfl⟩ := List.mem_map.mp hdm
      unfold Warp.vlane
      rw [State.vreg_finish, hcur, hw]
      have : ({ s.cur with
        vregs := (s.cur.write s.eff s.issue.set s.pz x.writes).vregs
        lanes := (s.effectWarp x).lanes
        mode := modeRaise s.cur.mode (s.raisedFlags x.flags)
        wc := fwc s.cur.wc } : Warp).vreg y.d = (s.cur.write s.eff s.issue.set s.pz x.writes).vreg y.d := rfl
      rw [this, Warp.vreg_write_mem _ _ _ _ _ hd hy]
      by_cases hE : s.inE l = true
      · rw [if_pos hE, hv y hy]
        by_cases hfull : s.eff = allLanes
        · exact VWrite.lane_result y _ _ _ _ hl hE fun r hr => hc y hy r hr hfull l hl
        · unfold VWrite.result; rw [if_neg hfull]
          show ((List.range 32).map fun l => if s.eff.getLsbD l then y.val l else _).getD l 0 = _
          rw [List.getD_eq_getElem?_getD, List.getElem?_map, List.getElem?_range hl]
          simp only [Option.map_some, Option.getD_some]
          exact if_pos hE
      · rw [if_neg hE]
        have hE' : s.eff.getLsbD l = false := by unfold State.inE at hE; simpa using hE
        by_cases hz : s.pz = true ∧ s.inSet l = true
        · rw [if_pos ⟨he, hz⟩]
          have hne : s.eff ≠ allLanes := by
            intro h; rw [h] at hE'
            have : ∀ k < 32, (allLanes : Mask).getLsbD k = true := by decide
            rw [this l hl] at hE'; exact Bool.noConfusion hE'
          unfold VWrite.result; rw [if_neg hne]
          show ((List.range 32).map fun l => if s.eff.getLsbD l then y.val l else if s.pz && s.issue.set.getLsbD l then 0 else _).getD l 0 = _
          rw [List.getD_eq_getElem?_getD, List.getElem?_map, List.getElem?_range hl]
          simp only [Option.map_some, Option.getD_some, hE', Bool.false_eq_true, if_false]
          rw [if_pos (by rw [Bool.and_eq_true]; exact hz)]
        · rw [if_neg fun h => hz h.2]
          exact VWrite.lane_kept y _ _ _ _ hl hE' (by
            cases h1 : s.pz
            · rfl
            · have : s.inSet l ≠ true := fun h => hz ⟨h1, h⟩
              simpa [State.inSet] using this)
    · intro r hr
      rw [State.vreg_finish, hcur, hw]
      exact Warp.write_vreg_ne _ _ _ _ _ fun y hy h => hr (h ▸ List.mem_map_of_mem hy)
    · rw [if_neg he]
      have key : ∀ (w : Warp) (V : AMap VReg) (L0 L : AMap Lane) (M W : Word),
          w = { s.cur with vregs := V, lanes := L0, mode := M, wc := W } →
          ({ w with lanes := L } : Warp) = { s.cur with vregs := w.vregs, lanes := L, mode := M, wc := W } := by
        rintro _ _ _ _ _ _ rfl; rfl
      have hf := State.cur_finish (s.setWarp s.issue.warp (s.effectWarp x)) fun l =>
        if s.eff.getLsbD l then s.arithEnd (x.flags l) (x.ends l) else .next
      rw [hcur] at hf
      have hv := congrArg Warp.vregs hf
      dsimp only at hv
      rw [hv]
      exact hf.trans (key _ _ _ _ _ _ hw)

/-! ## Lane masks -/

theorem maskSum_spec (p : Nat → Bool) (n : Nat) :
    (List.range n).foldl (fun a l => if p l then a + 2 ^ l else a) 0 < 2 ^ n ∧
    ∀ l, ((List.range n).foldl (fun a l => if p l then a + 2 ^ l else a) 0).testBit l = (decide (l < n) && p l) := by
  induction n with
  | zero => exact ⟨Nat.one_pos, fun l => by simp⟩
  | succ n ih =>
    rw [List.range_succ, List.foldl_append]
    generalize hg : (List.range n).foldl (fun a l => if p l then a + 2 ^ l else a) 0 = a at ih
    simp only [List.foldl_cons, List.foldl_nil]
    have h2 : 2 ^ (n + 1) = 2 ^ n + 2 ^ n := by rw [Nat.pow_succ]; omega
    by_cases hp : p n = true
    · rw [if_pos hp]
      refine ⟨by omega, fun l => ?_⟩
      rcases Nat.lt_trichotomy l n with h | h | h
      · rw [Nat.add_comm, Nat.testBit_two_pow_add_gt h, ih.2]
        simp [h, Nat.lt_succ_of_lt h]
      · subst h
        rw [Nat.add_comm, Nat.testBit_two_pow_add_eq, ih.2]; simp [hp]
      · rw [Nat.testBit_lt_two_pow (Nat.lt_of_lt_of_le (by omega : a + 2 ^ n < 2 ^ (n + 1)) (Nat.pow_le_pow_right (by decide) h))]
        simp; omega
    · rw [if_neg hp]
      refine ⟨by omega, fun l => ?_⟩
      rw [ih.2]
      by_cases hl : l = n
      · subst hl; simp [hp]
      · have : decide (l < n + 1) = decide (l < n) := by simp; omega
        rw [this]
/-- Bit `l` of a mask that is given lane by lane. -/
theorem getLsbD_maskOf (p : Nat → Bool) {l : Nat} (h : l < 32) : (maskOf p).getLsbD l = p l := by
  unfold maskOf
  rw [BitVec.getLsbD_ofNat, (maskSum_spec p 32).2]
  simp [h]

/-! ## Uniform instructions, masks and traps -/

/-- R126, R384: what a uniform instruction leaves. -/
theorem State.uni_spec (s : State) (f : Warp → Warp) :
    ∃ t, s.uni f = .next t ∧ OnlyWarp s t ∧
      (∀ l < 32, t.cur.lane l =
        let x := (if s.acts then f s.cur else s.cur).lane l
        if s.inSet l then { x with pc := s.issue.pc + s.len } else x) ∧
      t.cur = { (if s.acts then f s.cur else s.cur) with lanes := t.cur.lanes } := by
  refine ⟨_, rfl, ?_⟩
  cases h : s.acts
  · refine ⟨s.onlyWarp_finish _, fun l hl => ?_, ?_⟩
    · simp only [Bool.false_eq_true, if_false]
      unfold State.advance
      rw [State.lane_finish _ _ hl]; rfl
    · simp only [Bool.false_eq_true, if_false]
      unfold State.advance
      rw [State.cur_finish]
  · refine ⟨s.onlyWarp_setFinish (f s.cur) _, fun l hl => ?_, ?_⟩
    · simp only [if_true]
      unfold State.advance
      rw [State.lane_finish _ _ hl, State.cur_modCur]; rfl
    · simp only [if_true]
      unfold State.advance
      rw [State.cur_finish, State.cur_modCur]
/-- R405: what a trap taken at issue leaves. -/
theorem State.finish_trap (s : State) (r : Nat → Option TrapRec) :
    TrapResult s (s.finish fun l => match r l with | some x => .trap x | none => .next) r where
  only := s.onlyWarp_finish _
  lanes l hl := by
    rw [s.lane_finish _ hl]
    split
    · cases r l with
      | none => rfl
      | some x =>
        show (s.cur.lane l).pend x = _
        generalize s.cur.lane l = y
        unfold Lane.pend
        obtain ⟨_, _, _, _, _, _, _, _, _, _, trap⟩ := y
        cases trap <;> rfl
    · rfl
  warp := s.cur_finish _

end Sys2Proof.Machine
end

