-- ==== Sys2Proof/Laws/Values.lean ====
section
/-! SUPPORT. Register results lane by lane: a compact result reads in every lane as what the lane computed (R102). -/

namespace Sys2Proof.Machine

theorem VecResult.congr {s t : State} {ds : List Nat} {v w : Nat → Nat → Word} {fl : Nat → Flags} {gen : Nat → DWord} {wc : Word}
    (h : VecResult s t ds v fl gen wc) (e : ∀ d ∈ ds, ∀ l < 32, v d l = w d l) : VecResult s t ds w fl gen wc :=
  { h with value := fun d hd l hl => by rw [h.value d hd l hl, e d hd l hl] }

theorem VReg.lane_norm (r : VReg) (l : Nat) : r.norm.lane l = r.lane l := by cases r <;> rfl
theorem VReg.lane_of_isU {r : VReg} (h : r.isU = true) (l k : Nat) : r.lane l = r.lane k := by
  cases r <;> simp_all [VReg.isU, VReg.lane]

/-- R102: a compact result reads as the values of its lanes. -/
theorem compactOf_lane {srcs : List VReg} {special : Option (Option VReg)} {f : Nat → Word} {r : VReg}
    (h : compactOf srcs special (f 0) = some r)
    (hs : ∀ q, special = some (some q) → ∀ l < 32, q.lane l = f l)
    (hu : special = none → srcs.all VReg.isU = true → ∀ l, f l = f 0) {l : Nat} (hl : l < 32) : r.lane l = f l := by
  unfold compactOf at h
  split at h
  · cases h
  · split at h
    · rename_i q
      subst h
      exact hs r rfl l hl
    · rename_i hall
      split at h
      · rename_i hU
        obtain rfl := Option.some.inj h
        exact (hu rfl hU l).symm
      · cases h

/-- R98, R102: a register result computed lane by lane. -/
theorem State.vop_result (s : State) (d : BitVec 7) (srcs : List VReg) (special : Option (Option VReg)) (f v : Nat → Word)
    (hv : ∀ l < 32, f l = v l)
    (hs : ∀ q, special = some (some q) → ∀ l < 32, q.lane l = f l)
    (hu : special = none → srcs.all VReg.isU = true → ∀ l, f l = f 0)
    (hr : s.fits [d.toNat]) :
    ∃ t, s.vop d srcs special f = .next t ∧ VecResult s t [d.toNat] (fun _ => v) noFlags s.gens s.cur.wc := by
  refine ⟨_, rfl, ?_⟩
  have := s.effect_result { writes := [⟨d.toNat, f, compactOf srcs special (f 0)⟩] } (fun _ => f) id (by simp)
    (by simp) (by
      intro y hy r hc _ l hl
      obtain rfl := List.mem_singleton.mp hy
      exact compactOf_lane hc hs hu hl) rfl (fun _ => rfl) hr
  exact this.congr fun _ _ l hl => hv l hl

/-- Two sources (R107). -/
theorem State.vop2_result (s : State) (d a b : BitVec 7) (tag : VReg → VReg → Option (Option VReg)) (g : Word → Word → Word)
    (v : Nat → Word)
    (hv : ∀ l < 32, g ((s.src a).lane l) ((s.srcB b).lane l) = v l)
    (ht : ∀ x y q, tag x y = some (some q) → ∀ l < 32, q.lane l = g (x.lane l) (y.lane l))
    (hr : s.fits [d.toNat]) :
    ∃ t, s.vop2 d a b tag g = .next t ∧ VecResult s t [d.toNat] (fun _ => v) noFlags s.gens s.cur.wc := by
  refine s.vop_result d _ _ _ v hv (fun q h l hl => ht _ _ q h l hl) ?_ hr
  intro _ hU l
  simp only [List.all_cons, List.all_nil, Bool.and_true, Bool.and_eq_true] at hU
  rw [VReg.lane_of_isU hU.1 l 0, VReg.lane_of_isU hU.2 l 0]

theorem noTag_lane (x y q : VReg) (h : noTag x y = some (some q)) : False := by cases h
theorem tagAdd_lane {x y q : VReg} (h : tagAdd x y = some (some q)) (l : Nat) : q.lane l = x.lane l + y.lane l := by
  unfold tagAdd at h
  split at h <;> first | (obtain rfl := Option.some.inj (Option.some.inj h); simp only [VReg.lane]; ring) | cases h
theorem tagSub_lane {x y q : VReg} (h : tagSub x y = some (some q)) (l : Nat) : q.lane l = x.lane l - y.lane l := by
  unfold tagSub at h
  split at h <;> first | (obtain rfl := Option.some.inj (Option.some.inj h); simp only [VReg.lane]; ring) | cases h
theorem tagMul_lane {x y q : VReg} (h : tagMul x y = some (some q)) (l : Nat) : q.lane l = x.lane l * y.lane l := by
  unfold tagMul at h
  split at h <;> first | (obtain rfl := Option.some.inj (Option.some.inj h); simp only [VReg.lane]; ring) | cases h
theorem tagMad_lane {x y z q : VReg} (h : tagMad x y z = some (some q)) (l : Nat) :
    q.lane l = x.lane l * y.lane l + z.lane l := by
  unfold tagMad at h
  split at h <;> first | (obtain rfl := Option.some.inj (Option.some.inj h); simp only [VReg.lane]; ring) | cases h
theorem tagShl_lane {x y q : VReg} (h : tagShl x y = some (some q)) (l : Nat) : q.lane l = shlW (x.lane l) (y.lane l) := by
  unfold tagShl at h
  split at h
  · split at h <;> obtain rfl := Option.some.inj (Option.some.inj h) <;> simp only [VReg.lane, shlW, *, if_true, if_false]
    rename_i b st k _
    rw [BitVec.shiftLeft_eq_mul_twoPow, BitVec.shiftLeft_eq_mul_twoPow, BitVec.shiftLeft_eq_mul_twoPow]
    ring
  · cases h

end Sys2Proof.Machine
end

