-- ==== Sys2Proof/Tests/Slice0.lean ====
section
/-! SUPPORT. Tests of the model: ill-formed terms are refused, words of the spec decode, single instructions give the results that the spec
works out, and the hypotheses of the statements can be met. -/

-- one test at a time, so that the evaluations by the kernel do not wait for each other in memory
set_option Elab.async false

namespace Sys2Proof.Tests
open Sys2Proof.Machine

/-! ## Ill-formed terms (R23, R24, R26 to R29, R34) -/

def refusesAll (is : List Instr) : Bool := is.all fun i => !WellFormed i
/-- R100: pairs and quads of registers begin at even numbers and at multiples of 4. -/
theorem test_wf_pairs : refusesAll [.iadd64 0 0 1 2 4, .isub64 0 0 2 1 4, .lea 0 0 1 2 3, .wadd64 0 1 2 4, .ldB64 0 0 1 0 0, .stB64 0 0 3 0 0,
  .ldB128 0 0 2 0 0, .stB128 0 0 6 0 0, .ldsB128 0 0 2 0 0, .atomAdd64 0 0 1 0 0, .atomCas32 0 0 1 0 0, .atomCas64 0 0 2 0 0, .launch 0 21 3,
  .perfrd 0 1 0, .rngseed 0 1, .ordenter 0 1 2 0, .put 0 2 2 0, .cwait 0 2 1 0, .cvtfi 0 0 8 1 2, .cvtif 0 0 8 2 1] = true := by decide
/-- R104, R105: codes of conditions. -/
theorem test_wf_conditions : refusesAll [.icmp 0 0 10 1 2, .icmpi 0 10 1 2, .fcmp 0 0 8 1 2, .wcmp 0 10 1 2] = true := by decide
/-- Sub-operations and fields of classes 0x3, 0x4 and 0xD that have no meaning. -/
theorem test_wf_suboperations : refusesAll [.vtow 0 1 2 0x21, .redAdd 0 0 1 2 1, .redFadd 0 0 1 2 16, .cvtf 0 0 15 1 2, .cvtfi 0 0 3 1 2,
  .pack2 0 0 4 1 2, .pack2 0 0 0 1 127, .pack4 0 0 8 1 2, .pack4 0 0 0 1 125, .unpk 0 0 12 1 2, .rcp 0 0 2 1 2, .rng 0 0 2 1] = true := by decide
/-- R179 to R201: shapes, format pairs, codes and registers of class 0x8. -/
theorem test_wf_matrix : refusesAll [.mma 0 0 5 0 0 0, .mma 0 0 1 0 31 0, .mmaz 0 0 0 0 0 63, .mmas 0 0 0 0 63, .ares 0 0 0 0 8 0, .ares 0 0 0 0 0 61,
  .adrainValue 0 0 0 0 0 8, .adrainValueAdd 0 0 0 0 0 3, .aloadValue 0 0 0 0 0 6, .mfmt 0 0 0x008, .mfmt 0 0 0x010, .mfmt 0 0 0x155, .tmma 0 0 0 4] = true := by
  decide
/-- R207 to R221: registers and shapes of class 0x9. -/
theorem test_wf_pixel : refusesAll [.edge 0 0 0 31 0, .edge 0 0 0 0 1, .bary 0 0 31 0, .texg 0 0 0 0 1, .filt 0 0 3 0 0 0, .filt 0 0 0 0 0 63,
  .blnd 0 0 31 0 0, .binnext 0 0 1 0] = true := by decide
/-- R223, R231, R235: barrier operands, scopes and fences; R242, R247, R413, R258 to R260: class 0xB and 0xC. -/
theorem test_wf_sync_system : refusesAll [.bararr 0 1 0 0, .bararr 0 2 1 0, .bararr 0 2 0 16, .barwait 0 3 8 0, .barsync 0 7 0 0, .putw 0 1 0 0 0,
  .fenceSc 0 7, .apstart 0 0 0 15, .trapret 0 3, .region 0 129 0, .region 0 0 257, .reggrowTry 0 0, .reggrowWait 0 8192, .regshrink 0 0, .vfree 0 64 64] =
  true := by decide
/-- R24, R27: a prefix whose RM is reserved, or with MK and no ME; a word that needs a prefix, and a form of address programs, alone. -/
theorem test_wf_prefix : refusesAll [.pfx 0 0 7 0 0 0 0, .pfx 0 1 0 0 0 0 0] = true ∧ WellFormed.alone (.mmas 0 0 0 0 0) = false ∧
  WellFormed.alone (.xend 0) = false := by decide
/-- R24, R26, R29: prefix words that a base instruction refuses: C set, RM without rounding, Z of a mask destination, Q without a third
operand, X without a meaning, WS with a B field, ME before the mask algebra, orders that a load has not, and what is not prefixable. -/
theorem test_wf_pairs_refused : ([(0xF0000000, .iadd 0 0 1 2 3), (0x70100000, .iadd 0 0 1 2 3), (0x70080000, .elect 0 0 1), (0x70001000, .iadd 0 0 1 2 3),
  (0x70000001, .iadd 0 0 1 2 3), (0x70000806, .iadd 0 0 1 2 3), (0x70000805, .iadd64 0 0 2 2 0), (0x74000000, .mand 0 0 1 2 3), (0x70000400, .ldB32 0 0 1 2 3),
  (0x70000200, .stB32 0 0 1 2 3), (0x700801C0, .atomAdd32 0 0 1 2 3), (0x70000000, .wadd 0 1 2 3), (0x70000000, .nop 0), (0x70000010, .lea 0 0 2 4 5)] :
  List (BitVec 32 × Instr)).all (fun e => !WellFormed.paired e.1 e.2) = true := by decide
/-- The pairs that the spec's worked examples use are legal. -/
theorem test_wf_pairs_legal : WellFormed.paired 0x70000806 (.iadd 0 0 3 2 0) = true ∧ WellFormed.paired 0x74000000 (.imuli 0 3 3 3) = true ∧
  WellFormed.paired 0x70000010 (.aloadRaw 0 0 0 5 5) = true := by decide

/-! ## Words of the worked examples (chapters 01, 04 to 07, 09, 10, 13) -/

theorem test_decode_class2 : decode 0x12810104 = .ok (.laneidx 0 2 1 4) ∧ decode 0x12010378 = .ok (.icmpi 0 2 3 120) ∧
  decode 0x10418303 = .ok (.imuli 0 3 3 3) := ⟨rfl, rfl, rfl⟩
theorem test_decode_class0 : decode 0x0000C100 = .ok (.iadd 0 0 3 2 0) := rfl
theorem test_decode_class3 : decode 0x1B018064 = .ok (.wli 0 6 100) := rfl
theorem test_decode_class4 : decode 0x22008080 = .ok (.redAdd 0 0 2 1 0) := rfl
theorem test_decode_class5 : decode 0x29C04000 = .ok (.split 0 0 1) ∧ decode 0x28600003 = .ok (.brc 0 1 0 3) ∧ decode 0x2A004000 = .ok (.join 0 0 1) ∧
  decode 0x2A400000 = .ok (.exit 0 0) := ⟨rfl, rfl, rfl, rfl⟩
theorem test_decode_class6 : decode 0x3108A024 = .ok (.ldB32 0 2 20 2 4) := rfl
theorem test_decode_class8 : decode 0x40122088 = .ok (.mma 0 2 2 4 2 8) ∧ decode 0x42801FF8 = .ok (.aanc 0 0 0 3 0x7F8) ∧
  decode 0x43002808 = .ok (.ares 0 0 0 5 0 8) := ⟨rfl, rfl, rfl⟩
theorem test_decode_class9 : decode 0x48001046 = .ok (.edge 0 0 2 1 6) := rfl
theorem test_decode_classA : decode 0x50D28001 = .ok (.barexp 0 2 40 0 1) ∧ decode 0x50900001 = .ok (.barsync 0 2 0 1) ∧
  decode 0x53280007 = .ok (.fenceSc 0 5) ∧ decode 0x53280003 = .ok (.fenceAr 0 5) := ⟨rfl, rfl, rfl, rfl⟩
theorem test_decode_classB : decode 0x59004000 = .ok (.tcopy 0 0 1) := rfl
theorem test_decode_classC : decode 0x63050003 = .ok (.launch 0 20 3) ∧ decode 0x60000000 = .ok (.nop 0) := ⟨rfl, rfl⟩
theorem test_decode_classD : decode 0x69000404 = .ok (.pack4 0 0 0 8 4) := rfl
theorem test_decode_classE : decode 0x70000806 = .ok (.pfx 0 0 0 0 0 1 6) ∧ decode 0x75A80000 = .ok (.pfx 1 3 2 1 0 0 0) := ⟨rfl, rfl⟩

/-- Every word of the statement's list, decoded. -/
theorem test_spec_words : ∀ e ∈ Claim.specWords, decode e.1 = .ok e.2 := by
  unfold Claim.specWords
  intro e he
  simp only [List.mem_cons, List.not_mem_nil, or_false] at he
  rcases he with h | h | h | h | h | h | h | h | h | h | h | h | h | h | h | h | h | h | h | h | h | h <;> subst h <;> rfl

/-! ## One instruction on a small state -/

/-- One warp issues with all its lanes. -/
def base : State := { State.reset.withLaunch 0 with warps := [(1, fetchWarp)], issue := { warp := 1, set := allLanes } }
/-- The same with its warp changed. -/
def withW (f : Warp → Warp) : State := { base with warps := [(1, f fetchWarp)] }
/-- What an answer holds, where it is a next state. -/
def after {α : Type} (r : Res) (f : State → α) : Option α := match r with
  | .next t => some (f t)
  | _ => none
/-- The same state after a prefix word. -/
def State.prefixed (s : State) (p : Word) : State := { s with issue := { s.issue with pfx := some p } }

/-- Chapter 04, tags through an address computation. -/
theorem test_laneidx : after (exec (.laneidx 0 2 1 4) base) (fun t => t.cur.vreg 2) = some (.a 0 4) := by decide
theorem test_iadd_uniform_source : after (exec (.iadd 0 0 3 2 0) (State.prefixed (withW fun w => { w with vregs := [(2, .a 0 4)], wregs := [(6, 100)] })
  0x70000806)) (fun t => t.cur.vreg 3) = some (.a 100 4) := by decide
theorem test_icmpi : after (exec (.icmpi 0 2 3 120) (withW fun w => { w with vregs := [(3, .a 100 4)] })) (fun t => t.cur.mask 0) = some 0x1F := by decide
theorem test_imuli_predicated : after (exec (.imuli 0 3 3 3) (State.prefixed (withW fun w => { w with vregs := [(3, .a 100 4)], masks := [(0, 0x1F)] })
  0x74000000)) (fun t => (t.cur.rows, t.cur.vlane 3 0, t.cur.vlane 3 4, t.cur.vlane 3 5)) = some (1, 300, 348, 120) := by decide
/-- The same with no row: the register-overflow trap. -/
theorem test_register_overflow : after (exec (.imuli 0 3 3 3) (State.prefixed (withW fun w => { w with
  vregs := [(3, .a 100 4)], masks := [(0, 0x1F)], budget := 0 }) 0x74000000))
  (fun t => (t.cur.vreg 3, (t.cur.lane 31).trap.map TrapRec.kind)) = some (.a 100 4, some 4) := by decide
/-- R128: three words make a constant. -/
theorem test_wlih : after (exec (.wlih 0 4 0x1678) (withW fun w => { w with wregs := [(4, 0x48D1)] })) (fun t => t.cur.wreg 4) = some 0x12345678 := by
  decide
/-- R109: a shift by 32 or more. -/
theorem test_shifts : after (exec (.shl 0 0 3 1 2) (withW fun w => { w with vregs := [(1, .u 3), (2, .u 32)] })) (fun t => t.cur.vlane 3 0) = some 0 ∧
  after (exec (.sar 0 0 3 1 2) (withW fun w => { w with vregs := [(1, .u 0x80000000), (2, .u 40)] })) (fun t => t.cur.vlane 3 7) = some 0xFFFFFFFF := by
  decide
/-- R118: one and a quiet NaN; the sum of the largest number with itself overflows to infinity under RNE. -/
theorem test_fadd : after (exec (.fadd 0 0 3 1 2) (withW fun w => { w with vregs := [(1, .u 0x7F7FFFFF), (2, .u 0x7F7FFFFF)] }))
  (fun t => t.cur.vlane 3 9) = some 0x7F800000 := by decide +kernel
/-- Chapter 04, packing to E4M3 without and with saturation. -/
theorem test_pack4 : after (exec (.pack4 0 0 0 8 4) (withW fun w => { w with
  vregs := [(4, .u 0xBE99999A), (5, .u 0x3F800000), (6, .u 0x43FA0000), (7, .u 0x7FC00000)] })) (fun t => t.cur.vlane 8 0) = some 0x7F7F38AA := by decide
/-- Chapter 05: the reduction over the warp, which is uniform. -/
theorem test_red_add : after (exec (.redAdd 0 0 2 1 0) (withW fun w => { w with vregs := [(1, .a 1 1)] })) (fun t => (t.cur.vreg 2, t.cur.wc)) =
  some (.u 528, 0) := by decide
/-- Chapter 05: BRC.NOT m0 sends lanes 4 to 31 to word 7. -/
theorem test_brc : after (exec (.brc 0 1 0 3) { (withW fun w => { w with masks := [(0, 0xF)] }) with
  launches := [(1, { fetchLaunch with desc := { fetchLaunch.desc with limit := 12 } })], issue := { warp := 1, set := allLanes, pc := 4 } })
  (fun t => ((t.cur.lane 3).pc, (t.cur.lane 4).pc)) = some (5, 7) := by decide
theorem test_split_join : after (exec (.split 0 0 1) base) (fun t => t.cur.join 1) = some allLanes ∧
  after (exec (.join 0 0 1) (withW fun w => { w with joins := [(1, 0xF)] })) (fun t => ((t.cur.lane 3).status, (t.cur.lane 4).pc)) = some (.join, 1) := by
  decide
/-- R153: EXIT ends the issue set. -/
theorem test_exit : after (exec (.exit 0 0) base) (fun t => (t.cur.lane 31).status) = some .done := by decide +kernel
/-- R103, R405, R411: TRAP 5 is pending in each lane with kind 18 and its argument, and the lanes stay. -/
theorem test_trap : after (exec (.trap 0 5) base) (fun t => ((t.cur.lane 2).trap.map fun r => (r.kind, r.arg1), (t.cur.lane 2).pc)) =
  some (some (18, 5), 0) := by decide
/-- R159: a misaligned address is the alignment fault. -/
theorem test_misaligned : after (exec (.ldB32 0 0 5 1 0) (withW fun w => { w with vregs := [(1, .u 2)] }))
  (fun t => (t.flights.length, (t.cur.lane 0).trap.map TrapRec.kind)) = some (0, some 5) := by decide
/-- R160: an address without a lease that may be written is the lease fault, with the kind of access as its argument. -/
theorem test_lease : after (exec (.stB32 0 0 5 1 0) (withW fun w => { w with vregs := [(1, .u 0x1000)] }))
  (fun t => (t.flights.length, (t.cur.lane 0).trap.map fun r => (r.kind, r.arg1))) = some (0, some (7, 2)) := by decide
/-- R161: a load that returns. -/
theorem test_load_returns : after (exec (.ldS8 0 0 5 1 0) (withW fun w => { w with vregs := [(1, .u 0x1000)] }))
  (fun t => after (exec (.longLatencyCompletion 2) { t with mem := [(0x1000, 0x80)] }) fun u => u.cur.vlane 5 0) = some (some 0xFFFFFF80) := by decide +kernel
/-- Chapter 06: two triangles that share an edge. -/
theorem test_edge : after (exec (.edge 0 0 2 1 6) (withW fun w => { w with vregs := [(6, .u 0x400), (9, .u 0x400)] }))
  (fun t => (t.cur.vlane 12 0, t.cur.vlane 13 0)) = some (0x00010307, 0) := by decide
/-- Chapter 09: the value 319 placed at 2^-8, with a tail, resolves exactly to F32 and is inexact. -/
theorem test_resolve : (({ Ace.cleared with s := 0x13F, anc := 0xFF8, an := true, st := true } : Ace).resolve (withW id).env 0 ⟨0, 0⟩).1 = 0x3F9F8000 := by
  decide
/-- R197: the two drained elements of chapter 09 merge to 319, with C zero. -/
theorem test_merge : (({ Ace.cleared with s := 0x1C0, c := 0xFFFFFFFFFFFFFFFFFFC0, anc := 0xFF8, an := true, st := true } : Ace).merge
  { Ace.cleared with s := 0xFFFFFFFFFFFFFFFFFFBF, anc := 0xFF8, an := true, st := true }).s = 0x13F := by decide
/-- R47: the group with most lanes is picked, and a group passed over 64 times comes before it. -/
theorem test_pick_group : (pickGroup {} [⟨5, 0xF, .fetchFault 0 none⟩, ⟨7, 0xFFFFFFF0, .fetchFault 0 none⟩]).map Ready.pc = some 7 := by decide

/-! ## The hypotheses of the statements can be met

One theorem for each statement with hypotheses: a state and operands that meet them together, and, where a statement has clauses, for each
clause, at the edge of its range. -/

/-- A state with room for every result. -/
theorem base_fits (ds : List Nat) (h : ds.length ≤ 128) : base.fits ds := .inr (.inl (by
  have : base.cur.rows = 0 := by decide
  have : base.cur.budget = 128 := by decide
  omega))
theorem witness_encode : encode (.iadd 0 0 1 2 3) = some 0x00004103 ∧ decode 0x00004103 = .ok (.iadd 0 0 1 2 3) := ⟨rfl, rfl⟩
theorem witness_unassigned : decode 0x78000000 = .error .unassigned ∧ Claim.unassigned 0x0E800000 = true ∧ Claim.unassigned 0x0E400000 = false :=
  ⟨rfl, by decide, by decide⟩
theorem witness_IntegerResults : Claim.IntVal base (.shl 0 0 127 2 3) 127 (fun l => Claim.vA base 2 l <<< Claim.vB base 3 l) ∧ base.fits [127] :=
  ⟨.shl 0 0 127 2 3, base_fits _ (by decide)⟩
/-- With no row left, a result that needs none fits: the second clause of `fits`. -/
theorem witness_fits_held : (withW fun w => { w with vregs := [(3, .g (List.replicate 32 0))], budget := 1 }).fits [3] := .inr (.inr ⟨by simp [KeysRise]; decide, by decide⟩)
theorem witness_ImmediateAndPairResults : (Claim.ImmVal base (.movi 0 1 0x80) 1 (fun _ => Claim.imm base 0x80 true) ∧ base.fits [1]) ∧
  Claim.PairVal base (.iadd64 0 0 126 2 4) 126 (fun l => base.cur.vpair 2 l + Claim.pB base 4 l) ∧ base.fits [126, 127] :=
  ⟨⟨.movi 0 1 0x80, base_fits _ (by decide)⟩, .iadd64 0 0 126 2 4, base_fits _ (by decide)⟩
theorem witness_LaneAndWarpResults : (∃ v, Claim.LaneVal base (.shflUp 0 0 1 2 3) 1 v) ∧ (∃ v fl wc, Claim.WarpVal base (.redFadd 0 0 1 2 8) 1 v fl wc) ∧
  base.fits [1] := ⟨⟨_, .shflUp 0 0 1 2 3⟩, ⟨_, _, _, .redFadd 0 0 1 2 8⟩, base_fits _ (by decide)⟩
theorem witness_NumberAndConversionResults : (∃ f, Claim.NumVal base (.ffma 0 0 1 2 3) 1 1 f true) ∧ (∃ f, Claim.ConvVal base (.pack4 0 0 6 1 4) 1 1 f true) ∧
  (∃ f, Claim.ConvVal base (.rng 0 0 1 1) 1 1 f true) ∧ base.fits (List.range' 1 1) :=
  ⟨⟨_, .ffma 0 0 1 2 3⟩, ⟨_, .pack4half 0 0 6 1 4 (by decide)⟩, ⟨_, .rngUnit 0 0 1 1 (by decide)⟩, base_fits _ (by decide)⟩
theorem witness_CompareResults : ∃ v, Claim.CmpVal base (.icmp 0 0 9 1 2) 0 v noFlags := ⟨_, .icmp 0 0 9 1 2⟩
theorem witness_UniformAndWholeMasks : (∃ v, Claim.UniVal base (.wadd64 0 4 6 8) [4, 5] v none base.cur.wc) ∧ Claim.WholeMask base (.issuem 0 0 1) 1 base.eff :=
  ⟨⟨_, .wadd64 0 4 6 8⟩, .issuem 0 0 1⟩
theorem witness_BranchesAndLoops : ∃ d, Claim.Branch base (.bra 0 1) d := ⟨_, .bra 0 1⟩
/-- LOOPW: the counter that becomes zero, and a target outside the segment. -/
theorem witness_LoopBranch : (withW fun w => { w with wregs := [(4, 1)] }).cur.wreg 4 - 1 = 0 ∧ base.cur.wreg 4 - 1 ≠ 0 ∧
  ¬ (0 ≤ Claim.brWord base 2 ∧ Claim.brWord base 2 < base.codeLimit) ∧ 0 ≤ Claim.brWord base 1 ∧ Claim.brWord base 1 < base.codeLimit := by decide
theorem witness_CallsAndEnds : Claim.Call base (.call 0 1) 127 (fun _ => Claim.brWord base 1) ∧ base.cur.rows + 1 ≤ base.cur.budget ∧
  Claim.callsTo base (fun _ => 1) 0 = true ∧ Claim.callsTo base (fun _ => 2) 0 = false := ⟨.call 0 1, by decide, by decide, by decide⟩
/-- The release of a rejoin mask: complete, and not complete. -/
theorem witness_SplitAndJoin : Claim.joined { fetchWarp with joins := [(0, 1)], lanes := [(0, { status := .join })] } 0 ∧
  ¬ Claim.joined { fetchWarp with joins := [(0, 1)] } 0 := by
  refine ⟨?_, ?_⟩
  · intro l h; revert l; simp only [Claim.waitsFor]; decide
  · intro h; have := h 0 (by decide) (by decide); simp only [Claim.waitsFor] at this; revert this; decide
/-- A workgroup with a scratchpad window of 4,096 bytes and accumulators. -/
def padGroup : Workgroup := { fetchGroup with part := 0x40201 }
def padded : State := { base with wgs := [(1, padGroup)] }
/-- The first byte that is not aligned, the last address of the space and one beyond, a byte with a lease and without, and the edges of a window. -/
theorem witness_AccessChecks : (1 % 4 ≠ 0) ∧ ((2 ^ 56 : Nat) % 4 = 0 ∧ 2 ^ 56 < 2 ^ 56 + 4) ∧
  ((0x0FFFFFFFFFFFFC : DWord).toNat + 4 ≤ 2 ^ 56 ∧ ∀ i < 4, base.inSave base.curLaunch.asid (0x0FFFFFFFFFFFFC + i) = false) ∧
  (base.checkGlobal .r 4 true 0 0x1FFC).isOk = true ∧ (base.checkGlobal .r 4 true 0 0x2000).isOk = false ∧
  padded.cur.wg = 1 ∧ (padded.wg 1).window = 4096 ∧ (padded.checkPad true 4 true 3712).isOk = false ∧ (padded.checkPad false 4 true 3712).isOk = true ∧
  (padded.checkPad true 4 true 3708).isOk = true ∧ (padded.checkPad true 4 true 3836).isOk = false ∧ (padded.checkPad true 4 true 3840).isOk = true ∧
  (padded.checkPad false 4 true 4092).isOk = true ∧ (padded.checkPad false 4 true 4096).isOk = false := by decide
theorem witness_AccessesIssue : (∃ a ds, Claim.Load base (.ldB128 0 0 124 2 3) a ds ∧ base.fits ds) ∧ (∃ a, Claim.Store base (.stB8 0 0 1 2 3) a) ∧
  (∃ a ds, Claim.Atomic base (.atomCas64 0 0 4 2 3) a ds ∧ base.fits ds) ∧
  (base.acts = true ∧ (base.checkGlobal .r 4 true 0 0x1FFC).isOk = true ∧ (base.checkGlobal .r 4 true 0 0x2000).isOk = false) ∧
  (withW fun w => { w with lanes := (List.range 32).map fun l => (l, { status := .run, helper := true }) }).acts = false :=
  ⟨⟨_, _, .ldB128 0 0 124 2 3, base_fits _ (by decide)⟩, ⟨_, .stB8 0 0 1 2 3⟩, ⟨_, _, .atomCas64 0 0 4 2 3, base_fits _ (by decide)⟩, by decide, by decide⟩
/-- A load of four bytes at the first byte of the code page, a store of the last byte, and an atomic, each alone on its way. -/
def flightOf (k : FlightKind) : Flight := { id := 1, warp := 1, wg := 1, lane := 0, set := 1, who := 1, kind := k }
def flying (k : FlightKind) : State := { base with flights := [flightOf k], nextId := 2 }
def at4 : List Place := [.mem 0x1000, .mem 0x1001, .mem 0x1002, .mem 0x1003]
theorem quiet_at4 (s : State) (h : s.route 0x1000 ≠ .nowhere ∧ s.route 0x1001 ≠ .nowhere ∧ s.route 0x1002 ≠ .nowhere ∧ s.route 0x1003 ≠ .nowhere) :
    Claim.Quiet s at4 := by
  intro p hp
  simp only [at4, List.mem_cons, List.not_mem_nil, or_false] at hp
  rcases hp with rfl | rfl | rfl | rfl
  · exact h.1
  · exact h.2.1
  · exact h.2.2.1
  · exact h.2.2.2
theorem witness_LoadReturns : let s := flying (.load at4 4 false 5 false)
    s.flight? 1 = some (flightOf (.load at4 4 false 5 false)) ∧ s.canPerform (flightOf (.load at4 4 false 5 false)) = true ∧ Claim.Quiet s at4 ∧
    s.dev.cxl = [] ∧ at4.length ∈ [1, 2, 4, 8, 16] := ⟨by decide, by decide, quiet_at4 _ (by decide), rfl, by decide⟩
theorem witness_StorePerforms : let bs := at4.map fun p => (p, (1 : Byte))
    let f := { flightOf (.store [bs] []) with coreAt := some 0 }
    let s := { base with flights := [f], nextId := 2 }
    s.flight? 1 = some f ∧ f.toCore = false ∧ (flightOf (.store [bs] [])).toCore = true ∧ s.canPerform f = true ∧ Claim.Quiet s (bs.map Prod.fst) ∧
    (bs.map fun c => Claim.bare c.1).Nodup ∧ f.soft = 0 ∧ s.memoryWf :=
  ⟨by decide, by decide, by decide, by decide, quiet_at4 _ (by decide), by decide, rfl, by decide, by intro e h; simp [base, State.withLaunch] at h; subst h; decide⟩
/-- An access that may not be performed yet: an older store of its warp to the same bytes is on its way. -/
theorem witness_not_performed : let k : FlightKind := .store [[(.mem 0x1000, 2)]] []
    let s := { flying k with flights := [{ flightOf (.store [[(.mem 0x1000, 1)]] []) with id := 0 }, flightOf k] }
    s.flight? 1 = some (flightOf k) ∧ s.canPerform (flightOf k) = false := by decide
theorem witness_AtomicPerforms : let k : FlightKind := .atomic at4 11 32 7 0 (some 5)
    let s := flying k
    s.flight? 1 = some (flightOf k) ∧ s.canPerform (flightOf k) = true ∧
    (s.flights.filter fun g => g.group == (flightOf k).group && g.warp == (flightOf k).warp && overlaps g.places (flightOf k).places) = [flightOf k] ∧
    Claim.Quiet s at4 ∧ (at4.map Claim.bare).Nodup ∧ s.dev.cxl = [] ∧ at4.length = 32 / 8 ∧ (flightOf k).soft = 0 ∧ 1 < s.nextId ∧
    s.aheadScope (flightOf k) = 0 :=
  ⟨by decide, by decide, by decide, quiet_at4 _ (by decide), by decide, rfl, by decide, rfl, by decide, by decide⟩
/-- The code page's first word, through its mapping. -/
def word0 : List Place := (List.range 4).map fun i => .mem (0x1000 + i) (viaOf 0 0x1000)
/-- Two lanes of one instruction, their accesses to one word. -/
def twoLanes (k : FlightKind) : List Flight := [flightOf k, { flightOf k with id := 2, lane := 1, who := 2 }]
def flyingTwo (k : FlightKind) : State := { base with flights := twoLanes k, nextId := 3 }
theorem quiet_word0 (s : State) (h : ∀ i ∈ List.range 4, s.route (0x1000 + i) ≠ .nowhere) : Claim.Quiet s word0 := by
  intro p hp
  obtain ⟨i, hi, rfl⟩ := List.mem_map.mp hp
  exact h i hi
/-- The loads of one instruction that meet, none of them held back. -/
theorem witness_LoadsTogether : let k : FlightKind := .load word0 4 false 5 false
    let s := flyingTwo k
    (s.flights.filter fun g => g.isLoad && g.group == (flightOf k).group && g.warp == (flightOf k).warp && overlaps g.places (flightOf k).places) = twoLanes k ∧
    (∀ g ∈ twoLanes k, s.canPerform g = true ∧ g.acq = false ∧ g.scope = (flightOf k).scope ∧ g.dropped = false ∧ g.kind = k ∧ g.lane < 32) ∧
    ((twoLanes k).map Flight.lane).Nodup ∧ Claim.Quiet s word0 ∧ word0.length = 4 :=
  ⟨by decide, by decide, by decide, quiet_word0 _ (by decide), rfl⟩
/-- The atomics of one instruction at one location, by lanes 0 and 1. -/
theorem witness_AtomicsTogether : let k : FlightKind := .atomic word0 0 32 7 0 (some 5)
    let s := flyingTwo k
    (s.flights.filter fun g => g.group == (flightOf k).group && g.warp == (flightOf k).warp && overlaps g.places (flightOf k).places) = twoLanes k ∧
    (∀ g ∈ twoLanes k, s.canPerform g = true ∧ g.kind = k ∧ g.dropped = false ∧ g.soft = 0 ∧ g.lane < 32 ∧ g.id < s.nextId) ∧
    ((twoLanes k).map Flight.lane).Nodup ∧ ((twoLanes k).map Flight.id).Nodup ∧ Claim.Quiet s word0 ∧ Claim.Plain s word0 ∧
    (word0.map Claim.bare).Nodup ∧ (∀ p ∈ word0, Claim.lands s p = true ∧ s.placePoisoned p = false) ∧ word0.length = 32 / 8 := by
  refine ⟨by decide, by decide, by decide, by decide, quiet_word0 _ (by decide), ⟨viaOf 0 0x1000, ?_⟩, by decide, by decide, rfl⟩
  intro p hp
  obtain ⟨i, hi, rfl⟩ := List.mem_map.mp hp
  refine ⟨rfl, by decide, ?_, ?_⟩
  · intro q hq; exact absurd hq (by simp [flyingTwo, base, State.withLaunch, mapGet, mapGet?])
  · intro e he; exact absurd he (by simp [flyingTwo, base, State.withLaunch])
/-- An access of two lanes of which one is held back, by a store of its lane alone. -/
theorem witness_HeldTogether : let k : FlightKind := .atomic word0 0 32 7 0 (some 5)
    let s := { flyingTwo k with flights := { flightOf (.fence true false false false false) with id := 0, set := 2, who := 2, group := 9 } :: twoLanes k }
    (s.canPerform { flightOf k with id := 2, lane := 1, who := 2, set := 2 }) = false := by decide
theorem witness_memoryWf : padded.memoryWf := ⟨by decide, by intro e h; simp [padded] at h; subst h; decide⟩
/-- Rows of tiles: in range, out of range (tile 8 of 8, slot 8 of 8), and in use. -/
theorem witness_OnTiles : padded.eff ≠ 0 ∧ Claim.tileBound padded true = 8 ∧ Claim.tileBound padded false = 8 ∧
  (∀ l < 32, ∀ i < 1, Claim.tileNo padded 4 1 i false l < Claim.tileBound padded false) ∧
  ¬ Claim.tileNo padded 5 1 0 false 31 < Claim.tileBound padded false ∧
  Claim.tileNo (withW fun w => { w with wregs := [(2, 4)] }) 2 1 0 true 31 = 7 := by decide
theorem witness_AccumulatorWrites : (∃ f, Claim.RowOp padded (.aanc 0 0 0 4 0x3FF) 4 false f) ∧ padded.memoryWf ∧ padded.acts = true ∧
  (padded.cur.wreg 0).toNat % 16 = 0 ∧ 0 + 64 * 8 ≤ (padded.wg padded.cur.wg).window ∧ 8 + 8 ≤ (padded.wg padded.cur.wg).scaleEntries ∧
  ¬ 9 + 8 ≤ (padded.wg padded.cur.wg).scaleEntries ∧ padded.readWaits padded.issue.set .consistent (padPlaces 1 0 512) = false :=
  ⟨⟨_, .aanc 0 0 0 4 0x3FF⟩, witness_memoryWf, by decide⟩
theorem witness_QuarterOperations : (∃ q, Claim.QuarterOp padded (.mmaz 0 0 0 4 0 0) false q) ∧ Claim.mfmtOk padded ∧ Claim.scaled padded = false ∧ padded.px = 0 ∧
  (let s := State.prefixed { padded with warps := [(1, { fetchWarp with mfmt := 0x111 })] } 0x70000010
   Claim.mfmtOk s ∧ Claim.scaled s = true ∧ (s.wg s.cur.wg).scaleEntries < s.px % 1024 + 1) ∧
  (State.prefixed padded 0x70000000).prefix? = some ⟨false, 0, 0, false, 0, false, 0⟩ := ⟨⟨_, .mmaz 0 0 0 4 0 0⟩, by decide⟩
theorem witness_AccumulatorTransfers : padded.fits (List.range' 4 2) ∧ (∃ d, Claim.Drain padded.markOut (.adrainRaw 0 0 0 4 5) d 5) ∧
  (∃ f, Claim.RowLoad padded (.aloadRaw 0 0 0 4 5) 4 false 5 192 f) ∧ padded.dev.cxl = [] :=
  ⟨base_fits (List.range' 4 2) (by decide), ⟨_, .raw 0 0 0 4 5⟩, ⟨_, .raw 0 0 0 4 5⟩, rfl⟩
/-- Reads of an instruction as it issues: nothing is to arrive marked, and the next read of the warp is. -/
theorem witness_IssueReads : Claim.Quiet base at4 ∧ base.dev.cxl = [] ∧ base.armed = [] ∧ base.struck at4 = [] ∧
    (let s := { base with armed := [{ warp := 1, unit := none, fetch := false, sector := 0 }] }
     s.struck at4 = at4 ∧ s.readHit (s.struck at4) at4 = ([0, 0, 0, 0], true)) :=
  ⟨quiet_at4 _ (by decide), rfl, rfl, by decide, by decide⟩
/-- A row load of values from the scratchpad: every row is granted, and an access on its way to one of its bytes holds it. -/
theorem witness_RowLoads : (∃ f, Claim.RowLoad padded (.aloadValue 0 0 0 4 16 0) 4 false 16 32 f) ∧
  (∀ l < 32, (padded.rowCheck 16 l 32 .r false).isOk = true) ∧ padded.readWaits 1 .consistent (padPlaces 1 0 32) = false ∧
  ({ padded with flights := [flightOf (.store [[(.sp 1 4, 1)]] [])] }.readWaits 1 .consistent (padPlaces 1 0 32)) = true ∧
  (∀ l < 32, padded.rowKinds true (32 * l) 32 = [(.consistent, [0, 1, 2, 3, 4, 5, 6, 7])]) ∧
  (let s := { padded with warps := [(1, { fetchWarp with wregs := [(0, 3104)] })] }
   Claim.rowOk (Claim.rowChk s 16 32 30) = true ∧ Claim.rowOk (Claim.rowChk s 16 32 31) = false) := ⟨⟨_, .value 0 0 0 4 16 0⟩, by decide⟩
theorem witness_DrainHomes : let e := Ace.cleared
    let ps := (List.range 24).map fun i => Place.mem (0x1000 + i)
    let s := flying (.rawMerge ps e)
    s.flight? 1 = some (flightOf (.rawMerge ps e)) ∧ s.canPerform (flightOf (.rawMerge ps e)) = true ∧ ps.length = 24 ∧ (ps.map Claim.bare).Nodup ∧ s.dev.cxl = [] := by decide
/-- A value add-on-store: clean, poisoned itself, and of a poisoned location. -/
theorem witness_ValueAdds : let k (p : Bool) : FlightKind := .valueAdd at4 0 0x3F800000 p
    (flying (k true)).flight? 1 = some (flightOf (k true)) ∧ (flying (k false)).canPerform (flightOf (k false)) = true ∧ Claim.Quiet (flying (k true)) at4 ∧
    at4.any (flying (k false)).placePoisoned = false ∧ at4.any ({ flying (k false) with poison := [0x80] } : State).placePoisoned = true :=
  ⟨by decide, by decide, quiet_at4 _ (by decide), by decide, by decide⟩
/-- Two rings of two slots of 512 bytes: ring 0 with its slots free, ring 1 with its slots filled. -/
def ringGroup : Workgroup := { padGroup with sp := [(3716, 32), (3718, 2), (3719, 0x80), (3720, 2), (3729, 4), (3732, 32), (3734, 2), (3735, 0x80), (3738, 2)] }
def ringed : State := { base with wgs := [(1, ringGroup)] }
def fullRings : Workgroup := { ringGroup with sp := [(3716, 32), (3718, 2), (3719, 0x80), (3722, 2), (3729, 4), (3732, 32), (3734, 2), (3735, 0x80), (3738, 2)] }
def tmmaDesc : List Word := [0x10, 0x80008, 128, 0, 0, 0, 0, 0]
theorem witness_TileProducts : ringed.acts = true ∧ ringGroup.tmmaLegal tmmaDesc = true ∧ ringGroup.tmmaLegal [] = false ∧ (ringGroup.ringCfg 0).en = true ∧
  (ringGroup.ringCfg 1).en = true ∧ (ringGroup.ringCfg 2).en = false ∧ (padGroup.ringCfg 0).en = false ∧
  (Claim.tagOp { ringed with wgs := [(1, { ringGroup with tags := [(0, { inFlight := true, desc := tmmaDesc })] })] } 1 0).inFlight = true ∧
  (fullRings.ringTake 0 true).isSome = true ∧ ringGroup.ringTake 0 true = none ∧ ((fullRings.ringTake 0 true).bind fun x => x.2.ringTake 1 true).isSome = true ∧
  ((ringGroup.ringTake 1 true).bind fun x => x.2.ringTake 0 true) = none ∧ (8 : Nat) % 8 = 0 := by decide +kernel
theorem witness_EdgesAndQuads : base.fits (List.range' 124 4) ∧ Claim.fullGroups base ≠ [] ∧ base.fits [124] ∧ base.eff ≠ 0 :=
  ⟨base_fits _ (by decide), by decide, base_fits _ (by decide), by decide⟩
/-- A linear surface of one texel in the code page. -/
def surfaced : State := withW fun w => { w with wregs := [(0, 0x1000), (2, 0x10001), (3, 1)] }
theorem witness_TexturesAndBlending : surfaced.eff ≠ 0 ∧ base.surface 8 = none ∧ base.dev.cxl = [] ∧ base.fits (List.range' 124 4) ∧
  (padded.checkPad false 4 true (Claim.pixelAt padded 0 0 0)).isOk = true ∧
  (let s := { padded with issue := { padded.issue with set := 1 } }
   Claim.workers s = [0] ∧ ((Claim.workers s).map (Claim.pixelAt s 0 0)).Nodup) ∧
  (let s := withW fun w => { w with wregs := [(0, 4092)] }
   let t : State := { s with wgs := [(1, padGroup)], issue := { base.issue with set := 3 } }
   Claim.workers t = [0, 1] ∧ Claim.pixelAt t 0 0 0 = Claim.pixelAt t 0 0 1) ∧
  (padded.checkPad false 4 true 4096).isOk = false :=
  ⟨by decide, by decide, rfl, base_fits _ (by decide), by decide, by decide, by decide, by decide⟩
theorem witness_PackedTiles : (List.replicate 64 0xFF00FF00 : List Nat).length = 64 ∧ ∀ p ∈ (List.replicate 64 0xFF00FF00 : List Nat), p < 2 ^ 32 := by decide
theorem witness_TilesAndMeshlets : padded.acts = true ∧ (padded.cur.wreg 0).toNat % 16 = 0 ∧ 0 + 256 ≤ (padded.wg padded.cur.wg).window ∧
  ¬ 3856 + 256 ≤ (padded.wg padded.cur.wg).window ∧ ¬ Claim.ofStage padded 1 ∧
  (let s := { padded with
      launches := [(1, { fetchLaunch with render := some { block := [0, 0, 1] } })], warps := [(1, { fetchWarp with gang := 2 ^ 24 })] }
   s.curLaunch.render.isSome = true ∧ gangStage s.cur.gang = 1 ∧ recordLegal (List.replicate 912 0) = true) := by
  refine ⟨by decide, by decide, by decide, by decide, ?_, by decide⟩
  rintro ⟨r, h, -⟩; cases h
/-- Barriers: a barrier of the workgroup, a number that no barrier has, an arrival before, and an access that a release waits for. -/
theorem witness_BarrierPhases : base.releaseWaits 5 = false ∧ base.releaseWaits (base.pointScope 2 0 1) = false ∧ (base.markOut.barName 2 0 1).toOption = some (.wg 1 1) ∧ (base.barName 3 0 0).toOption = none ∧
  Claim.arrivedIn base (.wg 1 1) 0 = false ∧
  Claim.arrivedIn (withW fun w => { w with lanes := [(0, { status := .run, arrived := [(.wg 1 1, 0)] })] }) (.wg 1 1) 0 = true ∧
  (∀ l < 32, base.inSet l = true → (base.cur.lane l).status = .run) ∧
  (flying (.store [[(.mem 0x1000, 1)]] [])).releaseWaits 2 = true ∧ (flying (.store [[(.mem 0x1000, 1)]] [])).releaseWaits 0 = false ∧
  Claim.awaited base (.wg 1 1) 0 = none ∧
  Claim.awaited (withW fun w => { w with lanes := [(0, { status := .run, arrived := [(.wg 1 1, 0)] })] }) (.wg 1 1) 0 = some 0 ∧
  (let s := { base with wgs := [(1, { fetchGroup with bars := [(1, { releasing := [0], phase := 1 })] })] }
   (s.bar (.wg 1 1)).releasing = [0] ∧ (base.bar (.wg 1 1)).releasing = []) ∧
  ∀ k < 128, (mapGet base.dev.barLink k 0).getLsbD 31 = false := by decide +kernel
/-- A lane that issues a BARSYNC again, of the phase that is open and of one that has completed; a message over a port that is up, to a tree that
it names and to none, and over one that is not. -/
def resyncing (p : Nat) : State := withW fun w => { w with lanes := [(0, { status := .run, arrived := [(.wg 1 1, p)], sync := some 0 })] }
def linkedTree : State := { base with dev := { base.dev with peers := [(3, { up := true, caps := 4 })], barLink := [(7, 0x80140008)] } }
theorem witness_Resync : Claim.resyncs (resyncing 0) 0 = true ∧ Claim.awaitedAt ((resyncing 0).bar (.wg 1 1)) (.wg 1 1) ((resyncing 0).cur.lane 0) = some 0 ∧
  Claim.awaitedAt { phase := 1 } (.wg 1 1) ((resyncing 0).cur.lane 0) = none ∧ Claim.resyncs base 0 = false := by decide
theorem witness_PeerMessages : (mapGet linkedTree.dev.peers 3 {}).up = true ∧ linkedTree.peerHas 3 2 = true ∧ (mapGet base.dev.peers 3 {}).up = false ∧
  (let named (k bar : Nat) : Bool := (mapGet linkedTree.dev.barLink k 0).getLsbD 31 && wbits (mapGet linkedTree.dev.barLink k 0) 18 7 == bar % 128 &&
     (mapGet linkedTree.dev.barLink k 0).getLsbD 3
   named 7 5 = true ∧ (∀ j < 7, named j 5 = false) ∧ ∀ k < 128, named k 6 = false) := by decide
/-- Ordered sections: a declared domain with an entry of its key, at N, behind it, ahead of it; held and free; a request that waits. -/
def ordTag : DomTag := .priv 1 5
def ordReq (op : Nat) (num : Word) (st : Nat) : FlightKind := .ordReq op ordTag 5 9 num st
def ordEntry : KeyEntry := { tag := ordTag, key := 9, n := 4 }
def ordState (k : FlightKind) (e : KeyEntry) : State := { flying k with
  keys := [e], launches := [(1, { fetchLaunch with domains := [(5, (4, 0, ordTag))] })] }
theorem witness_OrderedSections : (ordState (ordReq 0 4 0) ordEntry).domain? 5 = some ordTag ∧ base.domain? 5 = none ∧
  Claim.ruleHolds base 0 5 0 = true ∧ (Claim.sectionOf (withW fun w => { w with lanes := [(0, { status := .run, held := [⟨5, 0, 4⟩] })] }) 0 5 0).isSome = true ∧
  (let s := ordState (ordReq 0 4 0) ordEntry
   s.flight? 1 = some (flightOf (ordReq 0 4 0)) ∧ s.keyEntry? ordTag 9 = some ordEntry ∧ s.keyLost 9 = false ∧ ordEntry.overflow = none ∧ ordEntry.posted = none ∧
   s.reqWaits (flightOf (ordReq 0 4 0)) ordTag 9 = false ∧ ordEntry.poisoned = false ∧ ordEntry.holder = none) ∧
  Claim.behind ordEntry 3 = true ∧ Claim.behind ordEntry 4 = false ∧ Claim.behind ordEntry 0x80000003 = false ∧ Claim.behind ordEntry 0x80000004 = true ∧
  ((68 : Word) - ordEntry.n).toNat ≤ 64 ∧ 64 < ((69 : Word) - ordEntry.n).toNat := by decide
/-- A test is the one request of its instruction at the slice, and is answered. -/
theorem witness_TestsAtHome : (let k : FlightKind := ordReq 2 4 0
    let s := ordState k ordEntry
    s.flight? 1 = some (flightOf k) ∧ s.together (flightOf k) = [flightOf k] ∧ s.reqWaits (flightOf k) ordTag 9 = false ∧
    s.keyEntry? ordTag 9 = some ordEntry ∧ s.keyLost 9 = false) := by decide
/-- A request that waits for the number that the entry then has: nobody holds it, or a lane does. -/
theorem witness_Follows : let s := ordState (ordReq 0 4 1) ordEntry
  (∃ f ∈ s.flights, ∃ dom, f.kind = .ordReq 0 ordTag dom 9 ordEntry.n 1) ∧ ordEntry.holder = none ∧ ordEntry.poisoned = false ∧
  ({ ordEntry with holder := some (1, 0) } : KeyEntry).holder.isSome = true := ⟨⟨_, .head _, 5, rfl⟩, rfl, rfl, rfl⟩
/-- A leave that may be performed, of the lane that holds the section. -/
theorem witness_LeavesAtHome : let k : FlightKind := .ordLeave ordTag 9 4 false
    let s := ordState k { ordEntry with holder := some (1, 0), heldS := 4 }
    s.flight? 1 = some (flightOf k) ∧ s.canPerform (flightOf k) = true ∧ s.keyLost 9 = false ∧
    s.keyEntry? ordTag 9 = some { ordEntry with holder := some (1, 0), heldS := 4 } := by decide
theorem witness_SequenceAndQuiet : ordEntry.posted = none ∧ ((68 : Word) - ordEntry.n).toNat ≤ 64 ∧ ((0x40000003 : Word) - ordEntry.n).toNat < 2 ^ 30 ∧
  base.eff ≠ 0 ∧ base.domain? 3 = none ∧ (ordState (ordReq 0 4 0) ordEntry).domain? 5 = some ordTag ∧ base.curShape.cls ≠ 2 ∧
  (let s := ordState (ordReq 0 6 1) ordEntry
   s.waiting (s.keySlice 9) ordTag = true ∧ (s.dev.ordQuiet.extractLsb' 0 16).toNat = 64 ∧ s.nearestWaiters ordEntry ≠ []) := by decide
theorem witness_SequenceFits : (ordState (ordReq 0 4 0) ordEntry).fits [5] := base_fits [5] (by decide)
/-- Puts to the own workgroup: allowed, and one whose length is no multiple of 16; a fence with and without an access that it covers. -/
theorem witness_PutsAndFences : (let s := { padded with warps := [(1, { fetchWarp with wregs := [(2, 16)] })] }
    s.putAllowed (s.cur.wreg 3).toNat = true ∧ s.acts = true ∧ s.readWaits s.issue.set .consistent (padPlaces 1 0 16) = false) ∧ padded.putAllowed 1 = false ∧
  (let k : FlightKind := .put 1 [(0, 7)] [] 31 1
   let s := { flying k with wgs := [(1, padGroup)] }
   s.flight? 1 = some (flightOf k) ∧ s.canPerform (flightOf k) = true ∧ padGroup.window = 4096 ∧ padGroup.inRingBlock 0 = false ∧
   padGroup.spPoison.contains ((padGroup.window - 256 + 8 * 31) / 32) = false) ∧
  Claim.putCounter padGroup 31 < 1 ∧ ¬ Claim.putCounter padGroup 31 < 0 ∧ fetchGroup.window = 0 ∧
  padded.readWaits padded.issue.set .consistent (padPlaces 1 (4096 - 256 + 8 * 31) 8) = false := by decide
/-- A store behind a release, an acquire whose reads have returned, and FENCE.SC: the first and the last are held back; counts of stores. -/
theorem witness_Fences :
  let k : FlightKind := .store [[(.mem 0x1000, 1)]] []
  let f : Flight := { flightOf k with id := 2 }
  let s (a r all sc done : Bool) : State := { base with flights := [flightOf (.fence a r all sc done), f], nextId := 3 }
  (s false true false false false).canPerform f = false ∧ (s true false false false true).canPerform f = true ∧
  (s true true true true false).canPerform f = false ∧ (s false true false false false).earlier 2 = [flightOf (.fence false true false false false)] ∧
  f.memory = true ∧ f.isCopy = false ∧ f.atCore = false ∧ f.writes = true ∧
  (flightOf k).counted = false ∧ (∀ g ∈ base.flights, ¬ (g.warp = base.issue.warp ∧ g.counted = true)) := by decide
theorem witness_RingTransfers : ringed.acts = true ∧ (ringGroup.ringCfg 0).free = 2 ∧ (ringGroup.ringCfg 1).filled = 2 ∧ (ringGroup.ringCfg 0).filled = 0 ∧
  (ringGroup.ringCfg 0).nslot ≠ 0 ∧ ringed.releaseWaits 2 = false ∧ ringed.ringTurn 1 0 true ringed.turn = true ∧ (ringGroup.ringCfg 1).slotAt? 1024 = some 0 ∧ (ringGroup.ringCfg 1).slotAt? 1025 = none ∧
  (let g := { ringGroup with sp := ringGroup.sp ++ [(3741, 1)], rings := [(1, { slots := [(0, .consuming), (1, .filled)] })] }
   (g.ringOf 1).slot 0 = .consuming ∧ Claim.ringFrees g 1 0 true = [0]) ∧ ((ringGroup.ringCfg 0).en && ringGroup.ringValid 0) = true ∧
  ((ringGroup.ringCfg 2).en && ringGroup.ringValid 2) = false := by decide +kernel
/-- A lane that holds in QACQ of ring 1, whose configuration is disabled, and one that holds on nothing of the kind. -/
theorem witness_RingWaiters : let w : Wait := .retry 2 0x58000001 none []
  let s := { ringed with warps := [(1, { fetchWarp with lanes := [(0, { status := .hold, wait := w })] })] }
  (((s.warp 1).lane 0).acquiring? 1).isSome = true ∧ (((s.warp 1).lane 0).acquiring? 0).isSome = false ∧ (((s.warp 1).lane 1).acquiring? 1).isSome = false ∧
  (∃ e ∈ s.warps, e.1 = 1 ∧ e.2.wg = 1) := ⟨by decide, by decide, by decide, ⟨_, .head _, rfl, rfl⟩⟩
theorem witness_RingTake : Claim.Take (.qacq 0 0 4 1) true 4 1 ∧ Claim.Give (.qpcommit 0 0 4 0) false 4 0 := ⟨.cons 0 0 4 1, .prod 0 0 4 0⟩
/-- One element of four bytes at address 0x1000 to the scratchpad's first byte. -/
def copyWords : List Nat := [0x1000, 0, 0, 2, 0x10001, 0x10001, 1, 0, 0, 0, 0, 0, 0, 0, 0, 0]
def oneElement : CopyCmd := { store := false, wg := 1, ring := none, slot := none, sbase := 0, elems := [(at4, 0)], total := 4, acq := false, rel := false,
                              scope := 0, bar := none, strong := false }
theorem witness_CopyCommands : (CopyDesc.ofWords copyWords).isSome = true ∧ CopyDesc.ofWords [0, 0, 8] = none ∧
  ((CopyDesc.ofWords copyWords).any fun c => c.span == (0x1000, 0x1003) && base.curLaunch.grantsSpan .r c.span.1.toNat (Claim.CopyDesc.bytes c)) = true ∧
  ((CopyDesc.ofWords (0x1FFD :: copyWords.tail)).any fun c => base.curLaunch.grantsSpan .r c.span.1.toNat (Claim.CopyDesc.bytes c)) = false ∧
  (let c : CopyCmd := oneElement
   let s := { flying (.copy c) with wgs := [(1, padGroup)] }
   s.flight? 1 = some (flightOf (.copy c)) ∧ s.canPerform (flightOf (.copy c)) = true ∧ s.programWaits (flightOf (.copy c)) c = false ∧
   c.start? = some 0 ∧ ((padPlaces 1 0 4).map Claim.bare).Nodup ∧ base.copyFull = false ∧ c.rel = false ∧ ({ c with rel := true } : CopyCmd).rel = true ∧
   ∀ p ∈ at4, s.placePoisoned p = false) := by decide
/-- A command without a slot, at a ring whose slots are free and at one whose slots are filled; and behind an earlier request. -/
theorem witness_CopySlots : let c : CopyCmd := { oneElement with ring := some 0 }
  let s := { flying (.copy c) with wgs := [(1, ringGroup)] }
  s.flight? 1 = some (flightOf (.copy c)) ∧ ringGroup.resident = true ∧ (ringGroup.ringCfg 0).en = true ∧ s.ringTurn 1 0 false 1 = true ∧
  s.ringTurn 1 0 false 2 = false ∧ (ringGroup.ringCfg 0).free ≠ 0 ∧ (fullRings.ringCfg 0).free = 0 := by decide +kernel
/-- The second half of a granule that is marked poisoned (R459): its first half was written by the same command. -/
def marked : State := { base with wgs := [(1, { padGroup with spPoison := [0, 1] })] }
theorem witness_MarkedGranule : marked.placePoisoned (.sp 1 31) = true ∧ Claim.lands marked (.sp 1 31) = true ∧
  ∀ q ∈ Claim.granuleOf (.sp 1 31), q ∈ padPlaces 1 16 16 ++ padPlaces 1 0 16 := by decide
theorem test_copy_clears_mark :
    let r := marked.wholeByParts (padPlaces 1 0 16) (padPlaces 1 16 16) (List.replicate 16 (7, false))
    (r.1.wg 1).spPoison = [1] ∧ r.2 = [] := by decide +kernel
theorem test_copy_part_keeps_mark :
    let r := marked.wholeByParts [] (padPlaces 1 16 16) (List.replicate 16 (7, false))
    (r.1.wg 1).spPoison = [0, 1] ∧ r.2 = padPlaces 1 16 16 := by decide +kernel
/-- A running program that holds a slot, one that waits, and one without either. -/
def flintWith (p : FlintSlot) : State := { ringed with cores := [(0, { flint := [(0, p)] })], issue := { flint := some (0, 0) } }
theorem witness_AddressPrograms : base.releaseWaits 5 = false ∧ base.acts = true ∧ (base.flintSlot base.cur.core 0).status = .stopped ∧
  (base.cur.wpair 0).toNat % 4 = 0 ∧ Claim.Move (.xfetch 0 1 1 0) false 1 1 0 ∧ Claim.Signal (.xsigFree 0 1) true 1 ∧
  (let s := flintWith { owner := 1, status := .running, x := [(1, 0x1000)], prod := [(0, ⟨0, 480, 0, 512, false⟩)] }
   Claim.heldSlot s.prog false 0 = some ⟨0, 480, 0, 512, false⟩ ∧ Claim.heldSlot s.prog true 1 = none ∧ (s.prog.xr 1).toNat % 32 = 0 ∧
   (s.launch (s.wg s.prog.owner).launch).grants .r (s.prog.xr 1).toNat 32 = true ∧ (s.launch (s.wg s.prog.owner).launch).grants .w (s.prog.xr 1).toNat 32 = false) ∧
  (let s := flintWith { owner := 1, status := .waiting, waitsOn := some (.slot 0 false 1) }
   (s.flintSlot 0 0).status = .waiting ∧ ((s.wg 1).ringCfg 0).en = true ∧ ((s.wg 1).ringCfg 0).free ≠ 0 ∧ s.ringTurn 1 0 false 1 = true ∧
   (s.trackerRoom 0 2048).1 = true ∧ s.outstanding 0 + 2048 ≤ 2048 ∧ ¬ s.outstanding 0 + 2049 ≤ 2048 ∧ s.moving (0, 0) 0 false = false ∧ s.wgDrains 1 = false) :=
  ⟨by decide, by decide, by decide, by decide, .fetch 0 1 1 0, .free 0 1, by decide +kernel, by decide +kernel⟩
/-- A word of a program that a lease grants, and one that none does; and a workgroup that is being drained. -/
theorem witness_ProgramFetch : fetchLaunch.grants .r 0x1000 4 = true ∧ fetchLaunch.grants .r 0x2000 4 = false ∧ base.inSaveSpan 0 0x1000 4 = false ∧
  base.dev.cxl = [] ∧ base.wgDrains 1 = false ∧
  (let s := { base with launches := [(1, { fetchLaunch with gangs := [(2 ^ 24, { started := true, resident := true, draining := true, wgs := [1] })] })] }
   s.wgDrains 1 = true) ∧ Claim.transferParts base 0 0x1000 3 = [(.consistent, [0, 1, 2])] := by decide
/-- System registers: one that level 0 reads and writes, one that it only reads, one that it may not reach. -/
theorem witness_SystemInstructions : base.level = 0 ∧ sysAccess 0x000 0 = some true ∧ sysAccess 0x020 0 = some false ∧ sysAccess 0x030 0 = none ∧
  sysAccess 0x3FFF 1 = none ∧ base.acts = true ∧ Claim.ModeSet base.cur.mode (.modesetOr 0 1) (base.cur.mode ||| 1) :=
  ⟨by decide, by decide, by decide, by decide, by decide, by decide, .or 0 1⟩
/-- A warp whose lanes below `k` wait for `m` rows and the others for `n`, each group with a request of its own. -/
def growing (k m n budget : Nat) (w : Warp) : Warp := { w with
  budget := budget
  lanes := (List.range 32).map fun l => (l, { status := .hold, wait := if l < k then .grow 8 m 0x63C00000 else .grow 9 n 0x63C00000 }) }
/-- Rows: within reach, beyond 128, and taken by an older warp's request. -/
theorem witness_RowBudgets : base.acts = true ∧ 128 < base.cur.budget + 1 ∧
  (let s := { (withW fun w => { w with budget := 1 }) with wgs := [(1, { fetchGroup with part := 16 })] }
   128 < s.cur.budget + 128 ∧ ¬ 128 < s.cur.budget + 127 ∧ s.growWaits 0 0 none = false ∧ s.cur.grows = [] ∧ 127 ≤ s.freeRows 0 0 ∧ base.evictee? 0 = none) ∧
  (let s := { (withW (growing 32 7 0 1)) with wgs := [(1, { fetchGroup with part := 16 })] }
   s.cur.grow? = some (8, 7) ∧ s.growWaits 0 0 none = true ∧ ¬ 128 < s.cur.budget + 7 ∧ ¬ 8 * s.rowGranules 0 < s.cur.budget + 7 ∧ s.growReady 1 = true) := by decide +kernel
/-- Two lane groups of a warp that wait: the first is granted its rows, and the second, which would pass 128, traps at its turn. -/
def growTwice : State := { (withW (growing 4 7 125 1)) with wgs := [(1, { fetchGroup with part := 16 })] }
theorem test_grow : after (exec (.reggrowWaitGrant 1) growTwice) (fun t => (t.cur.budget, (t.cur.lane 0).pc, (t.cur.lane 4).status)) = some (8, 1, .hold) := by
  decide +kernel
theorem test_grow_past : after (exec (.reggrowWaitGrant 1) { (withW (growing 0 7 125 8)) with wgs := [(1, { fetchGroup with part := 16 })] })
    (fun t => (t.cur.budget, (t.cur.lane 4).trap.map TrapRec.kind, (t.cur.lane 4).pc)) = some (8, some 4, 0) := by decide +kernel
/-- A core with two blocked warps on one scheduler, of which the older waits for rows: the younger is the one to evict, and returns. -/
def crowded : State :=
  { base with
    wgs := [(1, { fetchGroup with part := 16 })]
    warps := [(1, growing 32 100 0 1 fetchWarp), (2, { growing 32 8 0 120 fetchWarp with slot := 4, age := 1 })] }
theorem witness_Evictions : crowded.evictee? 0 = some 2 ∧ crowded.warpBusy 2 (fun _ => false) = false ∧ (crowded.warp 2).bad = [] ∧
  ({ growing 32 8 0 120 fetchWarp with bad := [400] } : Warp).bad ≠ [] ∧
  (let s := { crowded with warps := [(1, { fetchWarp with budget := 1 }), (2, { fetchWarp with budget := 1, evicted := true, age := 1 })] }
   (s.returnSlot? 2).isSome = true ∧ s.returnSlot? 1 = none) := by decide +kernel
theorem witness_TrapsAndFrames : base.cur.handlerMode = false ∧
  (let s := withW fun w => { w with lanes := [(0, { status := .run, trap := some { kind := 18 } })], tba := 0x1005 }
   (∃ l < 32, Claim.trapLane (s.warp 1) l = true) ∧ (s.warp 1).ended = false ∧
   (s.warp 1).halted = false ∧ (s.warp 1).resident = true ∧ (s.warp 1).evicted = false ∧ s.latencyPending 1 = false ∧ (s.warp 1).tba.getLsbD 0 = true ∧
   fetchLaunch.desc.code.toNat ≤ (s.warp 1).tba.toNat / 4 * 4 ∧ ((s.warp 1).tba.toNat / 4 * 4 - fetchLaunch.desc.code.toNat) / 4 < fetchLaunch.desc.limit.toNat ∧
   (mapGet? s.launches (s.warp 1).launch).isSome = true) ∧
  (let s := withW fun w => { w with handlerMode := true, lanes := [(0, { status := .run, handler := true, trapPc := 3 })] }
   s.cur.handlerMode = true ∧ s.acts = true ∧ s.frameBusy 1 = false ∧ (Claim.returned s 1 0).pc = 4 ∧ (Claim.returned s 1 0).handler = false) := by
  refine ⟨by decide, ⟨⟨0, by decide⟩, by decide⟩, by decide⟩
theorem witness_FrameFits : (withW fun w => { w with handlerMode := true }).fits [5] := .inr (.inl (by decide))
theorem witness_RegionsAndDebug : base.curLaunch.debug = false ∧
  (let s := { base with launches := [(1, { fetchLaunch with debug := true })] }
   s.curLaunch.debug = true ∧ s.latencyPending s.issue.warp = false) ∧
  (let s := { base with launches := [(1, { fetchLaunch with debug := true })], warps := [(1, { fetchWarp with halted := true, haltSet := 1 })] }
   (s.warp 1).halted = true ∧ (s.warp 1).ended = false ∧ (s.warp 1).resident = true ∧ (s.launch (s.warp 1).launch).debug = true ∧
   (s.getGroups 1 0xF false).rows ≤ (s.warp 1).budget) := by decide +kernel
theorem witness_LaunchesAndEnds : (base.wg base.cur.wg).events.getLsbD 63 = false ∧
  ({ base with wgs := [(1, { fetchGroup with events := 0x8000000000000000 })] }.wg base.cur.wg).events.getLsbD 63 = true ∧ base.releaseWaits 5 = false ∧
  base.curLaunch.desc.graph = 0 ∧ (mapGet? base.warps 1).isSome = true ∧ (base.warp 1).resident = true ∧
  (let s := withW fun w => { w with lanes := [] }
   (∀ l < 32, ((s.warp 1).lane l).status = .done) ∧ (∀ f ∈ s.flights, f.warp ≠ 1) ∧ KeysRise s.warps ∧ ∀ e ∈ s.flintOf 1, e.2.live = false) := by
  refine ⟨by decide, by decide, by decide, by decide, by decide, by decide, by decide, by decide, by simp [KeysRise, withW], by decide⟩
/-- A launch with a graph pool of two nodes in its memory, and its descriptor. -/
def graphed : State :=
  { base with
    launches := [(1, { fetchLaunch with desc := { fetchLaunch.desc with graph := 0x1000, leases := [(0x1000, 0x0070000000001000)] } })]
    mem := [(0x1000, 0x00), (0x1001, 0x14), (0x1008, 1)] }
theorem witness_LaunchNode : (graphed.checkGlobal .r 640 false 0 0x1080).isOk = true ∧ graphed.curLaunch.grantsSpan .r 0x1080 640 = true ∧
  (0x1080 : DWord).toNat % 128 = 0 ∧ graphed.curLaunch.desc.graph ≠ 0 ∧
  (let k : FlightKind := .launchCopy 0 0 [] true
   (flying k).flight? 1 = some (flightOf k)) := by decide +kernel
/-- The queues' registers: running, stopped, a tail within the ring and beyond it. -/
def runningQueue : QRegs := { baseLo := 0x20000, tail := 1, ctl := 0x80010004, going := true }
theorem witness_HostRegisterWrites : runningQueue.enabled = true ∧ ({} : QRegs).enabled = false ∧ runningQueue.size = 16 ∧
  ((15 : Word) &&& 0xFFFF).toNat < runningQueue.size ∧ runningQueue.size ≤ ((16 : Word) &&& 0xFFFF).toNat ∧ (∀ e ∈ base.keys, e.overflow = none) ∧
  (∃ e ∈ [{ ordEntry with overflow := some 3 }], e.overflow.isSome = true) ∧ base.dev.atCtl.getLsbD 0 = false ∧
  (2 ^ 32 + 0x1000 * 191 + 0x030) % 4 = 0 ∧ ({ base with dev := { base.dev with fwstat := 3 } } : State).dev.fwstat.extractLsb' 0 4 = 3 ∧ State.reset.dev.fwstat.extractLsb' 0 4 = 0 := by decide
/-- A device with a context, a queue with one entry in it, page tables that map the lowest GiB, and a descriptor. -/
def queued (op : Byte) (arg : Byte) : State :=
  { State.reset with
    dev := { State.reset.dev with queues := [(0, runningQueue)], contextBase := 0x10000, atCtl := 1 }
    mem := [(0x0, 0x01), (0x2, 0x03), (0x10002, 0x80), (0x10004, 1), (0x1000A, 0x10), (0x20002, 4), (0x20008, op), (0x20009, 63), (0x2000C, arg),
      (0x30000, 1), (0x30001, 0x10), (0x30002, 3), (0x31000, 1), (0x31001, 0x20), (0x31002, 3), (0x32000, 0x0F), (0x40000, 1), (0x40004, 1), (0x40008, 0x10),
      (0x4000D, 0x40), (0x40021, 0x10), (0x40028, 1), (0x4018A, 0x10), (0x4018E, 0x30)] }
theorem witness_HostQueues : Claim.QueueOp (.run 0) 0 0 ∧ base.queueHead? 0 = none ∧
  ([0, 1, 2, 4] : List Byte).all (fun op => (((queued op 0).queueHead? 0).any fun e => (queued op 0).entryLegal 0 e && e.op == op.toNat)) = true ∧
  (((queued 3 0).queueHead? 0).any fun e => (queued 3 0).entryLegal 0 e) = false ∧ (((queued 5 0).queueHead? 0).any fun e => (queued 5 0).entryLegal 0 e) = false ∧
  (let s := { queued 3 7 with shared := [(7, ⟨0, 0, false⟩)] }
   ((s.queueHead? 0).any fun e => s.entryLegal 0 e) = true) ∧ ((queued 0 0).ctx? 0).isSome = true :=
  ⟨.run 0, by decide, by decide +kernel, by decide +kernel, by decide +kernel, by decide +kernel, by decide +kernel⟩
/-- An ABORT that names a launch one of whose CPACK stores is on its way. -/
theorem witness_Torn : let k : FlightKind := .store [at4.map fun p => (p, 1)] []
  let f := { flightOf k with word := 0x4B400000, image := at4 }
  let s := { flying k with flights := [f] }
  f.tileStore = true ∧ (s.warp f.warp).launch = 1 ∧ s.named 0 0 = [1] ∧ Claim.Quiet s f.image :=
  ⟨by decide, by decide, by decide, quiet_at4 _ (by decide)⟩
/-- A walk depends only on the page of its address. -/
theorem bits_page (x n k : Nat) : bits x (12 + k) n = bits (x / 4096) k n := by
  simp only [bits, Nat.div_div_eq_div_mul, Nat.pow_add]
theorem walkTable_page (s : State) {a b : Nat} (h : a / 4096 = b / 4096) : ∀ level table, s.walkTable a level table = s.walkTable b level table := by
  intro level
  induction level with
  | zero => intro table; unfold State.walkTable; simp only [bits_page, leafOf, h]
  | succ n ih => intro table; unfold State.walkTable; simp only [bits_page, leafOf, h, ih]
theorem walk_page (s : State) (asid : Nat) {a b : Nat} (h : a / 4096 = b / 4096) : s.walk asid a = s.walk asid b := by
  have h5 : ∀ x, bitAt x 55 = bitAt (x / 4096) 43 := by
    intro x; unfold bitAt; rw [Nat.div_div_eq_div_mul, show 4096 * 2 ^ 43 = 2 ^ 55 by decide]
  have p : s.rootPlace asid a = s.rootPlace asid b := by simp only [State.rootPlace, h5, h]
  have v : viaOf asid a = viaOf asid b := by simp only [viaOf, h5, h]
  simp only [State.walk, State.walkFresh, State.tlbHit?, State.rootEntry, p, v, h, walkTable_page s h]
/-- RUN with a descriptor that can be read and is valid. -/
def runBytes : List Byte := (List.range 640).map fun i => (queued 0 0).physRead (0x40000 + i)
theorem run_bytes : (queued 0 0).walkBytes 0 0x40000 640 = .ok runBytes := by
  have one : ∀ i ∈ List.range 640, (queued 0 0).walkByte 0 (0x40000 + i) = .ok ((queued 0 0).physRead (0x40000 + i)) := by
    intro i hi
    have hi := List.mem_range.mp hi
    have hw : (queued 0 0).walk 0 (0x40000 + i) = .ok ⟨0x40, true, true, .consistent⟩ := by
      rw [walk_page _ _ (show (0x40000 + i) / 4096 = 0x40000 / 4096 by omega)]
      have h : (match (queued 0 0).walk 0 0x40000 with
        | .ok l => decide (l = ⟨0x40, true, true, .consistent⟩)
        | .error _ => false) = true := by decide +kernel
      split at h
      · rename_i l hl; rw [hl, of_decide_eq_true h]
      · cases h
    have hp : (queued 0 0).paPoisoned (0x40000 + i) = false := by
      have h : ((List.range 640).all fun k => !(queued 0 0).paPoisoned (0x40000 + k)) = true := by decide +kernel
      simpa using List.all_eq_true.mp h i (List.mem_range.mpr hi)
    have ha : 4096 * 0x40 + (0x40000 + i) % 4096 = 0x40000 + i := by omega
    simp only [State.walkByte, hw, ha, hp]; rfl
  have all : ∀ (xs : List Nat) (f : Nat → Except WalkFail Byte) (g : Nat → Byte), (∀ i ∈ xs, f i = .ok (g i)) → xs.mapM f = .ok (xs.map g) := by
    intro xs f g h
    induction xs with
    | nil => rfl
    | cons x xs ih => rw [List.mapM_cons, h x (by simp), ih fun i hi => h i (by simp [hi])]; rfl
  exact all _ _ _ one
theorem witness_Run : (queued 0 0).walkBytes 0 0x40000 640 = .ok runBytes ∧
    (((queued 0 0).ctx? 0).any fun c => ({ c.launch 0 1 0x40000 (Desc.ofBytes runBytes) with queue := some 0 } : Launch).valid c none) = true :=
  ⟨run_bytes, by decide +kernel⟩
/-- The invalidation queue: an INVAL of a page that is pinned, a SYNC, a RETRY whose launch waits, and a command in performance. -/
def invalQueue (op : Byte) : State :=
  { base with
    dev := { base.dev with iq := { runningQueue with ctl := 0x80000004 }, requests := [⟨1, 0x1000, 0xFD⟩] }
    mem := [(0x20001, 0x10), (0x20009, if op = 0 then 0x10 else 0), (0x20012, op)] }
theorem witness_InvalidationQueue : Claim.IqOp .inval 0 ∧ base.iqHead? = none ∧
  (((invalQueue 0).iqHead?).any fun c => c.legal (invalQueue 0) && c.op == 0 && (invalQueue 0).pinnedIn c.asid c.range.1 c.range.2) = true ∧
  (((invalQueue 1).iqHead?).any fun c => c.legal (invalQueue 1) && ((invalQueue 1).waitingLaunch? c.base c.asid).isSome) = true ∧
  (((invalQueue 2).iqHead?).any fun c => c.legal (invalQueue 2)) = true ∧ (((invalQueue 4).iqHead?).any fun c => c.legal (invalQueue 4)) = false ∧
  (let s := { base with dev := { base.dev with iqBusy := some [0, 0, 0, 0, 0x00030000, 0, 0, 0, 0] } }
   s.iqWaits = false ∧ s.iqBusy?.isSome = true) ∧
  (let c (level : Nat) : IqCmd := ⟨0x1000, 0x1000, 0, 0, level, 0, 0⟩
   base.rangeBusy (c 2) = false ∧ (flying (.store [[(.mem 0x1000 (viaOf 0 0x1000), 1)]] [])).rangeBusy (c 2) = true ∧ (c 3).ctl % 4 ∈ [0, 3] ∧
   (c 1).ctl % 4 ∈ [0, 1] ∧ (c 2).ack = 0) ∧ KeysRise base.hist :=
  ⟨.inval, by decide, by decide +kernel, by decide +kernel, by decide +kernel, by decide +kernel, by decide +kernel, by decide +kernel, .nil⟩
/-- A launch whose one gang waits for its place, with a save area of one block, on a device that translates. -/
def waitingLaunch : Launch := { fetchLaunch with
  desc := { fetchLaunch.desc with part := 1, ctl1 := 8 }, gangs := [], grids := [(1, { started := true })], save := 0x1000 }
/-- A save area of one block at 0x1000, and page tables that map the lowest GiB. -/
def mappedSave : List Host.Cell := [(0x0, 0x01), (0x2, 0x03), (0x1004, 1), (0x30000, 1), (0x30001, 0x10), (0x30002, 3), (0x31000, 1), (0x31001, 0x20),
  (0x31002, 3), (0x32000, 0x0F)]
def awaiting (x : Launch) : State :=
  { base with warps := [], wgs := [], launches := [(1, x)], dev := { base.dev with atCtl := 1 }, mem := mappedSave }
/-- The walk of a launch; a placement that can be made, one for which a core must be freed, and one that never can; a slice; a fence that
holds; a mirror; the end of a launch and its completion. -/
theorem witness_Dispatch :
  (let s := awaiting { waitingLaunch with phase := .walking }
   (s.launch 1).phase = .walking ∧ (mapGet? s.launches 1).isSome = true ∧ s.considered 1 = true) ∧
  (let s := awaiting waitingLaunch
   s.nextUnit 1 = [2 ^ 24] ∧ s.unfit 1 = false ∧ (s.placed? 1).isSome = true ∧
   ∀ e ∈ s.launches, ¬ (e.1 ≠ 1 ∧ s.placesBefore e.1 1 = true ∧ (s.placed? e.1).isSome = true)) ∧
  (let s := awaiting { waitingLaunch with desc := { waitingLaunch.desc with part := 511, ctl1 := 255 } }
   s.unfit 1 = true) ∧
  base.nextUnit 1 = [] ∧
  (mapGet? (base.launch 1).gangs (2 ^ 24)).isSome = true ∧ (base.launch 1).prio < 23 ∧
  (let s := awaiting { waitingLaunch with desc := { waitingLaunch.desc with fencectl := 1, fences := [(0x1000, 0)] } }
   s.newFences 1 = [0] ∧ (s.launch 1).desc.fencesOf 0 0 = [(0, 0x1000, 0)] ∧ (∀ p ∈ s.placesAt 0 0x1000 8, s.placePoisoned p = false) ∧
   (0 : DWord).toNat ≤ ofBytes ((s.placesAt 0 0x1000 8).map s.placeByte)) ∧
  (let s := awaiting { waitingLaunch with desc := { waitingLaunch.desc with ctl0 := 0x400 } }
   s.mirrorStage? 1 = some 1 ∧ base.mirrorStage? 1 = none) ∧
  (let s := { base with launches := [(1, { fetchLaunch with phase := .ending, causes := [6] })] }
   s.endDue 1 = true) ∧
  (let s := awaiting { fetchLaunch with phase := .ending, causes := [6], gangs := [] }
   s.endDue 1 = false ∧ s.canComplete 1 = true) ∧
  (let s := awaiting { fetchLaunch with gangs := [], grids := [(1, { started := true, next := 1, completed := 1 })] }
   s.canComplete 1 = true) := by decide +kernel
/-- A device of one core, full of the gang of one launch, with a launch of higher priority that waits. -/
def full : State :=
  let busy : Launch := { fetchLaunch with desc := { fetchLaunch.desc with part := 384, ctl0 := 0x10000000 } }
  { base with
    wgs := [(1, { fetchGroup with part := 384 })]
    launches := [(1, busy), (2, { waitingLaunch with desc := { waitingLaunch.desc with part := 0x201, ctl0 := 0x10100000 }, order := 1, cid := 1 })]
    cores := (List.range 95).map fun c => (c + 1, { retired := true })
    dev := { base.dev with atCtl := 1 }, mem := mappedSave }
/-- Room is made by the gang of the lower priority; a warp that has not stopped, one that has, and one that does not drain; a unit whose
one warp has stopped, and one that does not drain. -/
theorem witness_Preemption : full.toSave 2 = [(1, 2 ^ 24)] ∧ full.toSave 1 = [] ∧
  (let s := withW fun w => { w with drain := .approach }
   (s.warp 1).drain = .approach ∧ s.warpStops 1 = false) ∧
  (let s := withW fun w => { w with drain := .approach, lanes := [] }
   s.warpStops 1 = true) ∧ (base.warp 1).drain ≠ .approach ∧ base.unitDrained 1 (2 ^ 24) = false ∧
  (let s := { (withW fun w => { w with drain := .full }) with
      launches := [(1, { fetchLaunch with gangs := [(2 ^ 24, { started := true, resident := true, draining := true, wgs := [1] })] })] }
   s.unitDrained 1 (2 ^ 24) = true ∧ s.treesCalm 1 = true ∧ (mapGet? s.launches 1).isSome = true ∧ 2 ^ 24 ∈ (s.launch 1).unit (2 ^ 24)) := by
  decide +kernel
/-- A render pass whose stage 1 has run, with a record to classify and a batch to hand out. -/
def rendering (gs : AMap Grid) (r : Render) : State := { base with launches := [(1, { fetchLaunch with grids := gs, render := some r })] }
def oneBatch : Batch := { target := 0, bin := 0, stateSet := 0, first := true, last := true, prims := [] }
theorem witness_RenderPassStages :
  ((rendering [] {}).launch 1).stageReady 1 = true ∧ ((rendering [] {}).launch 1).stageReady 2 = false ∧
  ((rendering [(1, { started := true, next := 1, completed := 1 })] {}).launch 1).stageOver 1 = true ∧
  ((rendering [(1, { started := true, next := 1, completed := 1 })] { records := [(0, (true, []))] }).launch 1).stageOver 1 = false ∧
  ((rendering [] { records := [(0, (true, []))] }).launch 1).nextRecord? = some 0 ∧ ((rendering [] {}).launch 1).nextRecord? = none ∧
  (let waits (l : Nat) : Lane := { status := .hold, wait := if l < 4 then .batch 1 0 2 1 else .none, helper := true }
   let s := rendering [(1, { started := true, next := 1, completed := 1, done := true })] { block := [0, 0, 1] }
   let t := { s with warps := [(1, { fetchWarp with lanes := (List.range 32).map fun l => (l, waits l) })] }
   (t.handout? 1).isSome = true ∧ s.handout? 1 = none ∧ (t.warp 1).batchWait? = some (1, 0, 2, 1) ∧
   let u := { t with launches := [(1, { fetchLaunch with render := some { block := [0, 0, 1], batches := [oneBatch] } })] }
   (u.handout? 1).isSome = true) := by decide +kernel
/-- Units that the device has and has not; a threshold reached and not; an access of a flit; the places of a storage error. -/
theorem witness_ErrorsAndRetirement : unitLegal 0 = true ∧ unitLegal 11 = false ∧ unitLegal 0x300000100 = true ∧ unitLegal 0x300000000 = false ∧
  unitLegal 0x400000000 = true ∧ unitLegal 0x600000000 = false ∧ (Claim.thresholds base 0).1 = 256 ∧
  (Claim.thresholds base 0).1 ≠ (base.unit 0).corrected + 1 ∧ (base.standIn? 0).isSome = true ∧ (base.unit 0x300000100).retired = false ∧
  (base.dev.el.enabled && base.dev.el.room) = false := by decide +kernel
def nearly : State := { base with dev := { base.dev with units := [(0x400000000, { corrected := 63 })] } }
theorem witness_Retirement : (Claim.thresholds nearly 0x400000000).1 = (nearly.unit 0x400000000).corrected + 1 ∧ Claim.retires nearly 0x400000000 = true := by decide +kernel
theorem witness_Spoilt : (let k : FlightKind := .load at4 4 false 5 false
    (flying k).flight? 1 = some (flightOf k) ∧ (flying k).canPerform (flightOf k) = true) ∧
  (let k : FlightKind := .store [[(.mem 0x1000, 1)]] []
   (flying k).flight? 1 = some (flightOf k)) ∧
  (let s := { base with wgs := [(1, padGroup)], keys := [ordEntry] }
   511 < 64 * (s.wg 1).tiles ∧ ¬ 512 < 64 * (s.wg 1).tiles ∧ s.keys[0]? = some ordEntry ∧ (mapGet? s.warps 1).isSome = true) := by decide
theorem witness_TimeoutsAndLinks :
  (let k : FlightKind := .load at4 4 false 5 false
   (flying k).flight? 1 = some (flightOf k) ∧ (flightOf k).leaves = true ∧ (flightOf k).timed = true ∧ (flying k).canPerform (flightOf k) = true ∧
   base.flight? 1 = none) ∧
  (let k : FlightKind := .store [[(.sp 1 0, 1)]] []
   (flightOf k).leaves = false) ∧ (base.cxlPort 3).isolated = false ∧
  (let s := { base with dev := { base.dev with cxl := [(0, { trained := true, ctl := 0x40 })], peers := [(0, { up := true, caps := 8 })] } }
   (s.cxlPort 0).trained = true ∧ (s.cxlPort 0).isolated = true ∧ (base.cxlPort 0).trained = false ∧ (mapGet s.dev.peers 0 {}).up = true ∧
   (mapGet base.dev.peers 0 {}).up = false) := by decide +kernel
/-- A line of an expander and one of HBM; a warp that is there and one that is not; a list of capabilities that names ID 3, and one without; a store
that is alone at its home and one that stands behind what its release covers. -/
theorem witness_Links : (let s := { base with dev := { base.dev with cxl := [(0, { ctl := 1, stat := 3, base := 0x8000000000000, size := 0x1000 })] } }
   s.route (64 * (0x8000000000000 / 64)) = .cxl 0 ∧ s.route 0x1000 = .hbm ∧ s.route 0x8000000000040 = .cxl 0) ∧
  (mapGet? base.warps (2 ^ 11 / 2 ^ 11)).isSome = true ∧ (mapGet? base.warps (2 ^ 12 / 2 ^ 11)).isSome = false ∧ 2 ^ 40 ≤ 2 ^ 40 + 2 ^ 11 ∧
  Claim.common 0 3 = false := by decide
/-- The failing die with a warp on it, and one without; launches that are confined to it, that are not, and one that both dies carry. -/
theorem witness_DieFailure : 0 ∉ base.dev.diesFailed ∧ (mapGet? base.warps 1).isSome = true ∧ (base.warp 1).core / 96 = 0 ∧ (base.warp 1).resident = true ∧
  (base.warp 1).ended = false ∧ ((base.warp 1).lane 0).status ≠ .done ∧ fetchLaunch.phase = .admitted ∧ fetchLaunch.desc.dies = 0 ∧
  ({ fetchLaunch.desc with ctl0 := 0x10000000 } : Desc).dies = 1 ∧
  (let s := { base with launches := [(1, { fetchLaunch with grace := true })] }
   (s.launch 1).grace = true ∧ (s.launch 1).phase = .admitted) := by decide
theorem witness_DieFailureOrder : KeysRise base.warps ∧ ((flying (.load at4 4 false 5 false)).flights.map (·.id)).Nodup :=
  ⟨by simp [KeysRise, base], by decide⟩
/-- An image that is refused at once; the boot states; a nonce; a peer with a link, one without, and the bytes that a system agent writes. -/
theorem witness_BootAndAgents : State.reset.bootState = 0 ∧ imageFails? 1 [] = some 1 ∧
  (let s := { State.reset with dev := { State.reset.dev with fwstat := 1 } }
   s.bootState = 1) ∧
  (let s := { State.reset with dev := { State.reset.dev with fwstat := 2 } }
   s.bootState = 2) ∧ (List.replicate 32 (0 : Byte)).length = 32 ∧
  (let s := { base with dev := { base.dev with peers := [(0, { up := true, caps := 8 })] } }
   (mapGet s.dev.peers 0 {}).up = true ∧ s.peerHas 0 3 = true ∧ s.route 0x1000 = .hbm) ∧ (mapGet base.dev.peers 0 {}).up = false := by decide +kernel
/-- An image of no payload with its own digest: it is accepted where the signature and the number are (both are values that the model leaves free). -/
def bareHead : List Byte := [0x53, 0x46, 0x49, 0x4D, 1, 0, 0, 0, 0, 0, 0, 0, 0, 0, 0, 0]
def bareImage : List Byte := bareHead ++ sha384 [] ++ List.replicate 96 0
theorem witness_Image (h : Config.verifies (sha384 (bareImage.take 64)) (List.replicate 96 0) = true) (n : Config.fusedSvn 1 = 0) :
    imageFails? 1 bareImage = none := by
  have z : bareHead.length = 16 := rfl
  have y : (sha384 []).length = 48 := by simp [sha384]
  have a : bareImage.length = 160 := by simp [bareImage, z, y]
  have b : bareImage.drop 160 = [] := by simp [a]
  have c : (bareImage.drop 16).take 48 = sha384 [] := by
    rw [bareImage, List.append_assoc, List.drop_append_of_le_length (by omega), List.drop_of_length_le (by omega), List.nil_append,
      List.take_append_of_le_length (by omega), List.take_of_length_le (by omega)]
  have d : (bareImage.drop 64).take 96 = List.replicate 96 0 := by
    rw [bareImage, List.drop_append_of_le_length (by simp [z, y]), List.drop_of_length_le (by simp [z, y]), List.nil_append,
      List.take_of_length_le (by simp)]
  have e : ∀ k, k + 4 ≤ 16 → imageWord bareImage k = imageWord bareHead k := by
    intro k hk
    simp only [imageWord, bareImage, List.append_assoc]
    rw [List.drop_append_of_le_length (by omega), List.take_append_of_le_length (by simp [z]; omega)]
  have w : imageWord bareHead 0 = 0x4D494653 ∧ imageWord bareHead 4 = 1 ∧ imageWord bareHead 12 = 0 := by decide
  simp only [imageFails?, e 12 (by omega), e 8 (by omega), e 4 (by omega), e 0 (by omega), a, b, c, d, h, n, w]
  simp

/-! ## Steps -/

/-- The instruction LANEIDX v2, 1, 4 placed where the next step fetches. -/
noncomputable def placed : State := State.reset.withFetchWord 32 0x12810104
/-- The step that runs it. -/
theorem test_step_runs : after (step placed) (fun t => ((t.warp 1).vreg 2, ((t.warp 1).lane 31).pc, (t.warp 1).issued)) = some (.a 0 4, 1, 1) := by
  decide +kernel
theorem answers_of {o : Res} (h : (match o with | .next _ => true | _ => false) = true) : ∃ t, o = .next t := by
  cases o <;> simp_all
theorem placed_answers : ∃ t, step placed = .next t := answers_of (by decide +kernel)
theorem witness_StepAnswers : IssueInv State.reset ∧
  IssueInv { base with issue := { warp := 1, set := allLanes, word := 0x0000C100, pfx := some 0x70000806, open_ := true } } :=
  ⟨.inl rfl, .inr ⟨_, _, rfl, rfl, rfl, rfl, by decide⟩⟩
theorem placed_mem : Memory.wf placed.mem = true ∧ placed.wgs.all (fun e => Memory.wf e.2.sp && Memory.wf e.2.scale) = true := by decide +kernel
theorem witness_StepKeepsMemory : placed.memoryWf ∧ ∃ t, step placed = .next t :=
  ⟨⟨placed_mem.1, by simpa using placed_mem.2⟩, placed_answers⟩
theorem placed_fields : placed.issue = {} ∧ placed.flights = [] ∧ placed.warps.length = 1 ∧ placed.wgs.length = 1 ∧ placed.launches.length = 1 ∧
  placed.shared = [] ∧ placed.warps.all (fun e => e.2.vregs.isEmpty) = true := by decide +kernel
theorem rises_one {α : Type} {m : AMap α} (h : m.length ≤ 1) : KeysRise m := by
  match m, h with
  | [], _ => exact .nil
  | [_], _ => simp [KeysRise]
theorem witness_StepKeepsIssue : IssueInv placed ∧ ∃ t, step placed = .next t := ⟨.inl placed_fields.1, placed_answers⟩
theorem witness_StepKeepsTidy : placed.Tidy ∧ ∃ t, step placed = .next t := by
  obtain ⟨-, f, a, b, c, d, v⟩ := placed_fields
  refine ⟨⟨rises_one (by omega), rises_one (by omega), rises_one (by omega), by rw [d]; exact .nil, ?_, by simp [f], by simp [f]⟩, placed_answers⟩
  intro e he
  have := List.all_eq_true.mp v e he
  rw [List.isEmpty_iff.mp this]; exact .nil
/-- An event that arrives, one that is not from outside, and one after a trip; a device with nothing to do; one with one event to make. -/
theorem witness_StepTakesEvents : ({ base with inputs := [(0, .thermalTrip)] }.due? = some .thermalTrip) ∧ base.takes .thermalTrip = true ∧
  base.takes (.trapEntry 1) = false ∧ State.reset.takes (.accessTimeout 1) = false ∧ State.reset.takes (.gneissImageLoad []) = true ∧
  { base with dev := { base.dev with adapter := some 0 } }.takes (.queueDoorbell 0 0) = false ∧ { base with dev := { base.dev with tripped := true } }.takes (.queueDoorbell 0 0) = false ∧
  State.reset.due? = none ∧ State.reset.wait.moves.length = 0 ∧ State.reset.firmwareRuns = false ∧
  (let s := { State.reset with dev := { State.reset.dev with fwstat := 3, iqBusy := some [0, 0, 0, 0, 0x00030000, 0, 0, 0, 0] } }
   match s.wait.moves with
    | [.event .invalCompletion] => true
    | _ => false) = true := by decide +kernel
/-- The move of `placed` is the issue of its scheduler, and what is picked is its word. -/
theorem witness_StepRunsInstructions : placed.issue.open_ = false ∧ placed.due? = none ∧
  (match placed.wait.moves with
    | [.issue 0 0] => true
    | _ => false) = true ∧
  (match pickWarp (placed.wait.candidates 0 0) with
    | some c => match pickGroup (placed.wait.warp c.warp) c.groups with
      | some g => c.warp == 1 && g.pc == 0 && g.set == allLanes && match g.met with
        | .alone _ i => i == .laneidx 0 2 1 4
        | _ => false
      | none => false
    | none => false) = true ∧ placed.codeWord? (placed.launch 1) 0 = some 0x12810104 ∧ WellFormed.alone (.laneidx 0 2 1 4) = true ∧
  (placed.warp 1).spoilt ((Instr.laneidx 0 2 1 4).names none) = false ∧ placed.fetchArmed? 1 = none ∧
  (({ placed with armed := [{ warp := 1, unit := none, fetch := true, sector := 0 }] } : State).fetchArmed? 1).isSome = true := by decide +kernel
/-- A pair in consecutive words: the prefix is met with the word after it. -/
theorem witness_StepRunsPair : let s := { base with warps := [(1, fetchWarp)], issue := {}, mem := memWriteN [] 0x1000 (toBytes 8 0x0000C10070000806) }
  s.codeWord? fetchLaunch 0 = some 0x70000806 ∧ s.codeWord? fetchLaunch 1 = some 0x0000C100 ∧ isPrefix 0x70000806 = true ∧ 0 + 1 < fetchLaunch.desc.limit.toNat ∧
  (match pickWarp (s.candidates 0 0) with
    | some c => match pickGroup (s.warp c.warp) c.groups with
      | some g => match g.met with
        | .paired p b i => p == 0x70000806 && b == 0x0000C100 && i == .iadd 0 0 3 2 0
        | _ => false
      | none => false
    | none => false) = true := by decide +kernel
/-- The base word that a prefix waits for; one whose source is poisoned. -/
theorem witness_StepRunsBase : let s := { base with issue := { warp := 1, set := allLanes, word := 0x0000C100, pfx := some 0x70000806, open_ := true } }
  s.issue.open_ = true ∧ decode s.issue.word = .ok (.iadd 0 0 3 2 0) ∧ s.cur.spoilt ((Instr.iadd 0 0 3 2 0).names s.issue.pfx) = false ∧
  (let t := { s with warps := [(1, { fetchWarp with bad := [400] })] }
   t.cur.spoilt ((Instr.iadd 0 0 3 2 0).names s.issue.pfx) = true) := ⟨rfl, rfl, by decide +kernel, by decide +kernel⟩
/-- The highest priority, a warp passed over 256 times and one 255 times, and the oldest. -/
theorem witness_PickOfWarps :
  (pickWarp [⟨1, 0, 0, 256, []⟩, ⟨2, 1, 9, 255, []⟩, ⟨3, 1, 4, 0, []⟩]).map Candidate.warp = some 3 ∧
  (pickWarp [⟨1, 0, 0, 256, []⟩, ⟨2, 1, 9, 256, []⟩, ⟨3, 1, 4, 0, []⟩]).map Candidate.warp = some 2 ∧ pickWarp [] = none ∧
  ([⟨1, 0, 0, 256, []⟩, ⟨2, 1, 9, 255, []⟩].map Candidate.warp).Nodup := by refine ⟨by decide, by decide, rfl, by decide⟩
/-- The group with most lanes; the lowest program counter among equals; a group with a lane passed over 64 times, and one 63 times. -/
theorem witness_PickOfGroups : let g (pc : Nat) (m : Mask) : Ready := ⟨pc, m, .illegal 0 none⟩
  let late (n : Nat) : Warp := { fetchWarp with lanes := [(0, { status := .run, passed := n })] }
  (pickGroup fetchWarp [g 1 1, g 2 6]).map Ready.pc = some 2 ∧ (pickGroup fetchWarp [g 5 1, g 2 2]).map Ready.pc = some 2 ∧
  (pickGroup (late 64) [g 9 1, g 2 6]).map Ready.pc = some 9 ∧ (pickGroup (late 63) [g 9 1, g 2 6]).map Ready.pc = some 2 := by decide
theorem witness_ResultTags : base.eff = allLanes ∧ base.fits [127] ∧ (∃ i, Claim.PlainSrc base i 1 [.v, .v]) ∧ (∃ i xs, Claim.IntSrc base i 1 xs ∧ ∀ x ∈ xs, x.isG = false) ∧
  (withW fun w => { w with masks := [(0, 5)] }).cur.mask 0 ≠ allLanes ∧ (withW fun w => { w with masks := [(0, 5)] }).cur.mask 0 ≠ 0 ∧ Claim.affine (.a 5 4) = some (5, 4) ∧
  Claim.affine (Claim.regB base 3) = some (0, 0) ∧ Claim.isUniform (.u 3) ∧ ¬ Claim.isUniform (.a 5 4) ∧ (31 : Word).toNat < 32 ∧ ¬ (32 : Word).toNat < 32 :=
  ⟨by decide, base_fits _ (by decide), ⟨_, .rot 0 0 1 2 3⟩, ⟨_, _, .imad 0 0 1 2 3, by decide⟩, by decide, by decide, rfl, by decide, trivial, id, by decide, by decide⟩
/-- Two lanes of the issue set in E: a row is left, and none is. -/
theorem witness_RegisterOverflows : (∃ i, Claim.Dests base i [1]) ∧ (∃ i, Claim.Dests base i [2, 3]) ∧
  (let s := { base with issue := { base.issue with set := 3 } }
   s.eff ≠ 0 ∧ s.eff ≠ allLanes) ∧ base.fits [1] ∧
  (let s := { (withW fun w => { w with budget := 0 }) with issue := { base.issue with set := 3 } }
   s.eff ≠ 0 ∧ s.eff ≠ allLanes ∧ s.cur.budget < s.cur.rows + ([1].filter fun r => !(s.cur.vreg r).isG).length ∧ s.cur.vregs = []) :=
  ⟨⟨_, .num _ _ _ _ _ (.fadd 0 0 1 2 3)⟩, ⟨_, .pair _ _ _ (.iadd64 0 0 2 4 6)⟩, by decide, base_fits _ (by decide), by decide⟩
/-- Moves besides events: a store that may reach its core, and an L1 that holds an older value. -/
theorem witness_StageAndRefresh :
  (let k : FlightKind := .store [[(.mem 0x1000, 1)]] []
   let s := flying k
   (s.stage? (flightOf k)).isSome = true ∧ s.stageMoves.length = 1) ∧
  (let s := { base with wgs := [(1, { fetchGroup with stale := [(0x1000, 1)] })] }
   s.moves.any (fun m => match m with
    | .refresh 1 => true
    | _ => false) = true) := by decide +kernel
/-- An illegal word, and a prefix at the last word of the segment. -/
theorem witness_StepTraps :
  (let s := { base with issue := {}, mem := memWriteN [] 0x1000 (toBytes 4 0x78000000) }
   match s.meet fetchLaunch 0 with
    | .illegal 0x78000000 none => true
    | _ => false) = true ∧
  (let s := { base with issue := {}, mem := memWriteN [] 0x1000 (toBytes 4 0x70000806) }
   match s.meet { fetchLaunch with desc := { fetchLaunch.desc with limit := 1 } } 0 with
    | .fetchFault .. => true
    | _ => false) = true := by decide +kernel
/-- A tile operation whose K-step is under way, with the window as it stands, and IV raised. -/
def underway : TileOp :=
  { inFlight := true, desc := tmmaDesc, iv := true, panels := some ⟨0, 0, 0, 1024, false, false, fullRings.sp, []⟩ }
/-- A K-step takes its slots; the ring of one that is under way is disabled, and the operation goes on to the end of its K-step. -/
theorem test_kstep_begins :
  let s := { ringed with wgs := [(1, { fullRings with tags := [(0, { inFlight := true, desc := tmmaDesc })] })] }
  let p := (Claim.tagOp (s.tmmaStep 1 0) 1 0).panels
  (p.map Panels.addrA, p.map Panels.addrB) = (some 0, some 1024) ∧ (Claim.tagOp (s.tmmaStep 1 0) 1 0).next = 0 := by decide +kernel
theorem test_kstep_cut :
  let s := { ringed with wgs := [(1, { fullRings with sp := memWriteN fullRings.sp 3719 [0], tags := [(0, underway)] })] }
  let o := Claim.tagOp (s.reconfigure 1 0) 1 0
  (o.inFlight, o.stopped, o.panels.map Panels.voidA, o.panels.map Panels.voidB) = (true, some 0, some true, some false) := by decide +kernel
/-- A tag that waits for tiles of another, one that is reported to a waiting TMMA; a K-step that goes. -/
theorem witness_TileWaits :
  (let other : TileOp := { inFlight := true, desc := tmmaDesc }
   { ringed with wgs := [(1, { ringGroup with tags := [(1, other)] })] }.tilesBusy other.tiles = true) ∧
  ringed.tilesBusy ({ inFlight := true, desc := tmmaDesc } : TileOp).tiles = false ∧
  (let s := { ringed with wgs := [(1, { fullRings with tags := [(0, { inFlight := true, desc := tmmaDesc })] })] }
   (Claim.tagOp s 1 0).inFlight = true ∧ (s.wg 1).resident = true ∧ (Claim.tagOp s 1 0).panels = none ∧ s.ringQueue 1 0 true = [] ∧
   (mapGet (s.launch (s.wg 1).launch).gangs (s.wg 1).gang {}).draining = false ∧ s.ringQueue 1 1 true = []) ∧
  (let s := { ringed with wgs := [(1, { fullRings with tags := [(0, underway)] })] }
   (Claim.tagOp s 1 0).panels.isSome = true ∧ Claim.TileOp.fld underway 1 0 16 % 8 = 0 ∧ Claim.TileOp.fld underway 1 16 16 % 8 = 0 ∧
   (Claim.tileCut underway 0 false).inFlight = true ∧ (Claim.tileCut { underway with panels := none } 0 false).inFlight = false ∧
   Claim.tileCut underway 2 false = underway) ∧
  (let s := { ringed with wgs := [(1, { ringGroup with tags := [(0, { stopped := some 2 })] })], issue := { ringed.issue with held := some 7 } }
   (Claim.tagOp s 1 0).inFlight = false ∧ (Claim.tagOp s 1 0).stopped = some 2 ∧ s.issue.held.isSome = true) ∧
  (let op : TileOp := { inFlight := true, desc := tmmaDesc, serial := 4, unreported := some (3, 2) }
   let s (n : Word) := { ringed with wgs := [(1, { ringGroup with tags := [(0, op)] })], issue := { ringed.issue with held := some 7, kept := [(512, n)] } }
   Claim.waitedFor (s 4) op.serial = true ∧ Claim.waitedFor (s 3) op.serial = false ∧ op.unreported.any (fun e => Claim.waitedFor (s 3) e.1) = true ∧
   op.unreported.any (fun e => Claim.waitedFor (s 4) e.1) = false ∧ (s 3).issue.held.isSome = true) := by decide +kernel
/-- A gather whose corners can be read, with and without a store on its way to one of them; a pixel that waits. -/
theorem witness_Gather :
  (surfaced.surface 0).any (fun d => match surfaced.corners 0 d (decodeRaw F32 0) (decodeRaw F32 0) with
    | .ok v => v.2.reads.all (fun g => !surfaced.readWaits 1 g.1 g.2) && !surfaced.tileRaces v.2.places &&
        { surfaced with flights := [flightOf (.store [[(.mem 0x1000 (viaOf 0 0x1000), 1)]] [])] }.readWaits 1 .consistent v.2.places
    | .error _ => false) = true ∧
  (let s := { padded with issue := { padded.issue with set := 1 } }
   s.updateWaits s.eff (padPlaces 1 0 4) = false ∧
   { s with flights := [flightOf (.store [[(.sp 1 0, 1)]] [])] }.updateWaits s.eff (padPlaces 1 0 4) = true) := by decide +kernel
/-- A tiled surface whose tile and mode byte may be written. -/
def tiled : State := { padded with
  warps := [(1, { fetchWarp with wregs := [(8, 0x1000), (10, 0x80008), (11, 0x20001), (12, 0x1400)] })]
  launches := [(1, { fetchLaunch with desc := { fetchLaunch.desc with leases := [(0x1000, 0x0070000000001000)] } })] }
theorem witness_Tiles : tiled.acts = true ∧ (tiled.surface 8).any (fun d => d.layout == 2 && d.tileAt? (tiled.cur.wreg 0).toNat == some 0 &&
    (tiled.checkGlobal .w 256 false 0 (BitVec.ofNat 64 d.base)).isOk && (tiled.checkGlobal .r 256 false 0 (BitVec.ofNat 64 d.base)).isOk &&
    (tiled.checkGlobal .w 1 false 0 (BitVec.ofNat 64 d.metaAt)).isOk && (tiled.checkGlobal .r 1 false 0 (BitVec.ofNat 64 d.metaAt)).isOk) = true ∧
  tiled.readWaits tiled.issue.set .consistent (padPlaces 1 0 256) = false ∧ (tiled.wg tiled.cur.wg).window = 4096 := by decide +kernel
/-- Numbers of a domain whose home is lost with its die, and of one whose home is not. -/
theorem witness_LostNumbers : let s := { ordState (ordReq 0 4 0) ordEntry with dev := { base.dev with diesFailed := [0] } }
  (List.range 32).any (fun d => s.keyLost (BitVec.ofNat 64 d)) = true ∧ (List.range 32).any (fun d => !s.keyLost (BitVec.ofNat 64 d)) = true := by
  decide +kernel
/-- A request alone at its slice whose condition holds; a leave that waits for the lane's earlier abandonment. -/
theorem witness_QuietServes : let s := ordState (ordReq 0 4 1) ordEntry
  s.flights = [flightOf (ordReq 0 4 1)] ∧ s.keyLost 9 = false ∧ s.keyEntry? ordTag 9 = some ordEntry ∧ ordEntry.holder = none ∧ ordEntry.n = 4 := by decide
theorem witness_AbandonWaits : let f (n : Nat) : Flight := { flightOf (.ordLeave ordTag 9 4 true) with id := n }
  let s := { base with flights := [f 1, f 2], nextId := 3 }
  s.abandonWaits (f 2) = true ∧ s.abandonWaits (f 1) = false := by decide
/-- Launches to be walked, of which the second goes before, to ask for a page that its tables do not map; one whose context is not enabled;
launches in their rank. -/
def walks : State :=
  let x : Launch := { waitingLaunch with phase := .walking }
  let s := queued 0 0
  { s with
    launches := [(1, x), (2, { x with order := 1, desc := { x.desc with ctl0 := 0x100000, ctl1 := 0x4008, leases := [(0x40000000, 0x0010000000001000)] } })]
    dev := { s.dev with rq := { baseLo := 0x50000, ctl := 0x80000004 } } }
theorem witness_Walks : walks.walkDue 1 = true ∧ walks.walkDue 2 = true ∧ walks.effPrio 1 < walks.effPrio 2 ∧
  (walks.ctx? (walks.launch 1).cid).isSome = true ∧ walks.walkOutranked 1 = true ∧ walks.walkOutranked 2 = false ∧
  (match walks.walkRanges 2 (walks.launch 2).desc.walks with
    | .failed .. => true
    | _ => false) = true ∧ walks.dev.rq.enabled = true ∧ walks.dev.rq.room = true ∧
  (awaiting { waitingLaunch with phase := .walking }).ctx? 0 = none ∧ full.ranksBefore 2 1 = true ∧ full.ranksBefore 1 2 = false := by decide +kernel
/-- A child of a launch, as its copied descriptor makes it. -/
def child : Launch := {
  desc := Desc.ofBytes runBytes, addr := 0x50300, cid := 0, asid := 0, order := 1, parent := some (1, 1), node := some (0x50000, 0, 0) }
theorem witness_Child : (((queued 0 0).ctx? 0).any fun c =>
    child.valid c (some { fetchLaunch with desc := { child.desc with graph := 0x50000 } })) = true := by decide +kernel
/-- A warp that is not evicted while its load is on its way; a resume whose record needs more rows than the budget. -/
theorem witness_EvictionWaits : { crowded with flights := [{ flightOf (.load at4 4 false 5 false) with warp := 2 }] }.warpBusy 2 (fun _ => false) = true := by
  decide +kernel
/-- A resume whose record needs a row more than the budget has. -/
def halted : State :=
  let s := withW fun w => { w with halted := true, haltSet := 1, budget := 0 }
  { s with
    launches := [(1, { fetchLaunch with debug := true })], mem := [(0x2160, 3)]
    pins := [{ owner := 1, asid := 0, vpage := 2, ppage := 2, read := true, write := true, order := .consistent }] }
theorem witness_ResumeRefused : (halted.warp 1).halted = true ∧ (halted.warp 1).resident = true ∧ halted.frameVa 1 = 0x2000 ∧
  (halted.warp 1).budget < (halted.getGroups 1 0xF false).rows := by decide +kernel
end Sys2Proof.Tests
end

/-! PROOF. The 32-bit integer results (R98, R107, R109 to R113, R120, R129): sources as the statements read them, each operation of the
model as the operation on words that its rule names, and the instructions assembled from these. -/

namespace Sys2Proof.Machine

/-! ## Sources lane by lane (R26, R97, R99) -/

@[simp] theorem State.lane_src (s : State) (r : BitVec 7) (l : Nat) : (s.src r).lane l = Claim.vA s r l :=
  VReg.lane_norm _ l
@[simp] theorem State.lane_srcB (s : State) (r : BitVec 7) (l : Nat) : (s.srcB r).lane l = Claim.vB s r l := by
  unfold State.srcB Claim.vB Claim.wsB
  cases s.prefix? with
  | none => exact s.lane_src r l
  | some p =>
    cases hws : p.ws with
    | false => simp [hws]
    | true => simp [hws, VReg.lane]
@[simp] theorem State.lane_srcC (s : State) (d : BitVec 7) (l : Nat) : (s.srcC d).lane l = Claim.vC s d l := by
  unfold State.srcC Claim.vC
  cases s.prefix? with
  | none => exact s.lane_src d l
  | some p => exact VReg.lane_norm _ l

/-! ## Results of one and of three sources -/

/-- One source, with no row of its own in R102. -/
theorem State.vop1_result (s : State) (d a : BitVec 7) (g : Word → Word) (v : Nat → Word)
    (hv : ∀ l, g (Claim.vA s a l) = v l) (hr : s.fits [d.toNat]) :
    ∃ t, s.vop1 d a g = .next t ∧ VecResult s t [d.toNat] (fun _ => v) noFlags s.gens s.cur.wc := by
  refine s.vop_result d _ _ _ v (fun l _ => by rw [State.lane_src, hv]) nofun ?_ hr
  intro _ hU l
  simp only [List.all_cons, List.all_nil, Bool.and_true] at hU
  rw [VReg.lane_of_isU hU l 0]

/-- Two sources, whose row of R102 is `tag`. -/
theorem State.vop2_tag_result (s : State) (d a b : BitVec 7) (tag : VReg → VReg → Option (Option VReg)) (g : Word → Word → Word)
    (v : Nat → Word) (hv : ∀ l, g (Claim.vA s a l) (Claim.vB s b l) = v l)
    (ht : ∀ {x y q}, tag x y = some (some q) → ∀ l, q.lane l = g (x.lane l) (y.lane l)) (hr : s.fits [d.toNat]) :
    ∃ t, s.vop2 d a b tag g = .next t ∧ VecResult s t [d.toNat] (fun _ => v) noFlags s.gens s.cur.wc :=
  s.vop2_result d a b tag g v (fun l _ => by rw [State.lane_src, State.lane_srcB, hv]) (fun _ _ _ h l _ => ht h l) hr

/-- Two sources, with no row of their own in R102. -/
theorem State.vop2_noTag_result (s : State) (d a b : BitVec 7) (g : Word → Word → Word) (v : Nat → Word)
    (hv : ∀ l, g (Claim.vA s a l) (Claim.vB s b l) = v l) (hr : s.fits [d.toNat]) :
    ∃ t, s.vop2 d a b noTag g = .next t ∧ VecResult s t [d.toNat] (fun _ => v) noFlags s.gens s.cur.wc :=
  s.vop2_tag_result d a b noTag g v hv (fun h => (noTag_lane _ _ _ h).elim) hr

/-- Three sources (R99), whose row of R102 gives `special`. -/
theorem State.vop3_result (s : State) (d a b : BitVec 7) (special : Option (Option VReg)) (g : Word → Word → Word → Word)
    (v : Nat → Word) (hv : ∀ l, g (Claim.vA s a l) (Claim.vB s b l) (Claim.vC s d l) = v l)
    (hs : ∀ q, special = some (some q) → ∀ l, q.lane l = g (Claim.vA s a l) (Claim.vB s b l) (Claim.vC s d l))
    (hr : s.fits [d.toNat]) :
    ∃ t, s.vop d [s.src a, s.srcB b, s.srcC d] special
        (fun l => g ((s.src a).lane l) ((s.srcB b).lane l) ((s.srcC d).lane l)) = .next t ∧
      VecResult s t [d.toNat] (fun _ => v) noFlags s.gens s.cur.wc := by
  refine s.vop_result d _ _ _ v (fun l _ => by rw [State.lane_src, State.lane_srcB, State.lane_srcC, hv]) ?_ ?_ hr
  · intro q h l _
    rw [hs q h, State.lane_src, State.lane_srcB, State.lane_srcC]
  · intro _ hU l
    simp only [List.all_cons, List.all_nil, Bool.and_true, Bool.and_eq_true] at hU
    obtain ⟨ha, hb, hc⟩ := hU
    rw [VReg.lane_of_isU ha l 0, VReg.lane_of_isU hb l 0, VReg.lane_of_isU hc l 0]

/-! ## The operations on words -/

/-- The high half of a product of 64-bit factors. -/
theorem mulHi_eq_ofInt (x y : Int) : mulHi x y = ((BitVec.ofInt 64 x * BitVec.ofInt 64 y) >>> 32).setWidth 32 := by
  rw [← BitVec.ofInt_mul]
  apply BitVec.eq_of_toNat_eq
  simp only [mulHi, BitVec.toNat_setWidth, BitVec.toNat_ushiftRight, BitVec.toNat_ofInt, Nat.shiftRight_eq_div_pow]
  generalize x * y = z
  omega
theorem mulHi_toInt (x y : Word) : mulHi x.toInt y.toInt = ((x.signExtend 64 * y.signExtend 64) >>> 32).setWidth 32 :=
  mulHi_eq_ofInt _ _
theorem mulHi_toNat (x y : Word) : mulHi x.toNat y.toNat = ((x.setWidth 64 * y.setWidth 64) >>> 32).setWidth 32 := by
  rw [mulHi_eq_ofInt, BitVec.ofInt_natCast, BitVec.ofInt_natCast, BitVec.ofNat_toNat, BitVec.ofNat_toNat]

theorem minS_eq_slt (x y : Word) : minS x y = if y.slt x then y else x := by
  unfold minS
  rw [BitVec.sle_eq_not_slt]
  cases y.slt x <;> rfl
theorem minN_eq_ult (x y : Word) : minN x y = if y.ult x then y else x := by
  unfold minN
  rw [BitVec.ule_eq_not_ult]
  cases y.ult x <;> rfl
theorem maxS_eq_slt (x y : Word) : maxS x y = if x.slt y then y else x := by
  by_cases h : x = y
  · subst h; simp [maxS]
  · have hne : x.toInt ≠ y.toInt := fun e => h (BitVec.eq_of_toInt_eq e)
    simp only [maxS, BitVec.sle_iff_toInt_le, BitVec.slt_iff_toInt_lt, hne.le_iff_lt]
theorem maxN_eq_ult (x y : Word) : maxN x y = if x.ult y then y else x := by
  by_cases h : x = y
  · subst h; simp [maxN]
  · have hne : x.toNat ≠ y.toNat := fun e => h (BitVec.eq_of_toNat_eq e)
    simp only [maxN, BitVec.ule_iff_toNat_le, BitVec.ult_iff_toNat_lt, hne.le_iff_lt]

/-- R109: amounts of 32 or more leave nothing of the source. -/
theorem shlW_eq_shiftLeft (x k : Word) : shlW x k = x <<< k := by
  unfold shlW
  rw [BitVec.shiftLeft_eq']
  split
  · rfl
  · next h => exact (BitVec.shiftLeft_eq_zero (Nat.le_of_not_lt h)).symm
theorem shrW_eq_ushiftRight (x k : Word) : shrW x k = x >>> k := by
  unfold shrW
  rw [BitVec.ushiftRight_eq']
  split
  · rfl
  · next h => exact (BitVec.ushiftRight_eq_zero (Nat.le_of_not_lt h)).symm
/-- R109: from 31 on an arithmetic shift gives the sign in every bit. -/
theorem sarW_eq_sshiftRight (x k : Word) : sarW x k = x.sshiftRight k.toNat := by
  unfold sarW
  rcases Nat.le_total k.toNat 31 with h | h
  · rw [Nat.min_eq_left h]
  · rw [Nat.min_eq_right h]
    ext i hi
    rw [BitVec.getElem_sshiftRight, BitVec.getElem_sshiftRight]
    have sign : ∀ n, 31 ≤ n → (if h : n + i < 32 then x[n + i] else x.msb) = x.msb := by
      intro n hn
      split
      · next hlt =>
        rw [BitVec.msb_eq_getLsbD_last, BitVec.getLsbD_eq_getElem (by omega)]
        congr 1; omega
      · rfl
    rw [sign 31 le_rfl, sign _ h]
theorem rotW_eq_rotateLeft (x k : Word) : rotW x k = x.rotateLeft k.toNat :=
  BitVec.rotateLeft_mod_eq_rotateLeft

/-- R111. -/
theorem popc_toNat (x : Word) : popc x.toNat = Claim.bitCount x 32 := by
  refine List.countP_congr fun i _ => ?_
  rw [BitVec.getLsbD, Nat.testBit_eq_decide_div_mod_eq, bitAt, beq_iff_eq, decide_eq_true_iff]

/-- R120: the sign bit of the one word over the other bits of the other. -/
theorem fcpsgn_masks (x y : Word) : (x &&& 0x7FFFFFFF) ||| (y &&& 0x80000000) = y.extractLsb' 31 1 ++ x.extractLsb' 0 31 := by
  have low : ∀ i < 32, (0x7FFFFFFF : Word).getLsbD i = decide (i < 31) := by decide
  have high : ∀ i < 32, (0x80000000 : Word).getLsbD i = decide (i = 31) := by decide
  refine BitVec.eq_of_getLsbD_eq fun i hi => ?_
  rw [BitVec.getLsbD_or, BitVec.getLsbD_and, BitVec.getLsbD_and, low i hi, high i hi, BitVec.getLsbD_append]
  by_cases h : i < 31
  · simp [h, show i ≠ 31 by omega]
  · obtain rfl : i = 31 := by omega
    simp

/-! ## Instructions with a form of their own -/

/-- R102, R112: SEL takes the tag of the source that `m0` selects in every lane. -/
theorem execSel_result (s : State) (d a b : BitVec 7) (hr : s.fits [d.toNat]) :
    ∃ t, execSel d a b s = .next t ∧
      VecResult s t [d.toNat] (fun _ l => if (s.cur.mask 0).getLsbD l then Claim.vA s a l else Claim.vB s b l)
        noFlags s.gens s.cur.wc := by
  refine s.vop_result d _ _ _ _ (fun l _ => by rw [State.lane_src, State.lane_srcB]) ?_ nofun hr
  intro q h l hl
  have all : ∀ l < 32, (allLanes : Mask).getLsbD l = true := by decide
  have h := Option.some.inj h
  split at h
  · next hm => obtain rfl := Option.some.inj h; rw [hm, if_pos (all l hl)]
  · split at h
    · next hm => obtain rfl := Option.some.inj h; simp [hm]
    · cases h

/-- R102, R107: MOV keeps the tag of its source. -/
theorem execMov_result (s : State) (d a : BitVec 7) (hr : s.fits [d.toNat]) :
    ∃ t, execMov d a s = .next t ∧ VecResult s t [d.toNat] (fun _ => Claim.vA s a) noFlags s.gens s.cur.wc := by
  refine s.vop_result d _ _ _ _ (fun l _ => s.lane_src a l) ?_ nofun hr
  intro q h l _
  obtain rfl := Option.some.inj (Option.some.inj h)
  rfl

/-- R129, R384: WTOV where a lane of E is no helper. -/
theorem execWtov_result (s : State) (d : BitVec 7) (a : BitVec 8) (acts : s.acts = true) (hr : s.fits [d.toNat]) :
    ∃ t, execWtov d a s = .next t ∧ VecResult s t [d.toNat] (fun _ _ => s.cur.wreg a.toNat) noFlags s.gens s.cur.wc := by
  unfold execWtov
  rw [if_pos acts]
  exact s.vop_result d _ _ _ _ (fun _ _ => rfl) nofun (fun _ _ _ => rfl) hr

/-! ## The statement -/

/-- Settles O5: each instruction is an operation lane by lane on its sources, whose compact result reads as its lanes' values. -/
theorem integerResults : Obligations.IntegerResults := by
  intro s i d v h hr
  cases h with unfold exec
  | iadd c h d a b => exact s.vop2_tag_result d a b tagAdd _ _ (fun _ => rfl) tagAdd_lane hr
  | isub c h d a b => exact s.vop2_tag_result d a b tagSub _ _ (fun _ => rfl) tagSub_lane hr
  | imul c h d a b => exact s.vop2_tag_result d a b tagMul _ _ (fun _ => rfl) tagMul_lane hr
  | imulhiS c h d a b => exact s.vop2_noTag_result d a b _ _ (fun _ => mulHi_toInt _ _) hr
  | imulhiN c h d a b => exact s.vop2_noTag_result d a b _ _ (fun _ => mulHi_toNat _ _) hr
  | imad c h d a b =>
    refine s.vop3_result d a b _ (fun x y z => x * y + z) _ (fun _ => rfl) (fun q h l => ?_) hr
    rw [tagMad_lane h l, State.lane_src, State.lane_srcB, State.lane_srcC]
  | iminS c h d a b => exact s.vop2_noTag_result d a b _ _ (fun _ => minS_eq_slt _ _) hr
  | iminN c h d a b => exact s.vop2_noTag_result d a b _ _ (fun _ => minN_eq_ult _ _) hr
  | imaxS c h d a b => exact s.vop2_noTag_result d a b _ _ (fun _ => maxS_eq_slt _ _) hr
  | imaxN c h d a b => exact s.vop2_noTag_result d a b _ _ (fun _ => maxN_eq_ult _ _) hr
  | vand c h d a b => exact s.vop2_noTag_result d a b _ _ (fun _ => rfl) hr
  | vor c h d a b => exact s.vop2_noTag_result d a b _ _ (fun _ => rfl) hr
  | vxor c h d a b => exact s.vop2_noTag_result d a b _ _ (fun _ => rfl) hr
  | andn c h d a b => exact s.vop2_noTag_result d a b _ _ (fun _ => rfl) hr
  | shl c h d a b => exact s.vop2_tag_result d a b tagShl _ _ (fun _ => shlW_eq_shiftLeft _ _) tagShl_lane hr
  | shr c h d a b => exact s.vop2_noTag_result d a b _ _ (fun _ => shrW_eq_ushiftRight _ _) hr
  | sar c h d a b => exact s.vop2_noTag_result d a b _ _ (fun _ => sarW_eq_sshiftRight _ _) hr
  | rot c h d a b => exact s.vop2_noTag_result d a b _ _ (fun _ => rotW_eq_rotateLeft _ _) hr
  | bfe c h d a b => exact s.vop2_noTag_result d a b _ _ (fun _ => rfl) hr
  | bfi c h d a b => exact s.vop3_result d a b none bfiW _ (fun _ => rfl) nofun hr
  | bitopPopc c h d a => exact s.vop1_result d a _ _ (fun _ => by rw [popc_toNat]) hr
  | bitopClz c h d a => exact s.vop1_result d a _ _ (fun _ => rfl) hr
  | bitopCtz c h d a => exact s.vop1_result d a _ _ (fun _ => rfl) hr
  | bitopBrev c h d a => exact s.vop1_result d a _ _ (fun _ => rfl) hr
  | bitopNot c h d a => exact s.vop1_result d a _ _ (fun _ => rfl) hr
  | sel c h d a b => exact execSel_result s d a b hr
  | mov c h d a => exact execMov_result s d a hr
  | prmt c h d a b => exact s.vop3_result d a b none prmtW _ (fun _ => rfl) nofun hr
  | fclass c h d a => exact s.vop1_result d a (fun x => BitVec.ofNat 32 (2 ^ fclassBit x.toNat)) _ (fun _ => rfl) hr
  | fcpsgn c h d a b =>
    exact s.vop2_noTag_result d a b (fun x y => (x &&& 0x7FFFFFFF) ||| (y &&& 0x80000000)) _ (fun _ => fcpsgn_masks _ _) hr
  | wtov c d a acts => exact execWtov_result s d a acts hr

end Sys2Proof.Machine

/-! PROOF. Shuffles, MATCH, masks as values, votes, reductions and scans (R140 to R144, R146): one rule for the write of one register,
the contribution set and its identities, and the butterfly of RED.FADD, which leaves one value in every lane. -/

namespace Sys2Proof.Machine

/-! ## Masks as sets of lanes -/

theorem maskOf_congr {p q : Nat → Bool} (h : ∀ l < 32, p l = q l) : maskOf p = maskOf q :=
  BitVec.eq_of_getLsbD_eq fun l hl => by rw [getLsbD_maskOf p hl, getLsbD_maskOf q hl, h l hl]
/-- Two masks are one when their lanes are compared one by one. -/
theorem decide_mask_eq (m k : Mask) (p : Nat → Bool) (h : ∀ l < 32, p l = (m.getLsbD l == k.getLsbD l)) :
    decide (m = k) = (List.range 32).all p := by
  rw [Bool.eq_iff_iff, decide_eq_true_iff, List.all_eq_true]
  constructor
  · rintro rfl l hl
    rw [h l (List.mem_range.mp hl), beq_self_eq_true]
  · intro e
    refine BitVec.eq_of_getLsbD_eq fun l hl => ?_
    have := e l (List.mem_range.mpr hl)
    rw [h l hl] at this
    exact eq_of_beq this
/-- A mask is empty when no lane is in it. -/
theorem decide_mask_ne_zero (m : Mask) (p : Nat → Bool) (h : ∀ l < 32, p l = m.getLsbD l) :
    decide (m ≠ 0) = (List.range 32).any p := by
  rw [decide_not, decide_mask_eq m 0 (fun l => !p l) fun l hl => by rw [h l hl]; simp, List.not_all_eq_any_not]
  simp

/-- R142: the lanes of E whose source is not zero. -/
theorem State.getLsbD_nonzero (s : State) (a : BitVec 7) {l : Nat} (hl : l < 32) :
    (s.nonzero a).getLsbD l = (s.inE l && Claim.vA s a l != 0) := by
  unfold State.nonzero
  rw [getLsbD_maskOf _ hl, State.lane_src]
theorem State.any_nonzero (s : State) (a : BitVec 7) :
    decide (s.nonzero a ≠ 0) = (List.range 32).any fun j => s.inE j && Claim.vA s a j != 0 :=
  decide_mask_ne_zero _ _ fun _ hl => (s.getLsbD_nonzero a hl).symm
theorem State.all_nonzero (s : State) (a : BitVec 7) :
    decide (s.nonzero a = s.eff) = (List.range 32).all fun j => !s.inE j || Claim.vA s a j != 0 :=
  decide_mask_eq _ _ _ fun l hl => by
    rw [s.getLsbD_nonzero a hl, ← State.inE]
    cases s.inE l <;> simp

/-! ## The write of one register -/

/-- R98, R140: an instruction that writes one vector register, `WC` and flags; its compact form reads as its lanes' values. -/
theorem State.effect_one_result (s : State) (d : BitVec 7) (f v : Nat → Word) (c : Option VReg) (fl : Nat → Flags) (fwc : Word → Word)
    (hv : ∀ l < 32, f l = v l) (hc : ∀ r, c = some r → ∀ l < 32, r.lane l = f l) (hr : s.fits [d.toNat]) :
    VecResult s (s.effect { writes := [⟨d.toNat, f, c⟩], flags := fl, post := fun w => { w with wc := fwc w.wc } }) [d.toNat]
      (fun _ => v) fl s.gens (fwc s.cur.wc) := by
  have h := s.effect_result { writes := [⟨d.toNat, f, c⟩], flags := fl, post := fun w => { w with wc := fwc w.wc } } (fun _ => f) fwc
    (by simp) (by simp) (fun y hy r h _ => by obtain rfl := List.mem_singleton.mp hy; exact hc r h) rfl (fun _ => rfl) hr
  exact h.congr fun _ _ => hv
/-- R140: a lane result, without a compact form. -/
theorem State.laneValue_result (s : State) (d : BitVec 7) (f v : Nat → Word) (fwc : Word → Word) (hv : ∀ l < 32, f l = v l)
    (hr : s.fits [d.toNat]) :
    ∃ t, s.laneValue d f (fun w => { w with wc := fwc w.wc }) = .next t ∧
      VecResult s t [d.toNat] (fun _ => v) noFlags s.gens (fwc s.cur.wc) :=
  ⟨_, rfl, s.effect_one_result d f v none noFlags fwc hv nofun hr⟩
/-- R140: a warp value, the same in every lane. -/
theorem State.warpValue_result (s : State) (d : BitVec 7) (x : Word) (fwc : Word → Word) (hr : s.fits [d.toNat]) :
    ∃ t, s.warpValue d x (fun w => { w with wc := fwc w.wc }) = .next t ∧
      VecResult s t [d.toNat] (fun _ _ => x) noFlags s.gens (fwc s.cur.wc) :=
  ⟨_, rfl, s.effect_one_result d (fun _ => x) _ _ noFlags fwc (fun _ _ => rfl) (by rintro _ ⟨⟩ _ _; rfl) hr⟩

/-- R141: a shuffle whose index is `j` reads lane `j`, or the lane's own value where `j` is no lane. A U source stays U. -/
theorem State.shuffle_result (s : State) (d a b : BitVec 7) (j : Nat → Nat → Int) (v : Nat → Word)
    (hv : ∀ l < 32, let k := j l (Claim.vB s b l).toNat
      v l = if 0 ≤ k ∧ k ≤ 31 then Claim.vA s a k.toNat else Claim.vA s a l)
    (hr : s.fits [d.toNat]) :
    ∃ t, s.shuffle d a b j = .next t ∧ VecResult s t [d.toNat] (fun _ => v) noFlags s.gens s.cur.wc := by
  refine ⟨_, rfl, s.effect_one_result d _ v _ noFlags id (fun l hl => ?_) ?_ hr⟩
  · simp only [State.lane_src, State.lane_srcB]
    exact (hv l hl).symm
  · intro r h l _
    split at h
    · next x hx =>
      obtain rfl := Option.some.inj h
      have same : ∀ k, (s.src a).lane k = x := fun k => by unfold State.src; rw [hx]; rfl
      simp only [same, ite_self]
      rfl
    · cases h

/-! ## Counts of a mask's lanes (R146) -/

/-- The set bits below `n` are those of the word modulo `2^n`. -/
theorem popc_mod (m : Mask) {n : Nat} (hn : n ≤ 32) : popc (m.toNat % 2 ^ n) = Claim.bitCount m n := by
  have bit : ∀ i, bitAt (m.toNat % 2 ^ n) i = (decide (i < n) && m.getLsbD i) := fun i => by
    rw [BitVec.getLsbD, ← Nat.testBit_mod_two_pow, Nat.testBit_eq_decide_div_mod_eq, bitAt, Bool.beq_eq_decide_eq]
  obtain ⟨k, hk⟩ := Nat.exists_eq_add_of_le hn
  unfold popc Claim.bitCount
  simp only [bit]
  have halves : List.range 32 = List.range n ++ (List.range k).map (n + ·) := by rw [hk, List.range_add]
  rw [halves, List.countP_append, List.countP_map]
  have high : (List.range k).countP ((fun i => decide (i < n) && m.getLsbD i) ∘ fun i => n + i) = 0 := by simp
  rw [high, Nat.add_zero]
  exact List.countP_congr fun i hi => by simp [List.mem_range.mp hi]

/-! ## The contribution set (R143) -/

theorem State.getLsbD_contrib (s : State) (b : BitVec 7) (l : Nat) : (s.contrib b).getLsbD l = Claim.inK s b l := by
  unfold State.contrib Claim.inK State.inE
  by_cases h : b = 0
  · rw [if_pos h, beq_iff_eq.mpr h, Bool.true_or, Bool.and_true]
  · rw [if_neg h, beq_eq_false_iff_ne.mpr h, Bool.false_or, BitVec.getLsbD_and]
theorem State.contribVal_eq (s : State) (a b : BitVec 7) (ident : Word) (j : Nat) :
    s.contribVal a b ident j = if Claim.inK s b j then Claim.vA s a j else ident := by
  unfold State.contribVal
  rw [s.getLsbD_contrib, State.lane_src]
/-- R143: `WC.E` says whether K is empty. -/
theorem State.setE_contrib (s : State) (b : BitVec 7) : setE s.cur.wc (decide (s.contrib b = 0)) = Claim.wcE s b := by
  have h := decide_mask_ne_zero (s.contrib b) (Claim.inK s b) fun l _ => (s.getLsbD_contrib b l).symm
  unfold setE Claim.wcE
  rw [← h, decide_not]
  cases decide (s.contrib b = 0) <;> rfl

/-- A lane that contributes the identity contributes nothing. -/
theorem foldl_identity_outside {op : Word → Word → Word} {ident : Word} (h : ∀ x, op x ident = x) (p : Nat → Bool) (v : Nat → Word)
    (js : List Nat) (x : Word) :
    js.foldl (fun x j => op x (if p j then v j else ident)) x = ((js.filter p).map v).foldl op x := by
  induction js generalizing x with
  | nil => rfl
  | cons j js ih =>
    rw [List.foldl_cons, ih]
    cases hp : p j <;> simp [hp, h]
theorem State.foldl_contribVal (s : State) (a b : BitVec 7) {op : Word → Word → Word} {ident : Word} (h : ∀ x, op x ident = x) (n : Nat) :
    (List.range n).foldl (fun x j => op x (s.contribVal a b ident j)) ident = (Claim.contribs s a b n).foldl op ident := by
  simp only [s.contribVal_eq]
  exact foldl_identity_outside h _ _ _ _
/-- R143: a reduction by an operation with its identity. -/
theorem State.reduce_result (s : State) (d a b : BitVec 7) (ident : Word) (op : Word → Word → Word) (h : ∀ x, op x ident = x)
    (hr : s.fits [d.toNat]) :
    ∃ t, s.reduce d a b ident op = .next t ∧
      VecResult s t [d.toNat] (fun _ _ => (Claim.contribs s a b 32).foldl op ident) noFlags s.gens (Claim.wcE s b) := by
  have r := s.warpValue_result d ((List.range 32).foldl (fun x j => op x (s.contribVal a b ident j)) ident)
    (fun wc => setE wc (decide (s.contrib b = 0))) hr
  rw [s.setE_contrib, s.foldl_contribVal a b h] at r
  unfold State.reduce
  rw [s.foldl_contribVal a b h]
  exact r

/-! The identities of R143. -/

theorem minS_identity (x : Word) : minS x 0x7FFFFFFF = x :=
  if_pos (BitVec.sle_iff_toInt_le.mpr (Int.le_of_lt_add_one BitVec.toInt_lt))
theorem minN_identity (x : Word) : minN x 0xFFFFFFFF = x :=
  if_pos (BitVec.ule_iff_toNat_le.mpr (Nat.le_of_lt_succ x.isLt))
theorem maxS_identity (x : Word) : maxS x 0x80000000 = x := by
  rw [maxS_eq_slt, if_neg]
  exact fun h => absurd (BitVec.slt_iff_toInt_lt.mp h) (Int.not_lt.mpr (BitVec.le_toInt x))
theorem maxN_identity (x : Word) : maxN x 0 = x := by
  rw [maxN_eq_ult, if_neg]
  exact fun h => absurd (BitVec.ult_iff_toNat_lt.mp h) (Nat.not_lt_zero _)

/-! ## The trees of float sums (R94, R144) -/

/-! The value of a sum does not depend on the flags raised before it. -/

theorem pickGrid_value_anyFlags (rm : Rounding) (lo r d : Int) (neg : Bool) (n : LaneNum) (fl : Flags) :
    (pickGrid rm lo r d neg { n with fl := fl }).1 = (pickGrid rm lo r d neg n).1 := by
  cases rm <;> rfl
theorem roundGrid_value_anyFlags (rm : Rounding) (m e q : Int) (n : LaneNum) (fl : Flags) :
    (roundGrid rm m e q { n with fl := fl }).1 = (roundGrid rm m e q n).1 := by
  unfold roundGrid
  dsimp only
  split <;> exact pickGrid_value_anyFlags ..
theorem infPatOf_value_anyFlags (env : NumEnv) (f : Fmt) (neg : Bool) (n m : LaneNum) : (infPatOf env f neg n).1 = (infPatOf env f neg m).1 := by
  unfold infPatOf
  split
  · rfl
  · split <;> rfl
theorem nanResult_value_anyFlags (env : NumEnv) (f : Fmt) (ops : List FVal) (n m : LaneNum) :
    (nanResult env f ops n).1 = (nanResult env f ops m).1 := by
  unfold nanResult
  split <;> rfl
theorem flushOut_value_anyFlags (env : NumEnv) (f : Fmt) (p : Nat) (n m : LaneNum) : (flushOut env f p n).1 = (flushOut env f p m).1 := by
  unfold flushOut
  split <;> rfl
theorem roundFin_value_anyFlags (env : NumEnv) (f : Fmt) (x : Dy) (zneg : Bool) (n : LaneNum) (fl : Flags) :
    (roundFin env f x zneg { n with fl := fl }).1 = (roundFin env f x zneg n).1 := by
  unfold roundFin
  split
  · rfl
  · dsimp only
    rw [roundGrid_value_anyFlags]
    split
    · rfl
    · exact flushOut_value_anyFlags ..
theorem fAdd_value_anyFlags (env : NumEnv) (f : Fmt) (x y : FVal) (n : LaneNum) (fl : Flags) :
    (fAdd env f x y { n with fl := fl }).1 = (fAdd env f x y n).1 := by
  unfold fAdd
  split
  · exact nanResult_value_anyFlags ..
  split
  · rfl
  split
  · exact infPatOf_value_anyFlags ..
  split
  · exact infPatOf_value_anyFlags ..
  · exact roundFin_value_anyFlags ..
/-- A step of the tree of RED.FADD: the sum of the lower and the upper partner. -/
theorem redStep_value (env : NumEnv) (xs : List (Nat × Flags)) (d : Nat) {l : Nat} (hl : l < 32) :
    ((redStep env xs d).getD l (0, 0)).1 =
      (treeAdd env (xs.getD (min l (l ^^^ d)) (0, 0)).1 (xs.getD (max l (l ^^^ d)) (0, 0)).1 ⟨0, 0⟩).1 := by
  unfold redStep
  rw [List.getD_eq_getElem?_getD, List.getElem?_map, List.getElem?_range hl]
  exact fAdd_value_anyFlags _ _ _ _ ⟨0, 0⟩ _

/-- The distances of the trees (R94). -/
def treeSteps : List Nat := [1, 2, 4, 8, 16]
/-- Lanes of one aligned block of `d` lanes hold one value. -/
def EqualInBlocks (xs : List (Nat × Flags)) (d : Nat) : Prop :=
  ∀ i < 32, ∀ j < 32, i / d = j / d → (xs.getD i (0, 0)).1 = (xs.getD j (0, 0)).1
/-- The partners at distance `d` are lanes, of the lower and of the upper half of their block of `2 * d`. -/
theorem partner_blocks : ∀ d ∈ treeSteps, ∀ l < 32, min l (l ^^^ d) < 32 ∧ max l (l ^^^ d) < 32 ∧
    min l (l ^^^ d) / d = 2 * (l / (2 * d)) ∧ max l (l ^^^ d) / d = 2 * (l / (2 * d)) + 1 := by decide
/-- Each step of RED.FADD doubles the blocks that hold one value. -/
theorem EqualInBlocks.redStep {xs : List (Nat × Flags)} {d : Nat} (h : EqualInBlocks xs d) (env : NumEnv) (hd : d ∈ treeSteps) :
    EqualInBlocks (redStep env xs d) (2 * d) := by
  intro i hi j hj e
  obtain ⟨li, ui, loi, upi⟩ := partner_blocks d hd i hi
  obtain ⟨lj, uj, loj, upj⟩ := partner_blocks d hd j hj
  rw [redStep_value env xs d hi, redStep_value env xs d hj, h _ li _ lj (by rw [loi, loj, e]), h _ ui _ uj (by rw [upi, upj, e])]
/-- R94: the tree of RED.FADD leaves one value in every lane. -/
theorem redTree_value (env : NumEnv) (xs : List (Nat × Flags)) {l : Nat} (hl : l < 32) :
    ((treeSteps.foldl (redStep env) xs).getD l (0, 0)).1 = ((treeSteps.foldl (redStep env) xs).getD 0 (0, 0)).1 := by
  have start : EqualInBlocks xs 1 := fun i _ j _ e => by rw [Nat.div_one, Nat.div_one] at e; rw [e]
  have full : EqualInBlocks (treeSteps.foldl (redStep env) xs) 32 :=
    ((((start.redStep env (by decide)).redStep env (by decide)).redStep env (by decide)).redStep env (by decide)).redStep env (by decide)
  exact full l hl 0 (by decide) (by rw [Nat.div_eq_of_lt hl, Nat.zero_div])

/-- The tree of the statements runs over the contributions of the model. -/
theorem State.tree_eq (s : State) (step : NumEnv → List (Nat × Flags) → Nat → List (Nat × Flags)) (a b : BitVec 7) (l : Nat) :
    Claim.tree s step a b l = (treeSteps.foldl (step s.env) (s.fadds a b)).getD l (0, 0) := by
  unfold Claim.tree State.fadds treeSteps
  simp only [s.contribVal_eq]
/-- R94, R144: a tree whose lanes hold `Claim.tree`, with its flags and `WC.E`. -/
theorem State.tree_result (s : State) (step : NumEnv → List (Nat × Flags) → Nat → List (Nat × Flags)) (d a b : BitVec 7)
    (c : Option VReg) (hc : ∀ r, c = some r → ∀ l < 32, r.lane l = BitVec.ofNat 32 (Claim.tree s step a b l).1) (hr : s.fits [d.toNat]) :
    let t := treeSteps.foldl (step s.env) (s.fadds a b)
    VecResult s (s.effect { writes := [⟨d.toNat, fun l => BitVec.ofNat 32 (t.getD l (0, 0)).1, c⟩]
                            flags := (fun l => (t.getD l (0, 0)).2), post := setEmpty (s.contrib b) }) [d.toNat]
      (fun _ l => BitVec.ofNat 32 (Claim.tree s step a b l).1) (fun l => (Claim.tree s step a b l).2) s.gens (Claim.wcE s b) := by
  simp only [s.tree_eq] at hc ⊢
  rw [← s.setE_contrib]
  exact s.effect_one_result d _ _ c _ (fun wc => setE wc (decide (s.contrib b = 0))) (fun _ _ => rfl) hc hr

/-! ## Instructions with a form of their own -/

/-- R143: SCAN.ADD, the sum of the contributions up to the lane. -/
theorem execScanAdd_result (s : State) (d a b : BitVec 7) (hr : s.fits [d.toNat]) :
    ∃ t, execScanAdd d a b s = .next t ∧
      VecResult s t [d.toNat] (fun _ l => (Claim.contribs s a b (l + 1)).foldl (· + ·) 0) noFlags s.gens (Claim.wcE s b) := by
  rw [← s.setE_contrib]
  exact s.laneValue_result d _ _ (fun wc => setE wc (decide (s.contrib b = 0))) (fun l _ => s.foldl_contribVal a b BitVec.add_zero _) hr
/-- R144: RED.FADD. -/
theorem execRedFadd_result (s : State) (d a b : BitVec 7) (hr : s.fits [d.toNat]) :
    ∃ t, execRedFadd d a b s = .next t ∧ VecResult s t [d.toNat] (fun _ l => BitVec.ofNat 32 (Claim.tree s redStep a b l).1)
      (fun l => (Claim.tree s redStep a b l).2) s.gens (Claim.wcE s b) := by
  refine ⟨_, rfl, s.tree_result redStep d a b _ ?_ hr⟩
  rintro _ ⟨⟩ l hl
  rw [s.tree_eq, redTree_value _ _ hl]
  rfl
/-- R144: SCAN.FADD. -/
theorem execScanFadd_result (s : State) (d a b : BitVec 7) (hr : s.fits [d.toNat]) :
    ∃ t, execScanFadd d a b s = .next t ∧ VecResult s t [d.toNat] (fun _ l => BitVec.ofNat 32 (Claim.tree s scanStep a b l).1)
      (fun l => (Claim.tree s scanStep a b l).2) s.gens (Claim.wcE s b) :=
  ⟨_, rfl, s.tree_result scanStep d a b none nofun hr⟩
/-- R142: VOTE.ANY. -/
theorem execVoteAny_result (s : State) (d a : BitVec 7) (hr : s.fits [d.toNat]) :
    let p := (List.range 32).any fun j => s.inE j && Claim.vA s a j != 0
    ∃ t, execVoteAny d a s = .next t ∧ VecResult s t [d.toNat] (fun _ _ => if p then 1 else 0) noFlags s.gens (Claim.wcC s p) := by
  unfold execVoteAny
  rw [s.any_nonzero]
  exact s.warpValue_result d _ (fun wc => setC wc _) hr
/-- R142: VOTE.ALL. -/
theorem execVoteAll_result (s : State) (d a : BitVec 7) (hr : s.fits [d.toNat]) :
    let p := (List.range 32).all fun j => !s.inE j || Claim.vA s a j != 0
    ∃ t, execVoteAll d a s = .next t ∧ VecResult s t [d.toNat] (fun _ _ => if p then 1 else 0) noFlags s.gens (Claim.wcC s p) := by
  unfold execVoteAll
  rw [s.all_nonzero]
  exact s.warpValue_result d _ (fun wc => setC wc _) hr

/-! ## The statement -/

/-- R141, R142, R146: what each shuffle reads, and the values made of lanes and masks. -/
theorem laneResults : Claim.LaneResults := by
  intro s i d v h hr
  cases h with unfold exec
  | shflIdx c h d a b =>
    refine s.shuffle_result d a b _ _ (fun l _ => ?_) hr
    dsimp only
    rw [if_pos (by omega), Int.toNat_natCast]
  | shflUp c h d a b =>
    refine s.shuffle_result d a b _ _ (fun l hl => ?_) hr
    dsimp only
    by_cases h : (Claim.vB s b l).toNat ≤ l
    · rw [if_pos h, if_pos (by omega), Int.toNat_sub]
    · rw [if_neg h, if_neg (by omega)]
  | shflDn c h d a b =>
    refine s.shuffle_result d a b _ _ (fun l hl => ?_) hr
    dsimp only
    by_cases h : l + (Claim.vB s b l).toNat ≤ 31
    · rw [if_pos h, if_pos (by omega), ← Int.natCast_add, Int.toNat_natCast]
    · rw [if_neg h, if_neg (by omega)]
  | shflXor c h d a b =>
    refine s.shuffle_result d a b _ _ (fun l hl => ?_) hr
    have : l ^^^ ((Claim.vB s b l).toNat % 32) < 2 ^ 5 := Nat.xor_lt_two_pow hl (Nat.mod_lt _ (by decide))
    dsimp only
    rw [if_pos (by omega), Int.toNat_natCast]
  | matchLanes c h d a =>
    exact s.laneValue_result d _ _ id (fun l _ => maskOf_congr fun j _ => by rw [State.lane_src, State.lane_src]) hr
  | mpopc c h d a =>
    rw [← popc_toNat]
    exact s.warpValue_result d _ id hr
  | mpopcRank c h d a => exact s.laneValue_result d _ _ id (fun l hl => by rw [popc_mod _ hl.le]) hr
  | mfirst c h d a => exact s.warpValue_result d _ id hr
  | mtov c h d a => exact s.warpValue_result d _ id hr

/-- R142 to R144: votes, reductions by their identities, and the trees of float sums. -/
theorem warpResults : Claim.WarpResults := by
  intro s i d v fl wc h hr
  cases h with unfold exec
  | voteAny c h d a => exact execVoteAny_result s d a hr
  | voteAll c h d a => exact execVoteAll_result s d a hr
  | redAdd c h d a b => exact s.reduce_result d a b _ _ BitVec.add_zero hr
  | redMinS c h d a b => exact s.reduce_result d a b _ _ minS_identity hr
  | redMinN c h d a b => exact s.reduce_result d a b _ _ minN_identity hr
  | redMaxS c h d a b => exact s.reduce_result d a b _ _ maxS_identity hr
  | redMaxN c h d a b => exact s.reduce_result d a b _ _ maxN_identity hr
  | redAnd c h d a b => exact s.reduce_result d a b _ _ (fun _ => BitVec.and_allOnes) hr
  | redOr c h d a b => exact s.reduce_result d a b _ _ (fun _ => BitVec.or_zero) hr
  | scanAdd c h d a b => exact execScanAdd_result s d a b hr
  | redFadd c h d a b => exact execRedFadd_result s d a b hr
  | scanFadd c h d a b => exact execScanFadd_result s d a b hr

/-- Settles O23: shuffles and lane values by their lanes, votes, reductions and scans by their contributions. -/
theorem laneAndWarpResults : Obligations.LaneAndWarpResults := ⟨laneResults, warpResults⟩

end Sys2Proof.Machine

/-! PROOF. The uniform instructions, the mask algebra and the masks written whole (R125 to R130, R142, R145, R147): what an instruction that
executes once for its warp leaves, by what it writes, and what an effect on a mask leaves. -/

namespace Sys2Proof.Machine

/-! ## Registers and masks of a warp -/

theorem Warp.wreg_setWreg_eq (w : Warp) (d r : Nat) (x : Word) : (w.setWreg d x).wreg r = if r = d then x else w.wreg r :=
  mapGet_mapSet ..
theorem Warp.mask_setMask_eq (w : Warp) (k j : Nat) (x : Mask) : (w.setMask k x).mask j = if j = k then x else w.mask j :=
  mapGet_mapSet ..
/-- R65: a pair's words read back, the low word in the lower register. -/
theorem Warp.wreg_setWpair_eq (w : Warp) (d r : Nat) (x : DWord) :
    (w.setWpair d x).wreg r = if r = d + 1 then x.extractLsb' 32 32 else if r = d then x.extractLsb' 0 32 else w.wreg r := by
  unfold Warp.setWpair
  rw [Warp.wreg_setWreg_eq, Warp.wreg_setWreg_eq, BitVec.setWidth_ushiftRight_eq_extractLsb, BitVec.setWidth_eq_extractLsb' (by decide)]

/-- R50: an issue set that goes on, without flags. -/
theorem lanesPass_of_advance {s t : State} (h : ∀ l < 32, t.cur.lane l =
    if s.inSet l then { s.cur.lane l with pc := s.issue.pc + s.len } else s.cur.lane l) : LanesPass s t s.gens noFlags := by
  intro l hl
  rw [h l hl]
  simp [noFlags, State.gens]

/-! ## Instructions that execute once for their warp (R126, R384) -/

/-- A uniform instruction whose effect on the warp writes `ws`, a mask and `WC`. -/
theorem State.uni_result (s : State) (f : Warp → Warp) (ws : List Nat) (v : Nat → Word) (mk : Option (Nat × Mask)) (wc : Word)
    (hw : f s.cur = { s.cur with wregs := (f s.cur).wregs, masks := (f s.cur).masks, wc := wc })
    (hv : ∀ r ∈ ws, (f s.cur).wreg r = v r) (hr : ∀ r ∉ ws, (f s.cur).wreg r = s.cur.wreg r)
    (hm : ∀ j, (f s.cur).mask j = mk.elim (s.cur.mask j) fun e => if j = e.1 then e.2 else s.cur.mask j) :
    ∃ t, s.uni f = .next t ∧ UniResult s t ws v mk wc := by
  obtain ⟨t, ht, only, lanes, cur⟩ := s.uni_spec f
  refine ⟨t, ht, ?_⟩
  have lane : ∀ l, (f s.cur).lane l = s.cur.lane l := fun l => by rw [hw]; rfl
  have wreg : ∀ r, t.cur.wreg r = (if s.acts then f s.cur else s.cur).wreg r := fun r => congrArg (·.wreg r) cur
  have mask : ∀ j, t.cur.mask j = (if s.acts then f s.cur else s.cur).mask j := fun j => congrArg (·.mask j) cur
  cases h : s.acts with
  | false =>
    simp only [h, Bool.false_eq_true, if_false] at lanes cur wreg mask
    refine ⟨only, lanesPass_of_advance lanes, ?_, fun r _ => wreg r, ?_, ?_⟩
    · intro r _
      rw [wreg, h, if_neg Bool.false_ne_true]
    · intro j
      rw [mask]
      cases mk <;> simp [h]
    · rw [h]
      generalize t.cur.lanes = L at cur
      rw [cur]
      rfl
  | true =>
    simp only [h, if_true, lane] at lanes cur wreg mask
    refine ⟨only, lanesPass_of_advance lanes, ?_, fun r h => (wreg r).trans (hr r h), ?_, ?_⟩
    · intro r hmem
      rw [wreg, h, if_pos rfl, hv r hmem]
    · intro j
      rw [mask, hm]
      cases mk <;> simp [h]
    · rw [h, cur, hw]
      rfl
/-- A uniform instruction that writes one uniform register. -/
theorem State.uni_wreg_result (s : State) (d : BitVec 8) (g : Warp → Word) (x : Word) (hx : g s.cur = x) :
    ∃ t, s.uni (fun w => w.setWreg d.toNat (g w)) = .next t ∧ UniResult s t [d.toNat] (fun _ => x) none s.cur.wc := by
  subst hx
  refine s.uni_result _ _ _ _ _ rfl ?_ ?_ fun _ => rfl
  · intro r hr
    rw [List.mem_singleton.mp hr, Warp.wreg_setWreg]
  · exact fun r hr => Warp.wreg_setWreg_ne _ _ fun e => hr (List.mem_singleton.mpr e)
/-- R127: a uniform register from two. -/
theorem State.wop2_result (s : State) (d a : BitVec 8) (b : BitVec 6) (g : Word → Word → Word) (x : Word)
    (hx : g (Claim.uR s a) (Claim.uR s b) = x) :
    ∃ t, s.wop2 d a b g = .next t ∧ UniResult s t [d.toNat] (fun _ => x) none s.cur.wc :=
  s.uni_wreg_result d _ x hx
/-- R145: the mask algebra. -/
theorem State.maskOp_result (s : State) (d a b : BitVec 3) (g : Mask → Mask → Mask) :
    ∃ t, s.maskOp d a b g = .next t ∧
      UniResult s t [] (fun _ => 0) (some (d.toNat, g (s.cur.mask a.toNat) (s.cur.mask b.toNat))) s.cur.wc :=
  s.uni_result _ _ _ _ _ rfl nofun (fun _ _ => rfl) fun _ => Warp.mask_setMask_eq ..

/-! ## Instructions with a form of their own -/

/-- R125: WCMP writes the condition into `WC.C`. -/
theorem execWcmp_result (s : State) (k : BitVec 4) (a : BitVec 8) (b : BitVec 6) :
    ∃ t, execWcmp k a b s = .next t ∧
      UniResult s t [] (fun _ => 0) none (Claim.wcC s (iCompare k.toNat (Claim.uR s a) (Claim.uR s b))) :=
  s.uni_result _ _ _ _ _ rfl nofun (fun _ _ => rfl) fun _ => rfl
/-- R128: WLIH shifts fourteen bits in from below. -/
theorem shiftLeft_add_low (x : Word) (i : BitVec 14) : (x <<< 14) + i.setWidth 32 = x.extractLsb' 0 18 ++ i := by
  apply BitVec.eq_of_toNat_eq
  have := i.isLt
  rw [BitVec.toNat_append, ← Nat.shiftLeft_add_eq_or_of_lt this]
  simp only [BitVec.toNat_add, BitVec.toNat_shiftLeft, BitVec.toNat_setWidth, BitVec.extractLsb'_toNat, Nat.shiftLeft_eq,
    Nat.shiftRight_zero]
  omega
/-- R130: WADD64 writes a pair. -/
theorem execWadd64_result (s : State) (d a : BitVec 8) (b : BitVec 6) :
    ∃ t, execWadd64 d a b s = .next t ∧ UniResult s t [d.toNat, d.toNat + 1]
      (fun r => let x := s.cur.wpair a.toNat + s.cur.wpair b.toNat
        if r = d.toNat then x.extractLsb' 0 32 else x.extractLsb' 32 32) none s.cur.wc := by
  refine s.uni_result _ _ _ _ _ rfl ?_ ?_ fun _ => rfl
  · intro r hr
    rw [Warp.wreg_setWpair_eq]
    rcases List.mem_pair.mp hr with rfl | rfl
    · simp
    · simp
  · intro r hr
    obtain ⟨h0, h1⟩ := not_or.mp (mt List.mem_pair.mpr hr)
    rw [Warp.wreg_setWpair_eq, if_neg h1, if_neg h0]
/-- R129, R384: WTOV for helper lanes alone. -/
theorem execWtov_helpers (s : State) (d : BitVec 7) (a : BitVec 8) (h : s.acts = false) :
    ∃ t, execWtov d a s = .next t ∧ UniResult s t [] (fun _ => 0) none s.cur.wc := by
  obtain ⟨t, ht, r⟩ := s.uni_result id [] (fun _ => 0) none s.cur.wc rfl nofun (fun _ _ => rfl) fun _ => rfl
  refine ⟨t, ?_, r⟩
  rw [← ht]
  simp [execWtov, State.uni, h]

/-! ## Masks written whole (R142, R147) -/

/-- R147: the lowest lane of E is the one with no lane of E below it. -/
theorem State.lowest_inE (s : State) {l : Nat} (hl : l < 32) :
    decide (some l = lowest (fun j => s.inE j) (List.range 32)) = (s.inE l && (List.range l).all fun j => !s.inE j) := by
  rw [Bool.eq_iff_iff, decide_eq_true_iff, eq_comm, lowest, List.find?_range_eq_some]
  simp [hl]
/-- R49: an effect that writes one mask and nothing else, for an E that is not empty. -/
theorem State.effect_setMask (s : State) (k : Nat) (m : Mask) (he : s.eff ≠ 0) :
    s.effect { post := fun w => w.setMask k m } = (s.modCur fun w => w.setMask k m).advance := by
  have warp : s.effectWarp { post := fun w => w.setMask k m } = s.cur.setMask k m := by
    show { s.cur.setMask k m with mode := modeRaise s.cur.mode (s.raisedFlags noFlags) } = _
    rw [s.raisedFlags_zero, modeRaise_zero]
    rfl
  have ends : ∀ l, (if s.eff.getLsbD l then s.arithEnd 0 .next else .next) = LaneEnd.next := fun l => by simp [State.arithEnd]
  rw [s.effect_fits _ he (.inl rfl), warp]
  simp only [ends]
  rfl
/-- The issue set goes on in a state that differs in the warp's masks. -/
theorem State.advance_masks (s u : State) (hi : u.issue = s.issue) (hc : u.cur = { s.cur with masks := u.cur.masks }) :
    LanesPass s u.advance s.gens noFlags ∧
      u.advance.cur = { s.cur with lanes := u.advance.cur.lanes, masks := u.advance.cur.masks } := by
  constructor
  · refine lanesPass_of_advance fun l hl => ?_
    rw [u.lane_advance hl, hc]
    unfold State.inSet State.len
    rw [hi]
    rfl
  · have hf : u.advance.cur = { u.cur with lanes := u.advance.cur.lanes } := u.cur_finish _
    generalize u.advance.cur = x at hf
    rw [hf, hc]
/-- R142, R147: an instruction that writes one mask whole, and nothing when E is empty. -/
theorem State.maskResult_result (s : State) (d : BitVec 3) (m : Mask) :
    ∃ t, s.maskResult d m = .next t ∧ OnlyWarp s t ∧ LanesPass s t s.gens noFlags ∧
      t.cur = { s.cur with lanes := t.cur.lanes, masks := t.cur.masks } ∧
      ∀ j, t.cur.mask j = if j = d.toNat ∧ s.eff ≠ 0 then m else s.cur.mask j := by
  refine ⟨_, rfl, s.onlyWarp_effect _, ?_⟩
  by_cases he : s.eff = 0
  · rw [s.effect_empty _ he]
    obtain ⟨lanes, cur⟩ := s.advance_masks s rfl rfl
    refine ⟨lanes, cur, fun j => ?_⟩
    rw [if_neg fun h => h.2 he]
    exact s.mask_finish _ j
  · rw [s.effect_setMask _ _ he]
    have hc := s.cur_modCur fun w => w.setMask d.toNat m
    obtain ⟨lanes, cur⟩ := s.advance_masks (s.modCur fun w => w.setMask d.toNat m) rfl (by rw [hc]; rfl)
    refine ⟨lanes, cur, fun j => ?_⟩
    rw [State.advance, State.mask_finish, hc, Warp.mask_setMask_eq]
    simp only [he, ne_eq, not_false_eq_true, and_true]

/-! ## The statement -/

/-- R142, R147: BALLOT, ELECT and ISSUEM. -/
theorem wholeMasks : Claim.WholeMasks := by
  intro s i k m h
  cases h with unfold exec
  | ballot c h d a =>
    rw [maskOf_congr fun l _ => congrArg (fun x => s.inE l && x != 0) (s.lane_src a l).symm]
    exact s.maskResult_result d _
  | elect c h d =>
    rw [← maskOf_congr (fun l hl => s.lowest_inE hl)]
    exact s.maskResult_result d _
  | issuem c h d => exact s.maskResult_result d _

/-- R125 to R130, R145, R384: the uniform instructions and the mask algebra. -/
theorem uniformResults : Claim.UniformResults := by
  intro s
  refine ⟨fun i ws v mk wc h => ?_, fun c d a h => by unfold exec; exact execWtov_helpers s d a h⟩
  cases h with unfold exec
  | wadd c d a b => exact s.wop2_result d a b _ _ rfl
  | wsub c d a b => exact s.wop2_result d a b _ _ rfl
  | wmul c d a b => exact s.wop2_result d a b _ _ rfl
  | wand c d a b => exact s.wop2_result d a b _ _ rfl
  | wor c d a b => exact s.wop2_result d a b _ _ rfl
  | wxor c d a b => exact s.wop2_result d a b _ _ rfl
  | wshl c d a b => exact s.wop2_result d a b _ _ (shlW_eq_shiftLeft _ _)
  | wshr c d a b => exact s.wop2_result d a b _ _ (shrW_eq_ushiftRight _ _)
  | wsar c d a b => exact s.wop2_result d a b _ _ (sarW_eq_sshiftRight _ _)
  | wcmp c k a b => exact execWcmp_result s k a b
  | wsel c d a b => exact s.uni_wreg_result d _ _ rfl
  | wmov c d a => exact s.uni_wreg_result d _ _ rfl
  | wli c d i => exact s.uni_wreg_result d _ _ rfl
  | wlih c d i => exact s.uni_wreg_result d _ _ (shiftLeft_add_low _ _)
  | wadd64 c d a b => exact execWadd64_result s d a b
  | vtow c d a b => exact s.uni_wreg_result d _ _ rfl
  | waddi c d a i => exact s.uni_wreg_result d _ _ rfl
  | wmin c d a b => exact s.wop2_result d a b _ _ (minS_eq_slt _ _)
  | wmax c d a b => exact s.wop2_result d a b _ _ (maxS_eq_slt _ _)
  | mand c h d a b => exact s.maskOp_result d a b _
  | mor c h d a b => exact s.maskOp_result d a b _
  | mxor c h d a b => exact s.maskOp_result d a b _
  | mandn c h d a b => exact s.maskOp_result d a b _
  | mmov c h d a => exact s.maskOp_result d a a _

/-- Settles O25: class 0x3 and the mask algebra by what each writes once for its warp, and the masks written whole. -/
theorem uniformAndWholeMasks : Obligations.UniformAndWholeMasks := ⟨uniformResults, wholeMasks⟩

end Sys2Proof.Machine

/-! PROOF. The branches and the loop branch (R148 to R151, R384): the end of a lane that takes a transfer, and LOOPW by its three cases. -/

namespace Sys2Proof.Machine

/-! ## Transfers (R17, R149) -/

/-- A transfer ends in its lane as the statements say: at the target, or with the fetch fault on the transfer. -/
theorem State.finish_transferEnd (s : State) (x : Lane) (w : Int) :
    x.finish s.issue.pc s.len (s.transferEnd w) = Claim.jump s x w := by
  unfold State.transferEnd Claim.jump
  split
  · rfl
  · obtain ⟨_, _, _, _, _, _, _, _, _, _, trap⟩ := x
    cases trap <;> rfl
/-- The end of a lane that transfers to a word, or goes on. -/
def State.branchEnd (s : State) : Option Int → LaneEnd
  | some w => s.transferEnd w
  | none => .next
/-- Lanes that end so, in a state that issues as `s` does and has its lanes, land where `dest` says. -/
theorem State.finish_lands (s u : State) (hi : u.issue = s.issue) (hl : u.cur.lanes = s.cur.lanes) (e : Nat → LaneEnd)
    (dest : Nat → Option Int) (he : ∀ l, e l = s.branchEnd (dest l)) : Claim.Lands s (u.finish e) dest := by
  intro l h
  rw [u.lane_finish _ h, Warp.lane_congr hl l, he]
  unfold State.inSet State.len
  rw [hi]
  cases dest l with
  | none => rfl
  | some w =>
    simp only [← s.finish_transferEnd]
    rfl
/-- R150, R151: a branch that changes nothing but its lanes. -/
theorem State.finish_branch (s : State) (e : Nat → LaneEnd) (dest : Nat → Option Int) (he : ∀ l, e l = s.branchEnd (dest l)) :
    ∃ t, (.next (s.finish e) : Res) = .next t ∧ OnlyWarp s t ∧ t.cur = { s.cur with lanes := t.cur.lanes } ∧ Claim.Lands s t dest :=
  ⟨_, rfl, s.onlyWarp_finish e, s.cur_finish e, s.finish_lands s rfl rfl e dest he⟩

/-- R150, R151: BRA, BRC, BRW, BRI and RET. -/
theorem branches : Claim.Branches := by
  intro s i dest h
  cases h with unfold exec
  | bra c o => exact s.finish_branch _ _ fun _ => rfl
  | brc c n k o =>
    refine s.finish_branch _ _ fun l => ?_
    show (if (_ ^^ _) = true then _ else _) = _
    split <;> rfl
  | brw c n o =>
    refine s.finish_branch _ _ fun l => ?_
    show (if (_ ^^ _) = true then _ else _) = _
    split <;> rfl
  | bri c h a => exact s.finish_branch _ _ fun l => by rw [State.lane_src]; rfl
  | ret c h a => exact s.finish_branch _ _ fun l => by rw [State.lane_src]; rfl

/-! ## LOOPW (R150, R384) -/

/-- LOOPW for helper lanes alone only passes. -/
theorem execLoopw_helpers (s : State) (w : BitVec 4) (o : BitVec 18) (h : s.acts = false) : execLoopw w o s = .next s.advance := by
  unfold execLoopw
  simp only [h, if_true]
/-- A LOOPW whose branch would leave the segment writes no counter. -/
theorem execLoopw_leaves (s : State) (w : BitVec 4) (o : BitVec 18) (h : s.acts = true)
    (hl : s.cur.wreg w.toNat - 1 ≠ 0 ∧ s.validTarget (s.brTarget o) = false) :
    execLoopw w o s = .next (s.finish fun _ => s.transferEnd (s.brTarget o)) := by
  unfold execLoopw
  rw [h, if_neg Bool.noConfusion]
  exact if_pos hl
/-- Any other LOOPW counts, and branches while the counter is not zero. -/
theorem execLoopw_counts (s : State) (w : BitVec 4) (o : BitVec 18) (h : s.acts = true)
    (hl : ¬ (s.cur.wreg w.toNat - 1 ≠ 0 ∧ s.validTarget (s.brTarget o) = false)) :
    execLoopw w o s = .next ((s.modCur fun x => x.setWreg w.toNat (s.cur.wreg w.toNat - 1)).finish fun _ =>
      if s.cur.wreg w.toNat - 1 ≠ 0 then s.transferEnd (s.brTarget o) else .next) := by
  unfold execLoopw
  rw [h, if_neg Bool.noConfusion]
  exact if_neg hl
/-- Lanes that end in a state that differs in the warp's uniform registers. -/
theorem State.cur_finish_wregs (s u : State) (e : Nat → LaneEnd) (hc : u.cur = { s.cur with wregs := u.cur.wregs }) :
    (u.finish e).cur = { s.cur with lanes := (u.finish e).cur.lanes, wregs := (u.finish e).cur.wregs } := by
  have hf := u.cur_finish e
  generalize (u.finish e).cur = x at hf
  rw [hf, hc]

/-- R150, R384: LOOPW for helpers alone, with a branch that leaves the segment, and with any other. -/
theorem loopBranch : Claim.LoopBranch := by
  intro s c w o n leaves
  unfold exec
  have target : s.validTarget (s.brTarget o) = false ↔ leaves := decide_eq_false_iff_not
  cases acts : s.acts with
  | false =>
    refine ⟨_, execLoopw_helpers s w o acts, s.onlyWarp_finish _, s.cur_finish_wregs s _ rfl, fun r _ => s.wreg_finish _ r, fun _ => ?_, nofun⟩
    exact ⟨s.wreg_finish _ _, s.finish_lands s rfl rfl _ _ fun _ => rfl⟩
  | true =>
    have ends : ∀ l : Nat, (if n ≠ 0 then s.transferEnd (s.brTarget o) else .next) =
        s.branchEnd (if n ≠ 0 then some (Claim.brWord s o) else none) := fun _ => by split <;> rfl
    by_cases hl : n ≠ 0 ∧ leaves
    · refine ⟨_, execLoopw_leaves s w o acts ⟨hl.1, target.mpr hl.2⟩, s.onlyWarp_finish _, s.cur_finish_wregs s _ rfl,
        fun r _ => s.wreg_finish _ r, nofun, fun _ => ⟨fun _ => s.wreg_finish _ _, fun h => absurd hl h, ?_⟩⟩
      exact s.finish_lands s rfl rfl _ _ fun l => by rw [← ends l, if_pos hl.1]
    · have hc := s.cur_modCur fun x => x.setWreg w.toNat n
      refine ⟨_, execLoopw_counts s w o acts fun h => hl ⟨h.1, target.mp h.2⟩, s.onlyWarp_setFinish _ _,
        s.cur_finish_wregs _ _ (by rw [hc]; rfl), fun r hr => ?_, nofun, fun _ => ⟨fun h => absurd h hl, fun _ => ?_, ?_⟩⟩
      · rw [State.wreg_finish, hc, Warp.wreg_setWreg_ne _ _ hr]
      · rw [State.wreg_finish, hc, Warp.wreg_setWreg]
      · exact s.finish_lands (s.modCur fun x => x.setWreg w.toNat n) rfl (by rw [hc]; rfl) _ _ ends

/-- Settles O26: each branch by where its lanes end, and LOOPW by what becomes of its counter. -/
theorem branchesAndLoops : Obligations.BranchesAndLoops := ⟨branches, loopBranch⟩

end Sys2Proof.Machine
